-- ==== Sys2Proof/Word.lean ====
section
/-! DEFINITION. The word types of the N4 (R4, R6): bytes, 32-bit registers, 64-bit pairs, operand codes. -/

namespace Sys2Proof

/-- A byte of memory. -/
abbrev Byte := BitVec 8

/-- A 32-bit register or code word (R12, R38). -/
abbrev Word := BitVec 32

/-- A 64-bit value: a register pair or a beacon register (R6, R234). -/
abbrev DWord := BitVec 64

/-- A seven-bit operand code (R40, R235). -/
abbrev Opnd := BitVec 7

/-- A 24-bit logical time (R316). -/
abbrev Time := BitVec 24

end Sys2Proof
end

