-- ==== Sys2Proof/Config.lean ====
section
/-! DEFINITION. What the spec fixes for every N4, and the values it leaves open. An open value is an opaque constant: no
body, so no proof can use what it is. -/

namespace Sys2Proof.Config

/-- Cores of the package (R1). -/
def cores : Nat := 384

/-- Cores of a die (R1). -/
def coresPerDie : Nat := 192

/-- Clusters of the package (R1). -/
def clusters : Nat := 96

/-- Cores of a cluster (R1). -/
def coresPerCluster : Nat := 4

/-- Crew slots of a core (R172). -/
def slots : Nat := 32

/-- Bytes of a cluster's scratchpad (R268). -/
def scratchBytes : Nat := 0x100000

/-- Bytes of a core's accumulator memory (R215). -/
def accBytes : Nat := 0x40000

/-- Isles of a package (R406). -/
def isles : Nat := 16

/-- Whether a register read before its producer's result distance yields the value before that producer's write (R46):
cycle, core, crew slot, tid, register, and which of the producers, the newest being 0. Log 11. -/
opaque freePick (cycle core slot tid reg producer : Nat) : Bool

/-- Which of several offending operands a REG or LATCH trap reports: R166 gives no order. Log 12. -/
opaque freeOffender (cycle core slot tid : Nat) : Nat

/-- Whether a translation that a TLB holds is used when a new walk would give another result: R326 lets it be kept, and
nothing bars its loss. Log 13. -/
opaque freeTlb (cycle core page : Nat) : Bool

/-- Which of the sixteen entries of a 64 KiB page translates, when they differ (R311). Log 14. -/
opaque freeCont (isle page : Nat) : Nat

/-- Whether the time of a write at a line that R319 has just raised to the floor is formed from that floor, as R318 words it, or is the
writer's own pts, as R394 has it: cycle, line. Log 107. -/
opaque freeRaised (cycle line : Nat) : Bool

/-- The two hash bits of a line in a filter (R313). Log 15. -/
opaque hashBits (line : Nat) : Nat × Nat

/-- Which line of a full L1 set makes room for another (R155, R271): an index into the lines that may go. Log 16. -/
opaque freeVictim (cycle cluster line : Nat) : Nat

/-- The set of a line in its L2 bank, 0 to 63 (R308 gives no index function), and which line of a full set makes room.
Log 16. -/
opaque l2Set (line : Nat) : Nat
/-- As `freeVictim`, for the L2. -/
opaque freeL2Victim (cycle line : Nat) : Nat

/-- What R409 calls 'by capability' in the header of a capability, before the bounds of R409 and R410 are applied: the lengths of
its basic and expert blocks, its version, and the gap before the next header. Log 17. -/
opaque capShape (id : Nat) : Nat × Nat × Nat × Nat

/-- What a status word of a capability's basic block reads as (R410: port status, current power, stack status, refresh and
scrub counts): isle, capability, word, cycle. Log 94. -/
opaque freeCap (isle id word cycle : Nat) : DWord

/-- What a word above HBM reads as where the spec names no register: physical address, cycle. Log 10. -/
opaque freeDevice (pa cycle : Nat) : DWord

/-- The register that a word of the package firmware window is (R405 gives no offsets), as (kind, index). Log 20. -/
opaque firmwareMap (off : Nat) : Nat × Nat

/-- The two signatures of an attestation report, eight bytes at a time, over all that it holds (R413). The fused device secret is the
package's own. Log 19. -/
opaque signature (isle : Nat) (nonce : BitVec 256) (measures : List (BitVec 384)) (secCount k : Nat) : DWord

/-- What a beacon lane reads from the registers of R246 that belong to a crew or a thread: it is in neither. Log 24. -/
opaque freeLaneCtl (number : Nat) : DWord

/-- Which two partial results an aggregation tree combines next (R422: the order is not fixed). Log 27. -/
opaque freeTree (group gen step : Nat) : Nat × Nat

/-- The digest and the two signature checks of R412 (FIPS 180-4, RFC 8032, FIPS 204), over bytes. Log 28. -/
opaque sha384 (data : List Byte) : BitVec 384
/-- As `sha384`: Ed25519 over a key, a signature and a message. -/
opaque ed25519 (key sig msg : List Byte) : Bool
/-- As `sha384`: ML-DSA-65 with an empty context string. -/
opaque mlDsa65 (key sig msg : List Byte) : Bool

/-- The failure code in the boot status word for the check of R412 that a slot failed (its place in the list). Log 28. -/
opaque bootCode (check : Nat) : Nat

/-- The 32-bit check word that an engine keeps of a spill-ring slot (R290 gives no function of its contents). Log 26. -/
opaque slotCheck (contents : Nat) : Word

/-- What the approximated functions deliver, before the bound of R136 is applied; a function of the input bits alone
(R135). Log 7. -/
opaque freeRcp (x : Word) : Word
/-- As `freeRcp`, for frsq. -/
opaque freeRsq (x : Word) : Word
/-- As `freeRcp`, for fexp2. -/
opaque freeExp2 (x : Word) : Word
/-- As `freeRcp`, for flog2. -/
opaque freeLog2 (x : Word) : Word
/-- As `freeRcp`, for fsin. -/
opaque freeSin (x : Word) : Word
/-- As `freeRcp`, for fcos. -/
opaque freeCos (x : Word) : Word

end Sys2Proof.Config
end

