-- ==== Sys2Proof/Machine/Bits.lean ====
section
/-! DEFINITION. Bit fields, sign extension and small list helpers used by the meanings (R9). -/

namespace Sys2Proof.Machine

/-- Bits [hi:lo] of a number (R9). -/
def bits (x hi lo : Nat) : Nat := (x >>> lo) % 2 ^ (hi + 1 - lo)

/-- Bit `i` of a number. -/
def bit (x i : Nat) : Bool := Nat.testBit x i

/-- 1 for true, 0 for false. -/
def b2n (b : Bool) : Nat := if b then 1 else 0

/-- 1 or 0 as a register value. -/
def b2w (b : Bool) : Word := if b then 1#32 else 0#32

/-- The value of an `n`-bit two's-complement pattern. -/
def signed (n x : Nat) : Int := if x % 2 ^ n < 2 ^ (n - 1) then ((x % 2 ^ n : Nat) : Int) else ((x % 2 ^ n : Nat) : Int) - (2 ^ n : Nat)

/-- The low `n` bits of an integer, as a number (R9: truncation where it is written). -/
def wrap (n : Nat) (x : Int) : Nat := (x % (2 ^ n : Nat)).toNat

/-- The low 32 bits of an integer. -/
def wordOfInt (x : Int) : Word := BitVec.ofNat 32 (wrap 32 x)

/-- An integer held within two bounds. -/
def clampInt (x lo hi : Int) : Int := if x < lo then lo else if hi < x then hi else x

/-- `x` with the `n` bits from `lo` up replaced by those of `v`. -/
def putBits (x lo n v : Nat) : Nat := x - (bits x (lo + n - 1) lo) * 2 ^ lo + (v % 2 ^ n) * 2 ^ lo

/-- `x` with bit `i` set to `b`. -/
def putBit (x i : Nat) (b : Bool) : Nat := putBits x i 1 (b2n b)

/-- The even register's 32 bits of a 64-bit value (R6). -/
def lo32 (x : DWord) : Word := BitVec.extractLsb' 0 32 x

/-- The odd register's 32 bits of a 64-bit value (R6). -/
def hi32 (x : DWord) : Word := BitVec.extractLsb' 32 32 x

/-- The 64-bit value of a pair (R6). -/
def pair64 (hi lo : Word) : DWord := hi ++ lo

/-- Upward division. -/
def ceilDiv (a b : Nat) : Nat := (a + b - 1) / b

/-- `a` rounded up to a multiple of `b`. -/
def alignUp (a b : Nat) : Nat := ceilDiv a b * b

/-- The list with element `i` replaced. -/
def setAt {α : Type} : List α → Nat → α → List α
  | [], _, _ => []
  | _ :: l, 0, a => a :: l
  | b :: l, n + 1, a => b :: setAt l n a

/-- The members of a 32-bit mask, ascending. -/
def maskMembers (m : Nat) : List Nat := (List.range 32).filter (fun i => bit m i)

/-- Whether two byte ranges share a byte. -/
def overlap (a n b m : Nat) : Bool := decide (a < b + m) && decide (b < a + n)

/-- The 128-byte line number of a physical address. -/
def lineOf (pa : Nat) : Nat := pa / 128

/-- Whether a timestamp is before another, modulo 2^24 (R316). -/
def Time.before (a b : Time) : Bool :=
  let d := (b - a).toNat
  decide (1 ≤ d) && decide (d ≤ 2 ^ 23 - 1)

/-- At or before (R316). -/
def Time.le (a b : Time) : Bool := Time.before a b || decide (a = b)

/-- The later of two timestamps: the first unless it is before the second (R316). -/
def Time.max (a b : Time) : Time := if Time.before a b then b else a

/-- The first element that satisfies `p`, with the list order kept. -/
def findFirst {α : Type} (p : α → Bool) (l : List α) : Option α := l.find? p

end Sys2Proof.Machine
end

