-- ==== Sys2Proof/Machine/Maps.lean ====
section
/-! DEFINITION. Sparse tables and byte memories. A table is a list of key and value pairs with strictly rising keys.
A memory lists bytes by address in one canonical form: addresses strictly rising, and no entry equal to what an
unlisted address reads as (0, log 1). Byte order is decided here once (R4). -/

namespace Sys2Proof.Machine

/-- A sparse table by key. -/
abbrev FMap (α : Type) := List (Nat × α)

/-- The entry of key `k`, if there is one. -/
def FMap.find {α : Type} : FMap α → Nat → Option α
  | [], _ => none
  | (j, a) :: m, k => if j = k then some a else FMap.find m k

/-- The entry of key `k`, or `d` where none is listed. -/
def FMap.get {α : Type} (d : α) (m : FMap α) (k : Nat) : α :=
  match m.find k with
  | some a => a
  | none => d

/-- Key `k` now holds `a`. -/
def FMap.put {α : Type} : FMap α → Nat → α → FMap α
  | [], k, a => [(k, a)]
  | (j, b) :: m, k, a =>
    if k < j then (k, a) :: (j, b) :: m
    else if j = k then (k, a) :: m
    else (j, b) :: FMap.put m k a

/-- Key `k` is listed no more. -/
def FMap.del {α : Type} : FMap α → Nat → FMap α
  | [], _ => []
  | (j, b) :: m, k => if j = k then FMap.del m k else (j, b) :: FMap.del m k

/-- Each entry is replaced by `f` of its key and value. -/
def FMap.mapVal {α : Type} (f : Nat → α → α) : FMap α → FMap α
  | [] => []
  | (j, b) :: m => (j, f j b) :: FMap.mapVal f m

/-- The entries whose key and value satisfy `p`. -/
def FMap.keepAt {α : Type} (p : Nat → α → Bool) : FMap α → FMap α
  | [] => []
  | (j, b) :: m => if p j b then (j, b) :: FMap.keepAt p m else (FMap.keepAt p m).del j

/-- The entries whose value satisfies `p`. -/
def FMap.keep {α : Type} (p : α → Bool) (m : FMap α) : FMap α := m.keepAt (fun _ => p)

/-- Key `k` holds `f` of what it held; a key that is not listed stays so. -/
def FMap.modify {α : Type} (m : FMap α) (k : Nat) (f : α → α) : FMap α :=
  match m.find k with
  | some a => m.put k (f a)
  | none => m

/-- `put` in canonical form: an entry equal to the default is not listed. -/
def FMap.set {α : Type} [DecidableEq α] (d : α) (m : FMap α) (k : Nat) (a : α) : FMap α :=
  if a = d then m.del k else m.put k a

/-- The keys rise strictly. -/
def FMap.sorted {α : Type} : FMap α → Bool
  | [] => true
  | [_] => true
  | (j, _) :: (k, b) :: m => decide (j < k) && FMap.sorted ((k, b) :: m)

/-- The keys of a table. -/
def FMap.keys {α : Type} (m : FMap α) : List Nat := m.map Prod.fst

/-- A byte memory. -/
abbrev Memory := List Host.Cell

/-- What an address that no entry lists reads as: 0 (R270, R408; for HBM log 1). -/
def Memory.blank : Byte := 0#8

/-- One byte read. -/
def Memory.read (m : Memory) (a : Nat) : Byte := FMap.get Memory.blank m a

/-- One byte written; the canonical form is kept. -/
def Memory.write (m : Memory) (a : Nat) (b : Byte) : Memory := FMap.set Memory.blank m a b

/-- The canonical form: addresses strictly rising and no blank byte listed. -/
def Memory.wf (m : Memory) : Bool := FMap.sorted m && m.all (fun c => c.2 != Memory.blank)

/-- `n` bytes from `a` up. -/
def Memory.readBytes (m : Memory) (a : Nat) : Nat → List Byte
  | 0 => []
  | n + 1 => m.read a :: m.readBytes (a + 1) n

/-- The bytes written from `a` up. -/
def Memory.writeBytes (m : Memory) (a : Nat) : List Byte → Memory
  | [] => m
  | b :: bs => (m.write a b).writeBytes (a + 1) bs

/-- The number whose little-endian bytes are given (R4). -/
def leNat : List Byte → Nat
  | [] => 0
  | b :: bs => b.toNat + 256 * leNat bs

/-- The `n` little-endian bytes of a number (R4). -/
def leBytes : Nat → Nat → List Byte
  | 0, _ => []
  | n + 1, x => BitVec.ofNat 8 x :: leBytes n (x / 256)

/-- `n` bytes read as a number (R4). -/
def Memory.readNat (m : Memory) (a n : Nat) : Nat := leNat (m.readBytes a n)

/-- A number written as `n` bytes (R4). -/
def Memory.writeNat (m : Memory) (a n x : Nat) : Memory := m.writeBytes a (leBytes n x)

/-- A sorted list of keys without repeats, used as a set. -/
def insertKey (k : Nat) : List Nat → List Nat
  | [] => [k]
  | j :: l => if k < j then k :: j :: l else if j = k then j :: l else j :: insertKey k l

/-- The set without `k`. -/
def eraseKey (k : Nat) (l : List Nat) : List Nat := l.filter (fun j => j != k)

/-- The element that no other beats: `beats a b` tells that `a` goes first; the first of equals. -/
def bestOf {α : Type} (beats : α → α → Bool) : List α → Option α
  | [] => none
  | a :: l =>
    match bestOf beats l with
    | none => some a
    | some b => if beats b a then some b else some a

end Sys2Proof.Machine
end

