-- ==== Sys2Proof/Syntax.lean ====
section
/-! DEFINITION. The instructions, hints and steps of the N4: one constructor per row of the opcode table.
A row with an encoding carries its fields (R38); a row without one carries the names of the objects it acts on
(95_what_each_step_holds.md). -/

namespace Sys2Proof

/-- The scalar formats of R63, in the order of their codes. -/
inductive Fmt where
  | f32 | f16 | bf16 | e4m3 | e5m2 | int8 | uint8 | int32 | uint32 | int64 | uint64
deriving DecidableEq, Repr

/-- Sizes of ld (R152), in the order of their codes. -/
inductive LdSize where
  | b | bs | h | hs | w | d | q
deriving DecidableEq, Repr

/-- Sizes of st (R153). -/
inductive StSize where
  | b | h | w | d | q
deriving DecidableEq, Repr

/-- Sizes of ldx and stx (R156). -/
inductive XSize where
  | w | d
deriving DecidableEq, Repr

/-- Rounding modes of the mod hint (R52). -/
inductive Round where
  | rne | rz | ru | rd | rna
deriving DecidableEq, Repr

/-- Ordering of an atomic (R344). -/
inductive AtomOrd where
  | rlx | acq | rel | ar
deriving DecidableEq, Repr

/-- Ordering of a fence (R345). -/
inductive FenceOrd where
  | acq | rel | ar | sc
deriving DecidableEq, Repr

/-- Modes of shfl (R211). -/
inductive ShflMode where
  | idx | up | down | xor
deriving DecidableEq, Repr

/-- Modes of vote (R212). -/
inductive VoteMode where
  | all | any | ballot
deriving DecidableEq, Repr

/-- Combinations of scan and red (R213). -/
inductive RedOp where
  | addS | addU | addF | minS | minU | minF | maxS | maxU | maxF | and | or
deriving DecidableEq, Repr

/-- Who issued an operation: a thread, by core, crew slot and tid, or the beacon lane of a core. -/
inductive IssuerId where
  | thread (core slot tid : Nat)
  | lane (core : Nat)
deriving DecidableEq, Repr

/-- A byte on its way with the mark of poison (R324, R424). -/
structure PByte where
  val : Byte
  bad : Bool
deriving DecidableEq, Repr

/-- What a Fengor request asks of its target (R421). -/
inductive FabVerb where
  /-- write data at raddr, then add 1 to the counter rcnt when it is not 0 -/
  | put (data : List PByte) (rcnt : Nat)
  | get (len : Nat)
  | atom (sub : Nat) (wide : Bool) (op1 op2 : DWord)
deriving DecidableEq, Repr

/-- A request that reaches a fabric engine of this package (R421): one of the package's own operations that targets
the package (the member's place in the group for a multicast, else 0), or one from outside. -/
inductive FabRequest where
  | own (op member : Nat)
  | outside (isle : Nat) (raddr : Nat) (verb : FabVerb)
deriving DecidableEq, Repr

/-- What the targets outside the package answer to one of its operations (R421): a fabric outcome code (0 for
success), the bytes that a get or an atom returns, and how many members of a multicast accepted and refused. -/
structure FabReply where
  outcome : Nat
  data : List Byte
  accepted : Nat
  refused : Nat
deriving DecidableEq, Repr

/-- A contribution that reaches the aggregation point (R422); one from outside brings the list of the group in its member's table,
as (package, isle) (R417). -/
inductive Contribution where
  | own (op : Nat)
  | outside (group member : Nat) (members : List (Nat × Nat)) (gen : Word) (sub len limit : Nat) (data : List PByte)
deriving DecidableEq, Repr

/-- What an RDMA peer does to memory (R415). -/
inductive PeerVerb where
  | send (data : List Byte)
  | write (data : List Byte)
  | read (len : Nat)
  | cmpSwap (cmp new : DWord)
  | fetchAdd (v : DWord)
deriving DecidableEq, Repr

/-- An access of an RDMA peer through a queue pair (R415; number 1024 × port + its place there): the region that it names by its key, and the virtual address; for a
SEND those of the receive buffer that it meets (log 94). -/
structure PeerAccess where
  qp : Nat
  key : Nat
  va : Nat
  verb : PeerVerb
deriving DecidableEq, Repr

/-- A DMA access of an NVMe drive at a storage port (R416): some bytes to write, or none for a read. -/
structure DmaAccess where
  port : Nat
  pa : Nat
  len : Nat
  data : Option (List Byte)
deriving DecidableEq, Repr

/-- A completion entry of a drive's command (R416): the cores that its interrupt goes to, and the data writes of the command. -/
structure NvmeEntry where
  cores : List Nat
  writes : List DmaAccess
deriving DecidableEq, Repr

/-- Where a soft error occurs (R270, R324, R407). -/
inductive EccSite where
  | hbm (pa : Nat)
  | scratch (cluster off : Nat)
  | accum (core off : Nat)
  | l1 (cluster line granule : Nat)
  | shared
deriving DecidableEq, Repr

/-- The instructions, hints and steps of the opcode table. -/
inductive Instr where
  /-- ADD (R118): 32-bit add modulo 2^32. -/
  | add (nw : Bool) (d a b : Opnd)
  /-- SUB (R118): 32-bit subtract modulo 2^32. -/
  | sub (nw : Bool) (d a b : Opnd)
  /-- ADD64 (R118): 64-bit add of pairs modulo 2^64. -/
  | add64 (nw : Bool) (d a b : Opnd)
  /-- SUB64 (R118): 64-bit subtract of pairs modulo 2^64. -/
  | sub64 (nw : Bool) (d a b : Opnd)
  /-- MUL (R118): Low 32 bits of the product. -/
  | mul (nw : Bool) (d a b : Opnd)
  /-- MULHI_S (R118): High 32 bits of the signed product. -/
  | mulhiS (nw : Bool) (d a b : Opnd)
  /-- MULHI_U (R118): High 32 bits of the unsigned product. -/
  | mulhiU (nw : Bool) (d a b : Opnd)
  /-- MAD (R118): 32-bit multiply-add into d. -/
  | mad (nw : Bool) (d a b : Opnd)
  /-- MAD64 (R118): Unsigned 32x32 product added to a 64-bit pair. -/
  | mad64 (nw : Bool) (d a b : Opnd)
  /-- DIVU (R119): Unsigned divide with defined zero-divisor result. -/
  | divu (nw : Bool) (d a b : Opnd)
  /-- DIVS (R119): Signed divide truncating toward zero. -/
  | divs (nw : Bool) (d a b : Opnd)
  /-- REMU (R119): Unsigned remainder. -/
  | remu (nw : Bool) (d a b : Opnd)
  /-- REMS (R119): Signed remainder with the dividend's sign. -/
  | rems (nw : Bool) (d a b : Opnd)
  /-- SHL (R120): 32-bit shift left by the whole amount. -/
  | shl (nw : Bool) (d a b : Opnd)
  /-- SHR (R120): 32-bit logical shift right. -/
  | shr (nw : Bool) (d a b : Opnd)
  /-- SRA (R120): 32-bit arithmetic shift right. -/
  | sra (nw : Bool) (d a b : Opnd)
  /-- ROTL (R120): 32-bit rotate left. -/
  | rotl (nw : Bool) (d a b : Opnd)
  /-- SHL64 (R120): 64-bit shift left. -/
  | shl64 (nw : Bool) (d a b : Opnd)
  /-- SHR64 (R120): 64-bit logical shift right. -/
  | shr64 (nw : Bool) (d a b : Opnd)
  /-- SRA64 (R120): 64-bit arithmetic shift right. -/
  | sra64 (nw : Bool) (d a b : Opnd)
  /-- AND (R121): Bitwise AND. -/
  | and (nw : Bool) (d a b : Opnd)
  /-- OR (R121): Bitwise OR. -/
  | or (nw : Bool) (d a b : Opnd)
  /-- XOR (R121): Bitwise XOR. -/
  | xor (nw : Bool) (d a b : Opnd)
  /-- ANDN (R121): a AND NOT b. -/
  | andn (nw : Bool) (d a b : Opnd)
  /-- ORN (R121): a OR NOT b. -/
  | orn (nw : Bool) (d a b : Opnd)
  /-- MIN_S (R122): Signed minimum. -/
  | minS (nw : Bool) (d a b : Opnd)
  /-- MIN_U (R122): Unsigned minimum. -/
  | minU (nw : Bool) (d a b : Opnd)
  /-- MAX_S (R122): Signed maximum. -/
  | maxS (nw : Bool) (d a b : Opnd)
  /-- MAX_U (R122): Unsigned maximum. -/
  | maxU (nw : Bool) (d a b : Opnd)
  /-- ABS (R123): Absolute value, wrapping. -/
  | abs (nw : Bool) (d a : Opnd)
  /-- CLZ (R123): Count leading zeros. -/
  | clz (nw : Bool) (d a : Opnd)
  /-- CTZ (R123): Count trailing zeros. -/
  | ctz (nw : Bool) (d a : Opnd)
  /-- POPC (R123): Population count. -/
  | popc (nw : Bool) (d a : Opnd)
  /-- BREV (R123): Bit reverse. -/
  | brev (nw : Bool) (d a : Opnd)
  /-- BFX (R124): Bit-field extract under a field word. -/
  | bfx (nw : Bool) (d a b : Opnd)
  /-- BFI (R124): Bit-field insert into d. -/
  | bfi (nw : Bool) (d a b : Opnd)
  /-- BMIX (R125): Byte mix of a and b under a selector in d. -/
  | bmix (nw : Bool) (d a b : Opnd)
  /-- SEL (R126): Select a or b by d being non-zero. -/
  | sel (nw : Bool) (d a b : Opnd)
  /-- CMP_EQ_S (R127): Signed equality compare. -/
  | cmpEqS (nw : Bool) (d a b : Opnd)
  /-- CMP_NE_S (R127): Signed inequality compare. -/
  | cmpNeS (nw : Bool) (d a b : Opnd)
  /-- CMP_LT_S (R127): Signed less-than compare. -/
  | cmpLtS (nw : Bool) (d a b : Opnd)
  /-- CMP_LE_S (R127): Signed less-or-equal compare. -/
  | cmpLeS (nw : Bool) (d a b : Opnd)
  /-- CMP_GT_S (R127): Signed greater-than compare. -/
  | cmpGtS (nw : Bool) (d a b : Opnd)
  /-- CMP_GE_S (R127): Signed greater-or-equal compare. -/
  | cmpGeS (nw : Bool) (d a b : Opnd)
  /-- CMP_EQ_U (R127): Unsigned equality compare. -/
  | cmpEqU (nw : Bool) (d a b : Opnd)
  /-- CMP_NE_U (R127): Unsigned inequality compare. -/
  | cmpNeU (nw : Bool) (d a b : Opnd)
  /-- CMP_LT_U (R127): Unsigned less-than compare. -/
  | cmpLtU (nw : Bool) (d a b : Opnd)
  /-- CMP_LE_U (R127): Unsigned less-or-equal compare. -/
  | cmpLeU (nw : Bool) (d a b : Opnd)
  /-- CMP_GT_U (R127): Unsigned greater-than compare. -/
  | cmpGtU (nw : Bool) (d a b : Opnd)
  /-- CMP_GE_U (R127): Unsigned greater-or-equal compare. -/
  | cmpGeU (nw : Bool) (d a b : Opnd)
  /-- FADD (R131): FP32 add rounded once. -/
  | fadd (nw : Bool) (d a b : Opnd)
  /-- FSUB (R131): FP32 subtract rounded once. -/
  | fsub (nw : Bool) (d a b : Opnd)
  /-- FMUL (R131): FP32 multiply rounded once. -/
  | fmul (nw : Bool) (d a b : Opnd)
  /-- FFMA (R131): FP32 fused multiply-add into d. -/
  | ffma (nw : Bool) (d a b : Opnd)
  /-- FMIN (R132): FP32 minimum with NaN rules. -/
  | fmin (nw : Bool) (d a b : Opnd)
  /-- FMAX (R132): FP32 maximum with NaN rules. -/
  | fmax (nw : Bool) (d a b : Opnd)
  /-- FNEG (R133): Flip the sign bit. -/
  | fneg (nw : Bool) (d a : Opnd)
  /-- FCLASS (R133): Classify an FP32 value into a one-hot mask. -/
  | fclass (nw : Bool) (d a : Opnd)
  /-- FCMP_EQ (R134): Float equality compare. -/
  | fcmpEq (nw : Bool) (d a b : Opnd)
  /-- FCMP_NE (R134): Float inequality compare. -/
  | fcmpNe (nw : Bool) (d a b : Opnd)
  /-- FCMP_LT (R134): Float less-than compare. -/
  | fcmpLt (nw : Bool) (d a b : Opnd)
  /-- FCMP_LE (R134): Float less-or-equal compare. -/
  | fcmpLe (nw : Bool) (d a b : Opnd)
  /-- FCMP_UNORD (R134): Unordered compare. -/
  | fcmpUnord (nw : Bool) (d a b : Opnd)
  /-- FRCP (R136): Approximate reciprocal. -/
  | frcp (nw : Bool) (d a : Opnd)
  /-- FRSQ (R136): Approximate reciprocal square root. -/
  | frsq (nw : Bool) (d a : Opnd)
  /-- FSQRT (R136): Correctly rounded square root. -/
  | fsqrt (nw : Bool) (d a : Opnd)
  /-- FEXP2 (R136): Approximate 2^x. -/
  | fexp2 (nw : Bool) (d a : Opnd)
  /-- FLOG2 (R136): Approximate log2. -/
  | flog2 (nw : Bool) (d a : Opnd)
  /-- FSIN (R136): Approximate sine. -/
  | fsin (nw : Bool) (d a : Opnd)
  /-- FCOS (R136): Approximate cosine. -/
  | fcos (nw : Bool) (d a : Opnd)
  /-- FINT_FLOOR (R137): Round to integer toward minus infinity. -/
  | fintFloor (nw : Bool) (d a : Opnd)
  /-- FINT_CEIL (R137): Round to integer toward plus infinity. -/
  | fintCeil (nw : Bool) (d a : Opnd)
  /-- FINT_TRUNC (R137): Round to integer toward zero. -/
  | fintTrunc (nw : Bool) (d a : Opnd)
  /-- FINT_ROUND (R137): Round to nearest integer, ties to even. -/
  | fintRound (nw : Bool) (d a : Opnd)
  /-- PADD_BF (R138): Packed BF16 add. -/
  | paddBf (nw : Bool) (d a b : Opnd)
  /-- PMUL_BF (R138): Packed BF16 multiply. -/
  | pmulBf (nw : Bool) (d a b : Opnd)
  /-- PFMA_BF (R138): Packed BF16 fused multiply-add. -/
  | pfmaBf (nw : Bool) (d a b : Opnd)
  /-- PADD_H (R138): Packed FP16 add. -/
  | paddH (nw : Bool) (d a b : Opnd)
  /-- PMUL_H (R138): Packed FP16 multiply. -/
  | pmulH (nw : Bool) (d a b : Opnd)
  /-- PFMA_H (R138): Packed FP16 fused multiply-add. -/
  | pfmaH (nw : Bool) (d a b : Opnd)
  /-- DP4 (R139): Four INT8 products added to an INT32 accumulator. -/
  | dp4 (nw : Bool) (d a b : Opnd)
  /-- F8DOT4_E4 (R140): Four E4M3 products added to FP32. -/
  | f8dot4E4 (nw : Bool) (d a b : Opnd)
  /-- F8DOT4_E5 (R140): Four E5M2 products added to FP32. -/
  | f8dot4E5 (nw : Bool) (d a b : Opnd)
  /-- QPACK (R141): Encode FP32 as a four-bit block-scaled code. -/
  | qpack (nw : Bool) (d a b : Opnd)
  /-- QUNPACK (R141): Decode a four-bit code to FP32. -/
  | qunpack (nw : Bool) (d a b : Opnd)
  /-- CVT (R111): Convert between the scalar formats. -/
  | cvt (nw : Bool) (t f : Fmt) (d a : Opnd)
  /-- MOVI (R128): Move an immediate into d. -/
  | movi (nw : Bool) (d : Opnd) (imm : BitVec 10)
  /-- ADDI (R128): Add immediate. -/
  | addi (nw : Bool) (d a : Opnd) (imm : BitVec 10)
  /-- MULI (R128): Multiply by immediate. -/
  | muli (nw : Bool) (d a : Opnd) (imm : BitVec 10)
  /-- ANDI (R128): AND with zero-extended immediate. -/
  | andi (nw : Bool) (d a : Opnd) (imm : BitVec 10)
  /-- ORI (R128): OR with zero-extended immediate. -/
  | ori (nw : Bool) (d a : Opnd) (imm : BitVec 10)
  /-- XORI (R128): XOR with zero-extended immediate. -/
  | xori (nw : Bool) (d a : Opnd) (imm : BitVec 10)
  /-- SHLI (R128): Shift left by immediate. -/
  | shli (nw : Bool) (d a : Opnd) (amt : BitVec 5)
  /-- SHRI (R128): Logical shift right by immediate. -/
  | shri (nw : Bool) (d a : Opnd) (amt : BitVec 5)
  /-- SRAI (R128): Arithmetic shift right by immediate. -/
  | srai (nw : Bool) (d a : Opnd) (amt : BitVec 5)
  /-- CMPEQI (R128): Compare equal with immediate. -/
  | cmpeqi (nw : Bool) (d a : Opnd) (imm : BitVec 10)
  /-- CMPNEI (R128): Compare not-equal with immediate. -/
  | cmpnei (nw : Bool) (d a : Opnd) (imm : BitVec 10)
  /-- CMPLTI (R128): Signed less-than with immediate. -/
  | cmplti (nw : Bool) (d a : Opnd) (imm : BitVec 10)
  /-- CMPLTUI (R128): Unsigned less-than with immediate. -/
  | cmpltui (nw : Bool) (d a : Opnd) (imm : BitVec 10)
  /-- CMPGEI (R128): Signed greater-or-equal with immediate. -/
  | cmpgei (nw : Bool) (d a : Opnd) (imm : BitVec 10)
  /-- CMPGEUI (R128): Unsigned greater-or-equal with immediate. -/
  | cmpgeui (nw : Bool) (d a : Opnd) (imm : BitVec 10)
  /-- LD (R152): Load from a segment space after the checks of R149. -/
  | ld (seg : BitVec 3) (flag : BitVec 4) (d a : Opnd) (size : LdSize)
  /-- ST (R153): Store to a segment space. -/
  | st (seg : BitVec 3) (flag : BitVec 4) (d a : Opnd) (size : StSize)
  /-- LDX (R156): Load and set a line reservation. -/
  | ldx (seg : BitVec 3) (flag : BitVec 4) (d a : Opnd) (size : XSize)
  /-- STX (R156): Conditional store on the reservation, writing a status. -/
  | stx (seg : BitVec 3) (flag : BitVec 4) (d a : Opnd) (size : XSize)
  /-- PF (R157): Prefetch a line toward the L1. -/
  | pf (seg : BitVec 3) (a : Opnd)
  /-- LEA (R158): Write the formed address to a pair. -/
  | lea (seg : BitVec 3) (d a : Opnd)
  /-- SEGQ (R159): Read one word of a segment register. -/
  | segq (seg : BitVec 3) (d : Opnd) (w : BitVec 2)
  /-- SEGLD (R160): Write a segment register from a quad. -/
  | segld (seg : BitVec 3) (d : Opnd)
  /-- BR (R143): Unconditional relative branch. -/
  | br (off : BitVec 25)
  /-- BZ (R143): Branch if a is zero. -/
  | bz (a : Opnd) (off : BitVec 18)
  /-- BNZ (R143): Branch if a is non-zero. -/
  | bnz (a : Opnd) (off : BitVec 18)
  /-- JMP (R143): Jump to the word index in a. -/
  | jmp (a : Opnd)
  /-- CALL (R144): Push the return index and branch relative. -/
  | call (off : BitVec 25)
  /-- CALLR (R144): Push the return index and jump to a. -/
  | callr (a : Opnd)
  /-- BRK (R147): Raise a BRK trap with a break code. -/
  | brk (code : BitVec 18)
  /-- MCALL (R59): Run a control-store microprogram with two parameters. -/
  | mcall (p0 p1 : Opnd) (entry : BitVec 7)
  /-- MMA (R223): Sign a matrix multiply-accumulate round on a convergence register. -/
  | mma (flag : BitVec 4) (p : Opnd) (cv : BitVec 4)
  /-- MMZ (R230): Enter a tile-zeroing operation into the matrix queue. -/
  | mmz (flag : BitVec 4) (p : Opnd)
  /-- ACCLD (R231): Enter a 512-byte global-to-accumulator copy. -/
  | accld (flag : BitVec 4) (p q : Opnd)
  /-- ACCST (R231): Enter a 512-byte accumulator-to-global copy. -/
  | accst (flag : BitVec 4) (p q : Opnd)
  /-- THDL (R220): Load a tile handle descriptor. -/
  | thdl (p : Opnd) (h : BitVec 5)
  /-- THFREE (R220): Empty a tile handle. -/
  | thfree (h : BitVec 5)
  /-- WAITF (R188): Hold the thread until named flags are idle. -/
  | waitf (mask : BitVec 12)
  /-- PST_W_GROUP (R275): Push store of a word to a scope-group entry. -/
  | pstWGroup (flag : BitVec 4) (p q : Opnd) (k : BitVec 5)
  /-- PST_D_GROUP (R275): Push store of a pair to a scope-group entry. -/
  | pstDGroup (flag : BitVec 4) (p q : Opnd) (k : BitVec 5)
  /-- PST_Q_GROUP (R275): Push store of a quad to a scope-group entry. -/
  | pstQGroup (flag : BitVec 4) (p q : Opnd) (k : BitVec 5)
  /-- PPUSH_GROUP (R275): Push a line without writing to a scope-group entry. -/
  | ppushGroup (flag : BitVec 4) (q : Opnd) (k : BitVec 5)
  /-- PST_W_CORE (R275): Push store of a word to the core named in a register. -/
  | pstWCore (flag : BitVec 4) (p q : Opnd) (k : BitVec 5)
  /-- PST_D_CORE (R275): Push store of a pair to a named core. -/
  | pstDCore (flag : BitVec 4) (p q : Opnd) (k : BitVec 5)
  /-- PST_Q_CORE (R275): Push store of a quad to a named core. -/
  | pstQCore (flag : BitVec 4) (p q : Opnd) (k : BitVec 5)
  /-- PPUSH_CORE (R275): Push a line without writing to a named core. -/
  | ppushCore (flag : BitVec 4) (q : Opnd) (k : BitVec 5)
  /-- TCOPY (R295): Check and accept an asynchronous strided copy. -/
  | tcopy (flag : BitVec 4) (p q : Opnd)
  /-- TSEAL (R302): Seal the thread's unsealed copies into a numbered batch. -/
  | tseal (p : Opnd)
  /-- TWAIT (R302): Park until the numbered batches complete. -/
  | twait (p : Opnd)
  /-- CWAIT (R300): Acquire-read a counter and park until it reaches a target. -/
  | cwait (p q : Opnd) (k : BitVec 5)
  /-- PERMIT_ARM (R286): Arm a landing-buffer permit. -/
  | permitArm (p : Opnd) (k : BitVec 5)
  /-- PERMIT_DROP (R286): Disarm a permit. -/
  | permitDrop (k : BitVec 5)
  /-- FAB_PUT (R421): Fengor remote write. -/
  | fabPut (flag : BitVec 4) (p q : Opnd)
  /-- FAB_GET (R421): Fengor remote read. -/
  | fabGet (flag : BitVec 4) (p q : Opnd)
  /-- FAB_ATOM (R421): Fengor remote atomic. -/
  | fabAtom (flag : BitVec 4) (p q : Opnd)
  /-- FAB_RED (R422): Contribute to a group reduction. -/
  | fabRed (flag : BitVec 4) (p q : Opnd)
  /-- FAB_MCAST (R421): Put to every member of a fabric group. -/
  | fabMcast (flag : BitVec 4) (p q : Opnd)
  /-- LD_ACQ (R343): Load with acquire ordering at a scope. -/
  | ldAcq (flag : BitVec 4) (p : Opnd) (dbl : Bool) (pair k : BitVec 5)
  /-- ST_REL (R343): Store with release ordering at a scope. -/
  | stRel (flag : BitVec 4) (p : Opnd) (dbl : Bool) (pair k : BitVec 5)
  /-- ATOM_ADD (R344): Atomic add at the home bank. -/
  | atomAdd (flag : BitVec 4) (p : Opnd) (ord : AtomOrd) (pair k : BitVec 5)
  /-- ATOM_SUB (R344): Atomic subtract. -/
  | atomSub (flag : BitVec 4) (p : Opnd) (ord : AtomOrd) (pair k : BitVec 5)
  /-- ATOM_MIN (R344): Atomic signed minimum. -/
  | atomMin (flag : BitVec 4) (p : Opnd) (ord : AtomOrd) (pair k : BitVec 5)
  /-- ATOM_MAX (R344): Atomic signed maximum. -/
  | atomMax (flag : BitVec 4) (p : Opnd) (ord : AtomOrd) (pair k : BitVec 5)
  /-- ATOM_AND (R344): Atomic AND. -/
  | atomAnd (flag : BitVec 4) (p : Opnd) (ord : AtomOrd) (pair k : BitVec 5)
  /-- ATOM_OR (R344): Atomic OR. -/
  | atomOr (flag : BitVec 4) (p : Opnd) (ord : AtomOrd) (pair k : BitVec 5)
  /-- ATOM_XOR (R344): Atomic XOR. -/
  | atomXor (flag : BitVec 4) (p : Opnd) (ord : AtomOrd) (pair k : BitVec 5)
  /-- ATOM_EXCH (R344): Atomic exchange. -/
  | atomExch (flag : BitVec 4) (p : Opnd) (ord : AtomOrd) (pair k : BitVec 5)
  /-- ATOM_CAS (R344): Atomic compare-and-swap. -/
  | atomCas (flag : BitVec 4) (p : Opnd) (ord : AtomOrd) (pair k : BitVec 5)
  /-- ATOM_FADD (R344): Atomic FP32 add. -/
  | atomFadd (flag : BitVec 4) (p : Opnd) (ord : AtomOrd) (pair k : BitVec 5)
  /-- ATOM_FMIN (R344): Atomic FP32 minimum. -/
  | atomFmin (flag : BitVec 4) (p : Opnd) (ord : AtomOrd) (pair k : BitVec 5)
  /-- ATOM_FMAX (R344): Atomic FP32 maximum. -/
  | atomFmax (flag : BitVec 4) (p : Opnd) (ord : AtomOrd) (pair k : BitVec 5)
  /-- ATOM_BFADD2 (R344): Atomic add of two BF16 halves. -/
  | atomBfadd2 (flag : BitVec 4) (p : Opnd) (ord : AtomOrd) (pair k : BitVec 5)
  /-- FENCE (R345): Order the thread's accesses at a scope. -/
  | fence (ord : FenceOrd) (k : BitVec 5)
  /-- SHFL (R211): Sign a shuffle round on a convergence register. -/
  | shfl (m : ShflMode) (p q : Opnd) (cv : BitVec 4)
  /-- VOTE (R212): Sign a vote round. -/
  | vote (m : VoteMode) (p q : Opnd) (cv : BitVec 4)
  /-- SCAN (R213): Sign an inclusive running round. -/
  | scan (m : RedOp) (p q : Opnd) (cv : BitVec 4)
  /-- RED (R213): Sign a reduction round. -/
  | red (m : RedOp) (p q : Opnd) (cv : BitVec 4)
  /-- FSPAWN (R361): Launch a task with a future cell and return its handle. -/
  | fspawn (flag : BitVec 4) (p q : Opnd)
  /-- FGET (R374): Take a future's value or park on it. -/
  | fget (p q : Opnd) (k : BitVec 5)
  /-- FPUT (R375): Fill a future cell with release and wake its waiters. -/
  | fput (flag : BitVec 4) (p q : Opnd) (k : BitVec 5)
  /-- FREF (R371): Add one reference to a future. -/
  | fref (flag : BitVec 4) (q : Opnd)
  /-- FDROP (R371): Drop one reference to a future. -/
  | fdrop (flag : BitVec 4) (q : Opnd)
  /-- FSTATE (R376): Read a future cell's state and count. -/
  | fstate (p q : Opnd)
  /-- TSPAWN (R361): Launch a task without a cell. -/
  | tspawn (flag : BitVec 4) (q : Opnd)
  /-- SYS (R253): Raise SYS, or enter M mode on the beacon lane. -/
  | sys (n : BitVec 9)
  /-- CTLR (R245): Read a control register. -/
  | ctlr (d : Opnd) (n : BitVec 9)
  /-- CTLW (R245): Write a control register without a row of its own. -/
  | ctlw (a : Opnd) (n : BitVec 9)
  /-- QPOP (R250): Move a batch of trap records into kernel memory. -/
  | qpop (d a : Opnd) (c : BitVec 8)
  /-- QRET (R252): End service of a trapped thread with an action. -/
  | qret (a : Opnd)
  /-- KGO (R251): Start a kernel crew over a record batch. -/
  | kgo (d a : Opnd)
  /-- MLOAD (R254): Load or unload a control-store microprogram. -/
  | mload (d a : Opnd)
  /-- IPI (R244): Send an interprocessor interrupt. -/
  | ipi (a : Opnd) (vec : BitVec 9)
  /-- PREEMPT (R256): Request or cancel a crew's pre-emption. -/
  | preempt (a : Opnd)
  /-- CSAVE (R258): Write a ready crew's image and free its resources. -/
  | csave (d a : Opnd)
  /-- CRESTORE (R259): Place a saved crew again. -/
  | crestore (d a : Opnd)
  /-- RACQ (R176): Request an extended resource grant. -/
  | racq (a : Opnd)
  /-- RREL (R178): Release part or all of the extended grant. -/
  | rrel (a : Opnd)
  /-- BAR_SET (R190): Arm or disarm a named barrier's count. -/
  | barSet (a : Opnd) (b : BitVec 7)
  /-- BAR_ARRIVE (R190): Arrive at a named barrier. -/
  | barArrive (b : BitVec 7)
  /-- BAR_WAIT (R190): Wait for the phase of the thread's arrival. -/
  | barWait (b : BitVec 7)
  /-- BAR_SYNC (R190): Arrive and wait at a named barrier. -/
  | barSync (b : BitVec 7)
  /-- RMSET (R200): Declare a rejoin member set and open a join. -/
  | rmset (d a : Opnd) (r : BitVec 3)
  /-- RJARRIVE (R201): Arrive at a join. -/
  | rjarrive (r : BitVec 3)
  /-- RJWAIT (R201): Arrive and park until the join closes. -/
  | rjwait (r : BitVec 3)
  /-- RJDROP (R201): Drop out of a join. -/
  | rjdrop (r : BitVec 3)
  /-- CVSET (R205): Declare a convergence register's member set. -/
  | cvset (d a : Opnd) (c : BitVec 4)
  /-- SCGSET (R333): Write a scope-group table entry. -/
  | scgset (a : Opnd) (n : BitVec 5)
  /-- TLBINV (R327): Start removing translations across the isle. -/
  | tlbinv (a : Opnd) (ext : BitVec 2)
  /-- ATP (R328): Translate an address by a walk without trapping. -/
  | atp (d a : Opnd)
  /-- TDECL (R366): Set the thread's declared ranges. -/
  | tdecl (a : Opnd)
  /-- RNEXT (R365): Claim the next chunk of the piece's range. -/
  | rnext (d : Opnd)
  /-- TMOVE (R385): Ask the domain to move a crew to another core. -/
  | tmove (d a : Opnd)
  /-- SCHED (R44): Scheduling hint: flag waits, hold, yield and distances. -/
  | sched (wait : BitVec 12) (hold yld : Bool) (d3 d2 d1 d0 : BitVec 3)
  /-- IMM (R51): Binding hint that widens an immediate or offset. -/
  | imm (payload : BitVec 26)
  /-- LIVE (R54): Hint marking live registers for pre-emption. -/
  | live (part : BitVec 2) (mask : BitVec 24)
  /-- LIVESCRATCH (R55): Hint naming a live scratchpad range. -/
  | livescratch (base len : BitVec 13)
  /-- MOD (R52): Binding hint for rounding, saturation, ftz and cache policy. -/
  | mod (round : Round) (sat ftz : Bool) (cache : BitVec 2)
  /-- FMT (R53): Binding hint supplying an mma format word. -/
  | fmt (payload : BitVec 26)
  /-- ILLEGAL_WORD (R69): A word that is not an instruction raises a precise ILLEGAL trap. -/
  | illegalWord (w : Word)
  /-- DEFERRED_MACHINE_TRAP (R169): Poisoned load data returns and a MACHINE trap falls due at the next boundary. -/
  | deferredMachineTrap (core slot tid : Nat)
  /-- TRAP_RECORD_MADE (R248): Once R164 holds, a trap record is made and queued. -/
  | trapRecordMade (core slot tid : Nat)
  /-- SPILL_RECORD_RETURN (R249): A spilled record moves back into the queue as an entry frees. -/
  | spillRecordReturn (core : Nat)
  /-- HELD_TRAP_RECORD (R249): A held trap's record is made when room appears. -/
  | heldTrapRecord (core : Nat)
  /-- WATCHDOG_EXPIRY (R263): The instruction count passes ctl.wdlimit and a WATCHDOG trap falls due. -/
  | watchdogExpiry (core slot tid : Nat)
  /-- CREW_READY_TO_SAVE (R257): All threads stopped and flags, matrix ops and grants drained: pready is set. -/
  | crewReadyToSave (core slot : Nat)
  /-- JOIN_PATIENCE_EXPIRY (R202): A join's timer reaches patience and the join is lost. -/
  | joinPatienceExpiry (core slot rm : Nat)
  /-- COPY_START (R289): The tile-walk engine starts an accepted copy in acceptance order. -/
  | copyStart (core : Nat)
  /-- COPY_LINE_READ (R289): The engine issues one source line read. -/
  | copyLineRead (copy : Nat)
  /-- COPY_LINE_WRITE (R289): The engine writes a store-queue group to the destination. -/
  | copyLineWrite (copy : Nat)
  /-- SPILL_SLOT_READBACK (R290): A spilled copy is read back; a bad check word abandons it. -/
  | spillSlotReadback (copy : Nat)
  /-- COPY_COMPLETE (R298): All destination bytes performed; the counter is updated and the flag falls. -/
  | copyComplete (copy : Nat)
  /-- MULTICAST_DELIVERY (R303): A receiver accepts or refuses a multicast delivery into a permit. -/
  | multicastDelivery (copy cluster : Nat)
  /-- CWAIT_WAKE (R300): A write to the counter is performed and the parked cwait re-reads it. -/
  | cwaitWake (core slot tid : Nat)
  /-- FLOOR_DELIVERY (R426): A moved floor is delivered to clusters and slices. -/
  | floorDelivery (isle : Nat)
  /-- TLBINV_COMPLETE (R327): Holders of removed translations have ended and tlbinv completes. -/
  | tlbinvComplete (who : IssuerId)
  /-- INTERRUPT_ENTRY (R242): A pending enabled interrupt is taken at a beacon boundary. -/
  | interruptEntry (core : Nat)
  /-- WFI_WAKE (R243): A pending enabled interrupt ends a wfi. -/
  | wfiWake (core : Nat)
  /-- SLICE_EXPIRY (R261): A user crew's slice counter reaches ctl.slice. -/
  | sliceExpiry (core slot : Nat)
  /-- DEBUG_FREEZE_COMPLETE (R262): Every thread has stopped; dbgstat and ipend.debug are set. -/
  | debugFreezeComplete (core slot : Nat)
  /-- EXIT_RETIRE (R145): Flags drained and stores performed: the thread retires. -/
  | exitRetire (core slot tid : Nat)
  /-- PIECE_PLACEMENT (R357): Resources free on a cluster and a queued piece is placed. -/
  | piecePlacement (cluster : Nat)
  /-- ASK_FOR_WORK (R358): A core with a free slot asks its domain for work. -/
  | askForWork (core : Nat)
  /-- CREW_MOVE (R386): The streamer moves a stopped crew and writes mstat. -/
  | crewMove (core slot : Nat)
  /-- ISLE_RESET (R408): An isle's crews end, work drains and its cores restart. -/
  | isleReset (isle : Nat)
  /-- FABRIC_SOURCE_READ (R421): The fabric engine has read the local source and the flag falls. -/
  | fabricSourceRead (op : Nat)
  /-- FABRIC_REMOTE_REQUEST (R421): A remote put, get or atom is checked and served at the target. -/
  | fabricRemoteRequest (req : FabRequest)
  /-- FABRIC_COMPLETE (R421): A fabric operation completes and releases its counter at .sys. -/
  | fabricComplete (op : Nat) (reply : FabReply)
  /-- REDUCTION_CONTRIBUTION (R422): A contribution arrives at the aggregation point. -/
  | reductionContribution (c : Contribution)
  /-- FABRIC_UNREACHABLE (R424): A target unreachable for 2^24 cycles fails with outcome 1. -/
  | fabricUnreachable (op : Nat)
  /-- LOAD_DATA_RETURN (R152): Load data arrives, writes the destination and drops the flag. -/
  | loadDataReturn (op parts : Nat)
  /-- STORE_PERFORMED (R153): A store takes its place in coherence order and drops its flag. -/
  | storePerformed (op : Nat)
  /-- PAGE_WALK (R325): A walker completes a page-table walk and returns its result. -/
  | pageWalk (core va : Nat)
  /-- PREEMPT_GRACE_EXPIRY (R256): 20,000 cycles after a request the remaining threads stop at their next boundary. -/
  | preemptGraceExpiry (core slot : Nat)
  /-- RACQ_GRANT (R177): The head request of a core's grant queue is granted. -/
  | racqGrant (core : Nat)
  /-- MMA_ENTER_QUEUE (R217): A completed mma round's operation enters the matrix queue, waiting for room if full. -/
  | mmaEnterQueue (core : Nat)
  /-- MMA_OPERAND_ARRIVAL (R227): Operand lines of the last k-step arrive and the mma is accepted. -/
  | mmaOperandArrival (core : Nat)
  /-- MMA_KSTEP (R225): The matrix unit writes one k-step into the tile. -/
  | mmaKstep (core : Nat)
  /-- MMA_OPERAND_FAULT (R228): An operand fetch faults, sets rsm and traps every signer. -/
  | mmaOperandFault (core : Nat)
  /-- MMZ_EXECUTE (R230): The queued mmz zeroes its tile. -/
  | mmzExecute (core : Nat)
  /-- ACCLD_EXECUTE (R231): The queued accld writes 512 bytes into accumulator memory. -/
  | accldExecute (core : Nat)
  /-- ACCST_EXECUTE (R231): The queued accst writes 512 bytes to global memory. -/
  | accstExecute (core : Nat)
  /-- PUSH_MERGE_AT_HOME (R275): The home obtains the line, merges the push and sends fills. -/
  | pushMergeAtHome (push : Nat)
  /-- PUSH_FILL (R278): A receiving L1 installs, refreshes or refuses a push fill. -/
  | pushFill (push cluster : Nat)
  /-- PUSH_COMPLETE (R280): All receivers have acknowledged; the push's flag falls. -/
  | pushComplete (push : Nat)
  /-- QUOTA_WINDOW_START (R281): A new 1024-cycle push quota window resets the install count. -/
  | quotaWindowStart (cluster : Nat)
  /-- FORWARD_ENTRY_EXPIRY (R287): A move's forwarding entry expires after 2^16 cycles. -/
  | forwardEntryExpiry (fwd : Nat)
  /-- PERMIT_FORWARD_EXPIRY (R288): A saved owner's forwarded permit disarms after 2^16 cycles. -/
  | permitForwardExpiry (cluster permit : Nat)
  /-- PEER_PROBE (R272): A miss probes the predicted peer cluster. -/
  | peerProbe (op peer : Nat)
  /-- PEER_FORWARD_REGISTRATION (R273): The home registers or discards a peer-forwarded install. -/
  | peerForwardRegistration (op : Nat)
  /-- READ_REQUEST (R315): A directory-tracked read miss served at the home. -/
  | readRequest (op : Nat)
  /-- OWNERSHIP_REQUEST (R315): A request for ownership served at the home. -/
  | ownershipRequest (op : Nat)
  /-- HOME_WRITE (R315): A write, atomic or pst performed at the home. -/
  | homeWrite (op : Nat)
  /-- WRITEBACK (R315): An owner's writeback updates the L2. -/
  | writeback (cluster line : Nat)
  /-- DATA_REPLY (R314): An L1 receives a reply and installs the line. -/
  | dataReply (op : Nat)
  /-- INVALIDATE (R314): An L1 invalidates an S copy and acknowledges. -/
  | invalidate (cluster line : Nat)
  /-- SET_RECALL (R313): A saturated filter makes the L1 flush a set. -/
  | setRecall (cluster set slice : Nat)
  /-- FILTER_ACK (R313): An L1 acknowledgement carrying recomputed filter bits. -/
  | filterAck (cluster set slice : Nat)
  /-- ATOMIC_APPLY (R309): A bank's atomic unit applies an atomic. -/
  | atomicApply (op : Nat)
  /-- LEASE_READ (R318): The home extends rts and replies with data and lease. -/
  | leaseRead (op : Nat)
  /-- LEASE_WRITE (R318): A self-invalidating write takes a new time past every lease. -/
  | leaseWrite (op : Nat)
  /-- HELD_WRITE_RELEASE (R320): After the sweep a guard-band write is released. -/
  | heldWriteRelease (op : Nat)
  /-- SWEEP (R320): A swept cluster invalidates its leased lines and advances pts. -/
  | sweep (op cluster : Nat)
  /-- PTS_TICK (R316): pts advances by one when ctl.cycle is a multiple of 1024. -/
  | ptsTick (core : Nat)
  /-- TIMER_COMPARE (R242): ctl.cycle reaches ctl.timecmp and the timer level is set. -/
  | timerCompare (core : Nat)
  /-- PIECE_AGING (R358): A queued piece rises a class every 2^20 cycles. -/
  | pieceAging (cluster : Nat)
  /-- REDUCTION_TIMEOUT (R422): ctl.redtimeout passes and the generation is abandoned. -/
  | reductionTimeout (group : Nat)
  /-- RDMA_PEER_ACCESS (R415): An RDMA peer access is translated and performed. -/
  | rdmaPeerAccess (req : PeerAccess)
  /-- RDMA_WORK_COMPLETION (R415): A work completion sets ipend.device. -/
  | rdmaWorkCompletion (port qp : Nat)
  /-- NVME_DMA (R416): A drive DMA is checked against the isle ranges. -/
  | nvmeDma (req : DmaAccess)
  /-- NVME_COMPLETION (R416): A command completion entry raises the device interrupt. -/
  | nvmeCompletion (port : Nat) (entry : NvmeEntry)
  /-- ECC_CORRECTED (R324): A corrected soft error is counted and ipend.ecc set. -/
  | eccCorrected (site : EccSite)
  /-- ECC_UNCORRECTABLE (R324): An uncorrectable error poisons its granule. -/
  | eccUncorrectable (site : EccSite)
  /-- CLUSTER_POWER_DOWN (R425): The firmware sweeps and powers down an unowned cluster. -/
  | clusterPowerDown (cluster : Nat)
  /-- RECALL_DEFERRAL_EXPIRY (R156): At most 64 cycles after a recall of an ldx-reserved line was deferred, the recall takes the line and the reservation ends. -/
  | recallDeferralExpiry (cluster line : Nat)
  /-- CLUSTER_POWER_UP (R425): A powered-down cluster is powered up again and starts with an empty L1 and its cores' pts at the isle floor. -/
  | clusterPowerUp (cluster : Nat)
  /-- FABRIC_PORT_DOWN (R424): A scale-out port goes down and Fengor traffic spreads over the remaining ports. -/
  | fabricPortDown (port : Nat)
  /-- RECALL (R314): An L1 answers a recall to S or I with data. -/
  | recallLine (cluster line : Nat)
  /-- RET (R144): Pop the return index from the stack. -/
  | ret
  /-- EXIT (R145): Begin retirement of the thread. -/
  | exit
  /-- YIELD (R146): Make the thread ineligible for the next pick and reset its age. -/
  | yield
  /-- ERET (R241): Return from a beacon handler. -/
  | eret
  /-- WFI (R243): Beacon lane waits for an interrupt. -/
  | wfi
  /-- TEND (R382): Stop the task and retire the thread. -/
  | tend
  /-- FPOINT (R381): Reclamation point. -/
  | fpoint
  /-- FGUARD (R381): Raise the guard depth. -/
  | fguard
  /-- FEND (R381): Lower the guard depth, then a reclamation point. -/
  | fend
  /-- PACKAGE_RESET (R411): Every beacon lane starts in M mode in the boot ROM. -/
  | packageReset
  /-- ATTESTATION_REPORT_READY (R413): The report and signatures are written and the request word clears. -/
  | attestationReportReady
  /-- THERMAL_THROTTLE (R425): A thermal or power limit lowers the core clock a step. -/
  | thermalThrottle
deriving DecidableEq, Repr

end Sys2Proof
end

