-- ==== Sys2Proof/Machine/State.lean ====
section
/-! DEFINITION. The state of the N4 package as plain data, why a step can stop, and the state after package reset.
INVENTORY.md lists every field with its rule. -/

namespace Sys2Proof.Machine

/-! ### Why a step stops -/

/-- The faults of the machine: none. What the spec calls a fault is a trap, an exception or an outcome, and the machine goes on;
where it names an address that does not exist, it traps too (R26, R149, R405). -/
inductive Fault where
deriving DecidableEq, Repr

/-- The refusals of the machine. -/
inductive Refusal where
  /-- An instruction that has no meaning yet. Raised by exec only. Safe. -/
  | notModelled (mnemonic : String)
deriving DecidableEq, Repr

/-! ### Threads -/

/-- What a parked thread waits for (R31, R34). A thread parked on a future or a counter issues its instruction
again when it wakes (R300, R374). -/
inductive Park where
  | future (cell : Nat)
  | barrier (b : Nat) (gen : BitVec 16)
  | rejoin (rm : Nat) (gen : BitVec 8)
  | grant
  | counter (pa : Nat) (target : Nat)
  | batch (n : Word)
deriving DecidableEq, Repr

/-- The states of R34; Saved threads are in their crew's image and Issuing is the state of a waiting signer (R206).
A frozen thread keeps the park it left (R37). -/
inductive Life where
  | ready
  | issuing (cv dst flag : Nat)
  | parked (p : Park)
  | trapped
  | frozen (p : Option Park)
  | exited
deriving DecidableEq, Repr

/-- A trap record without its batch field (R248). -/
structure Rec where
  status : Word
  tpc : Word
  rpc : Word
  detail : Word
  fault : BitVec 48
  index : Word
  seq : Word
deriving DecidableEq, Repr

/-- Whether a trap's record has been made (R248, R249): not yet, waiting for room, or made. -/
inductive RecState where
  | due
  | held
  | made (r : Rec)
  /-- a PREEMPT stop makes none (R256) -/
  | never
deriving DecidableEq, Repr

/-- The state of a trapped thread (R32, R171). `win` is the place in the hold window that the trap closed (R31). -/
structure Trap where
  cause : Nat
  tpc : Word
  rpc : Word
  fault : BitVec 48
  detail : Word
  win : Option Nat
  record : RecState
  /-- how a slice expiry stands to it (R261): 0 taken in this cycle, 1 earlier, 2 an expiry waits for its end -/
  mark : Nat
  /-- the cycle in which its gang issued, which orders the records (R167, R249; log 91); an instruction trap of the present
  cycle holds none yet -/
  since : Option Nat
deriving DecidableEq, Repr

/-- An open hold window: the PC of its first hint, instructions issued, the cycle it opened (R47, R182). -/
structure Win where
  first : Word
  pos : Nat
  opened : Nat
deriving DecidableEq, Repr

/-- The coverage of a sched hint (R44, R45): distances of the instructions still covered, flags the first one waits
for, hold, yield, and the hint's PC. -/
structure Cover where
  dists : List Nat
  wait : BitVec 12
  hold : Bool
  yld : Bool
  pc : Word
deriving DecidableEq, Repr

/-- The fields of a mod hint (R52). -/
structure ModBits where
  round : Round
  sat : Bool
  ftz : Bool
  cache : Nat
deriving DecidableEq, Repr

/-- Binding hints before the next instruction, and the compound's PC (R43). -/
structure Bind where
  start : Word
  imm : Option (BitVec 26)
  mod : Option ModBits
  fmt : Option (BitVec 26)
  /-- A mod hint with a field that must be zero, or a reserved rounding, stands here: the compound is ILLEGAL (R52). -/
  bad : Bool
deriving DecidableEq, Repr

/-- A write of a register whose result distance has not passed (R46): the value before it, and the cycle from which that
value is read no more. -/
structure Shadow where
  reg : Nat
  old : Word
  till : Nat
deriving DecidableEq, Repr

/-- An exclusive reservation (R156): the physical address, by which the line is known, the formed address of R148, the size. -/
structure Rsv where
  addr : Nat
  va : Nat
  n : Nat
deriving DecidableEq, Repr

/-- An mcall in progress (R59): the range of the control store, the next operation, the parameters, the PC of the
mcall, the cycle it opened (R182). -/
structure Mac where
  start : Nat
  len : Nat
  idx : Nat
  p0 : Opnd
  p1 : Opnd
  pc : Word
  opened : Nat
deriving DecidableEq, Repr

/-- The last live run of a thread (R54, R55): the mask of each of the four parts, if a live hint named it, and the
scratchpad ranges, in 256-byte units. `active` while the run's hints are being decoded: its live point lies ahead. -/
structure LiveRun where
  parts : FMap (BitVec 24)
  ranges : List (Nat × Nat)
  active : Bool
deriving DecidableEq, Repr

/-- A deferred MACHINE trap that has fallen due (R169). -/
structure Deferred where
  pc : Word
  fault : BitVec 48
  detail : Word
deriving DecidableEq, Repr

/-- A sealed batch of copies (R302). -/
structure Batch where
  num : Word
  copies : List Nat
deriving DecidableEq, Repr

/-- The translations that a tlbinv removes (R327). -/
structure InvExtent where
  ext : Nat
  va : Nat
deriving DecidableEq, Repr

/-- A wait of an issued S-class instruction before its effect (R60, R327). -/
inductive SysWait where
  | none
  | tlbinv (e : InvExtent) (upto : Nat)
deriving DecidableEq, Repr

/-- A thread (R11 to R37). -/
structure Thread where
  regs : FMap Word
  pc : Word
  sp : Word
  latch : List Word
  lvalid : BitVec 8
  /-- the cycle from which each latch holds its value (R50) -/
  ltime : List Nat
  segs : List (BitVec 128)
  flags : List Nat
  life : Life
  step : Bool
  trap : Option Trap
  win : Option Win
  cover : Option Cover
  bind : Option Bind
  lastIssue : Option Nat
  age : Nat
  skip : Bool
  waitMask : BitVec 12
  shadows : List Shadow
  rsv : Option Rsv
  arrival : Option (Nat × BitVec 16)
  mac : Option Mac
  live : Option LiveRun
  unsealed : List Nat
  batches : List Batch
  spillNext : Nat
  pushref : Word
  wdcount : Nat
  /-- a WATCHDOG trap that another boundary trap has passed over stays due (R168) -/
  wdDue : Bool
  ubind : Word
  guard : Nat
  decl : BitVec 512
  deferred : List Deferred
  leaving : Bool
  /-- a STEP trap is due (R33, R168) -/
  stepDue : Bool
  /-- the grace of a pre-emption has passed (R256) -/
  stopDue : Bool
  /-- restored for a stopping task while its round was open: it retires in place of its first issue (R380) -/
  retireDue : Bool
  sysWait : SysWait
  /-- operations whose completion the next issue waits for (R41, R163) -/
  waitAll : List Nat
  /-- operations whose completion the next memory instruction waits for (R343) -/
  waitMem : List Nat
deriving DecidableEq, Repr

/-- A thread at its reset values, before its placement (R35). -/
def Thread.blank : Thread :=
  { regs := [], pc := 0, sp := 0, latch := List.replicate 8 0#32, lvalid := 0#8,
    ltime := List.replicate 8 0,
    segs := List.replicate 8 0#128, flags := List.replicate 12 0, life := .ready, step := false, trap := none,
    win := none, cover := none, bind := none, lastIssue := none, age := 0, skip := false, waitMask := 0#12,
    shadows := [], rsv := none, arrival := none, mac := none, live := none, unsealed := [], batches := [],
    spillNext := 0, pushref := 0#32, wdcount := 0, wdDue := false, ubind := 0xFFFFFFFF#32, guard := 0, decl := 0#512,
    deferred := [], leaving := false, stepDue := false, stopDue := false, retireDue := false, sysWait := .none, waitAll := [], waitMem := [] }

/-! ### Crews -/

/-- A rejoin-mask register and its timer (R198). -/
structure Rm where
  gen : BitVec 8
  isSet : Bool
  isOpen : Bool
  base : Nat
  lost : Word
  dropped : Word
  pending : Word
  mask : Word
  timer : Nat
  /-- opened in this cycle, or a pending bit has cleared in it (R202) -/
  touched : Bool
deriving DecidableEq, Repr

/-- A rejoin-mask register at placement (R198). -/
def Rm.blank : Rm :=
  { gen := 0#8, isSet := false, isOpen := false, base := 0, lost := 0#32, dropped := 0#32, pending := 0#32,
    mask := 0#32, timer := 0, touched := false }

/-- What a member gave when it signed (R206): the value of p, the value of q; and for a trap of its mma (R223) the
trap and resume PCs of the instruction and its place in the window it closed. -/
structure CvArg where
  p : Word
  q : Word
  tpc : Word
  rpc : Word
  win : Option Nat
deriving DecidableEq, Repr

/-- A convergence register (R204) with the operands of its open round. -/
structure Cv where
  gen : BitVec 8
  isSet : Bool
  isOpen : Bool
  op : Nat
  sub : Nat
  base : Nat
  rsmv : Bool
  rsm : Nat
  excused : Word
  signed : Word
  mask : Word
  args : FMap CvArg
deriving DecidableEq, Repr

/-- A convergence register at placement (R204). -/
def Cv.blank : Cv :=
  { gen := 0#8, isSet := false, isOpen := false, op := 0, sub := 0, base := 0, rsmv := false, rsm := 0,
    excused := 0#32, signed := 0#32, mask := 0#32, args := [] }

/-- An extended grant in the units of R175. -/
structure Grant where
  regs : Nat
  scratch : Nat
  acc : Nat
deriving DecidableEq, Repr

/-- A debug freeze of a crew (R262). -/
inductive Freeze where
  | none
  | wanted
  | done
deriving DecidableEq, Repr

/-- A resident crew (R172). Allocation bounds are in 4 KiB units; a base length leaves the grant out. -/
structure Crew where
  uid : Nat
  shape : Word
  isle : Nat
  size : Nat
  nbase : Nat
  super : Bool
  grant : Grant
  request : Option Word
  spadBase : Nat
  spadLen : Nat
  accBase : Nat
  accLen : Nat
  /-- the uid of the first holder of its accumulator allocation, its own if it holds the allocation alone (R216) -/
  accOwner : Nat
  threads : FMap Thread
  rms : FMap Rm
  cvs : FMap Cv
  handles : FMap (BitVec 128)
  patience : Nat
  task : Word
  piece : Nat
  kgo : Bool
  stack : Option (Nat × Nat)
  preempt : Option Nat
  freeze : Freeze
  slice : Nat
  sliceDue : Bool
deriving DecidableEq, Repr

/-! ### Cores -/

/-- A named barrier (R189). -/
structure Barrier where
  gen : BitVec 16
  expected : Nat
  armed : Bool
  arrived : Nat
deriving DecidableEq, Repr

/-- A named barrier at core reset (R189). -/
def Barrier.blank : Barrier := { gen := 0#16, expected := 0, armed := false, arrived := 0 }

/-- The coherence modes of R310. -/
inductive CMode where
  | dir
  | selfInv
  | uncached
deriving DecidableEq, Repr

/-- A translation of a page (R310, R325): virtual base, log2 of its size, physical base, the leaf's bits. -/
structure Tlb where
  vbase : Nat
  bits : Nat
  pbase : Nat
  u : Bool
  x : Bool
  w : Bool
  r : Bool
  mode : CMode
  sc : Bool
  lease : Nat
deriving DecidableEq, Repr

/-- The work of an mma (R223, R225): its register, format word, copies of its handles (R219), the k-step it started at, the
next to be written, the next whose operands are to arrive; the lines that have arrived, by space and line, with their
poison and the pinned line; its signers with what they gave; the segments and the mode its fetches are checked
under. -/
structure MmaWork where
  cv : Nat
  fmt : Word
  a : BitVec 128
  b : BitVec 128
  sa : Option (BitVec 128)
  sb : Option (BitVec 128)
  start : Nat
  step : Nat
  fetched : Nat
  got : FMap (Nat × Nat × Option Nat)
  signers : FMap CvArg
  segs : List (BitVec 128)
  user : Bool
deriving DecidableEq, Repr

/-- The work of an entry of the matrix queue (R217); an accld or accst holds its address, translation and thread. -/
inductive MatKind where
  | mma (w : MmaWork)
  | mmz
  | accld (va pa : Nat) (page : Tlb) (tid : Nat)
  | accst (va pa : Nat) (page : Tlb) (tid : Nat)
deriving DecidableEq, Repr

/-- An entry of the matrix queue (R217): `ord` is its place among the space-2 accesses, from its entry; `off` an absolute
offset into the accumulator memory; `flags` the threads and flags that fall when it is over; `accepted` R227's
acceptance of an mma. -/
structure MatOp where
  id : Nat
  ord : Nat
  slot : Nat
  uid : Nat
  off : Nat
  kind : MatKind
  flags : List (Nat × Nat)
  accepted : Bool
  pc : Word
  detail : Word
deriving DecidableEq, Repr

/-- The modes of a beacon lane (R234). -/
inductive LaneMode where
  | s
  | m
deriving DecidableEq, Repr

/-- What holds a beacon lane's next issue. -/
inductive LaneWait where
  | none
  | wfi
  | tlbinv (e : InvExtent) (upto : Nat)
  /-- halted by an exception in M mode (R240) -/
  | halted
  /-- halted because both boot slots failed (R412) -/
  | bootFailed
  /-- in the ROM's secondary path (R411): waiting for an ipi, then jumping to the mailbox -/
  | mailbox
deriving DecidableEq, Repr

/-- A beacon lane (R234 to R246). `ipend` holds the bits of R242 that are set by an event and cleared by W1C, and the
timer level (bit 0); the other level bits follow from the registers they name. -/
structure Lane where
  b : FMap DWord
  pc : Word
  sp : Word
  segs : List (BitVec 128)
  mode : LaneMode
  exl : Bool
  pie : Bool
  ie : Bool
  pmode : BitVec 2
  bepc : DWord
  bcause : DWord
  bfault : DWord
  bdetail : DWord
  bvec : DWord
  ipend : DWord
  ienable : DWord
  timecmp : DWord
  ipivec : FMap DWord
  mepc : DWord
  mcause : DWord
  mstat : DWord
  mvec : DWord
  ubind : Word
  rsv : Option Rsv
  bind : Option Bind
  wait : LaneWait
deriving DecidableEq, Repr

/-- A segment register from its fields (R22). -/
def mkSeg (s x w r : Bool) (limit base : Nat) : BitVec 128 :=
  BitVec.ofNat 128 (base % 2 ^ 48 + (limit % 2 ^ 48) * 2 ^ 64 + b2n r * 2 ^ 112 + b2n w * 2 ^ 113 + b2n x * 2 ^ 114
    + b2n s * 2 ^ 115)

/-- The bits that R22 forces in segment register `i`. -/
def forceSeg (i : Nat) (v : BitVec 128) : BitVec 128 :=
  let x := v.toNat
  let s := bit x 115 || i == 6 || i == 7
  let w := bit x 113 && i != 4 && i != 5
  mkSeg s (bit x 114) w (bit x 112) (bits x 111 64) (bits x 47 0)

/-- The segments of a beacon lane after package reset (R411). The permission bits are the model's choice (log 4). -/
def Lane.resetSegs : List (BitVec 128) :=
  (List.range 8).map (fun i =>
    if i = 5 then forceSeg 5 (mkSeg false true false true 0x10000 0x007000000000)
    else forceSeg i (mkSeg false false true true 0xFFFFFFFFFFFF 0))

/-- A beacon lane after package reset (R234, R239, R246, R411). -/
def Lane.reset : Lane :=
  { b := [], pc := 0, sp := 0, segs := Lane.resetSegs, mode := .m, exl := false, pie := false, ie := false,
    pmode := 0#2, bepc := 0, bcause := 0, bfault := 0, bdetail := 0, bvec := 0, ipend := 0, ienable := 0,
    timecmp := 0xFFFFFFFFFFFFFFFF#64, ipivec := [], mepc := 0, mcause := 0, mstat := 0, mvec := 0,
    ubind := 0xFFFFFFFF#32, rsv := none, bind := none, wait := .none }

/-- The control registers of a core (R246). -/
structure CoreCtl where
  wdlimit : Word
  dedup : Bool
  thresh : Nat
  ovf : Bool
  qspill : DWord
  qspilln : Word
  qbatch : Nat
  kstack : Word
  slice : Word
  sliceexp : Word
  pready : Word
  kdone : Word
  fot : Bool
  dbgCrew : Nat
  dbgstat : Word
deriving DecidableEq, Repr

/-- The control registers after core reset (R246, R262). -/
def CoreCtl.reset : CoreCtl :=
  { wdlimit := 0x01000000#32, dedup := false, thresh := 1, ovf := false, qspill := 0, qspilln := 0, qbatch := 32,
    kstack := 4096#32, slice := 0, sliceexp := 0, pready := 0, kdone := 0, fot := false, dbgCrew := 0, dbgstat := 0 }

/-- A requested move of a crew (R385): the crew slot, its uid and task, and the destination core. -/
structure MoveReq where
  slot : Nat
  uid : Nat
  task : Word
  dest : Nat
deriving DecidableEq, Repr

/-- A core (R172 to R233, R248, R316, R325). `queue` is the supervisor queue, oldest first; `ringHead` and
`ringCount` place the spill ring's records in memory; `held` are held traps in order (R249). -/
structure Core where
  crews : FMap Crew
  bars : FMap Barrier
  grantQ : List Nat
  matQ : List MatOp
  /-- completed rounds whose operation waits for room (R217) -/
  matWait : List MatOp
  acc : Memory
  accPoison : List Nat
  cstore : FMap Word
  entries : FMap (Nat × Nat)
  queue : List Rec
  ringHead : Nat
  ringCount : Nat
  held : List (Nat × Nat)
  seq : Word
  ctl : CoreCtl
  lane : Lane
  pts : Time
  tlb : List Tlb
  /-- the TLB of instruction fetch (R325) -/
  itlb : List Tlb
  divFree : FMap Nat
  asks : Bool
  moves : List MoveReq
  /-- the cycle of the last core reset, from which ctl.cycle counts (R246) -/
  born : Nat
  /-- crews that left their slots in this cycle: what they held is free from the next one on (R174) -/
  returned : FMap Crew
  /-- named barriers at which the matrix unit arrives at the end of this cycle, in queue order (R191, R232) -/
  arrivals : List Nat
deriving DecidableEq, Repr

/-- A core after package reset. -/
def Core.reset : Core :=
  { crews := [], bars := [], grantQ := [], matQ := [], matWait := [], acc := [], accPoison := [], cstore := [],
    entries := [], queue := [], ringHead := 0, ringCount := 0, held := [], seq := 0, ctl := CoreCtl.reset,
    lane := Lane.reset, pts := 0#24, tlb := [], itlb := [], divFree := [], asks := false, moves := [], born := 0,
    returned := [], arrivals := [] }

/-! ### Clusters -/

/-- The states of a line in an L1 (R314, R317). -/
inductive L1State where
  | m
  | e
  | s
  | leased
deriving DecidableEq, Repr

/-- A line in an L1 (R271): its 128 bytes as a number, poison of its four granules, timestamps, retention class of
R155. `filled` is the place of its data among the messages of the homes, as far as that is known, else 0 (R306, R339). -/
structure L1Line where
  st : L1State
  data : Nat
  poison : Nat
  wts : Time
  rts : Time
  keep : Nat
  filled : Nat := 0
deriving DecidableEq, Repr

/-- A permit (R285). -/
structure Permit where
  key : Nat
  armed : Bool
  fwd : Bool
  owner : Nat
  len : Nat
  base : Nat
deriving DecidableEq, Repr

/-- A permit after cluster reset (R285). -/
def Permit.blank : Permit := { key := 0, armed := false, fwd := false, owner := 0, len := 0, base := 0 }

/-- A piece that waits in a cluster's task queue (R356), in its class since a cycle (R358). -/
structure Queued where
  task : Word
  lo : Nat
  hi : Nat
  cls : Nat
  since : Nat
  pos : Nat
deriving DecidableEq, Repr

/-- A cluster (R268 to R288, R356). `acquired` is the place among the messages of the homes at which a thread of the cluster, or an
engine for it, has acquired last at .squad or a wider scope (R342). -/
structure Cluster where
  spad : Memory
  spadPoison : List Nat
  l1 : FMap L1Line
  permits : FMap Permit
  refused : Nat
  quota : Nat
  installs : Nat
  queue : List Queued
  powered : Bool
  acquired : Nat
deriving DecidableEq, Repr

/-- A cluster after package reset. -/
def Cluster.reset : Cluster :=
  { spad := [], spadPoison := [], l1 := [], permits := [], refused := 0, quota := 512, installs := 0, queue := [],
    powered := true, acquired := 0 }

/-! ### The die: homes, operations in flight -/

/-- An L2 line as its home keeps it (R308, R313, R318, R323, R226); its data is in `mem`. `recalling` is an outstanding
recall of the owner: to I or only to S, and the cycle at which a deferred one is taken (R156); `invals` are the
agents whose acknowledgement is awaited (R315). -/
structure HomeLine where
  mode : CMode
  demote : Bool
  owner : Option Nat
  wts : Time
  rts : Time
  pins : Nat
  recalling : Option (Bool × Option Nat)
  invals : List Nat
deriving DecidableEq, Repr

/-- The read-modify-writes of R344. -/
inductive AtomFn where
  | add | sub | min | max | and | or | xor | exch | cas | fadd | fmin | fmax | bfadd2
deriving DecidableEq, Repr

/-- What a memory operation in flight does. -/
inductive OpKind where
  | ld (size : LdSize)
  | ldx
  | ldAcq
  | st
  | stx
  | stRel
  | atom (f : AtomFn) (acq rel : Bool)
  | fenceRel
  | fenceAcq
deriving DecidableEq, Repr

/-- What a home or a peer grants a miss (R314, R317, R272). -/
inductive GrantKind where
  | s | e | m | leased | none
deriving DecidableEq, Repr

/-- An answer on its way to a missing L1 (R305, R314): `seq` orders the messages of class 1 of its home to one cluster (R306);
`peer` when it came from a peer (R273). -/
structure Reply where
  seq : Nat
  kind : GrantKind
  data : Nat
  poison : Nat
  wts : Time
  rts : Time
  peer : Bool
deriving DecidableEq, Repr

/-- An accepted memory operation of a thread that has not been completed (R150). `addr` is a physical address, or an
offset into the scratchpad or accumulator memory. `parts` are the destination registers still to be written. -/
structure MemOp where
  id : Nat
  core : Nat
  slot : Nat
  tid : Nat
  uid : Nat
  kind : OpKind
  space : Nat
  addr : Nat
  n : Nat
  fault : BitVec 48
  page : Option Tlb
  flag : Nat
  dst : Nat
  parts : Nat
  data : Nat
  cmp : Nat
  cache : Nat
  scope : Nat
  pc : Word
  detail : Word
  value : Option Nat
  poisoned : Bool
  reply : Option Reply
  held : Bool
  /-- the cycle in which the guard band took hold of a write (R320) -/
  heldSince : Option Nat
  /-- The clusters swept for a write that the guard band holds (R320). -/
  swept : List Nat
  /-- the earlier pushes that a release waits for (R284, R332); the earlier operations that an acquire fence waits for (R345) -/
  pushes : List Nat
deriving DecidableEq, Repr

/-- A dimension of a copy plan (R291). -/
structure Dim where
  ext : Nat
  ss : Int
  ds : Int
deriving DecidableEq, Repr

/-- Where an accepted copy stands (R289, R290). -/
inductive CopyStage where
  | spilled (slot : Nat)
  | queued
  | running
  | ended
  | abandoned
deriving DecidableEq, Repr

/-- What a receiver of a multicast decided (R303): it takes the elements at a byte offset of a cluster's scratchpad, or of
the scratch data of an image (an isle and its virtual address). -/
inductive Verdict where
  | waiting
  | refused
  | accepted (cluster base : Nat) (image : Option (Nat × Nat))
deriving DecidableEq, Repr

/-- An element of a copy that has been read (R289): its index in the walk, its bytes, whether they are poisoned. -/
structure Element where
  idx : Nat
  val : Nat
  bad : Bool
deriving DecidableEq, Repr

/-- A copy accepted by a tile-walk engine (R289 to R303). The bases are virtual addresses, offsets into the cluster's
scratchpad, or for a multicast an offset from the permit's start. `spages`, `dpages` and `cpage` are the translations made at
acceptance; `next` is the next element in walk order; `buf` the store queue's groups; `ring` and `check` belong to the spill-ring
slot: the physical address, the bytes and the translation of each line that it lies in. -/
structure Copy where
  id : Nat
  core : Nat
  slot : Nat
  tid : Nat
  uid : Nat
  isle : Nat
  flag : Nat
  esz : Nat
  ssp : Nat
  dsp : Nat
  sbase : Int
  dbase : Int
  dims : List Dim
  inc : Nat
  scope : Nat
  counter : Nat
  cpage : Option Tlb
  spages : List Tlb
  dpages : List Tlb
  mcast : Bool
  key : Nat
  permit : Nat
  recv : FMap Verdict
  stage : CopyStage
  next : Nat
  buf : List (List Element)
  ring : List (Nat × Nat × Tlb)
  check : Word
deriving DecidableEq, Repr

/-- A push in flight (R275): the bytes of a pst; the cores it names (R284, R287); the clusters still to answer; the place of its
fills among the messages of its home, from its merge on (R306). -/
structure Push where
  id : Nat
  core : Nat
  slot : Nat
  tid : Nat
  uid : Nat
  isle : Nat
  flag : Nat
  addr : Nat
  n : Nat
  data : Option Nat
  page : Tlb
  names : List Nat
  recv : List Nat
  merged : Bool
  seq : Nat
deriving DecidableEq, Repr

/-- A fabric descriptor (R418). -/
structure FabDesc where
  laddr : Nat
  raddr : Nat
  len : Nat
  tgt : Nat
  sub : Nat
  wide : Bool
  gen : Word
  op1 : DWord
  op2 : DWord
  rcnt : Nat
deriving DecidableEq, Repr

/-- The fabric instructions (R419). -/
inductive FabKind where
  | put | get | atom | red | mcast
deriving DecidableEq, Repr

/-- A fabric operation in flight (R421). `members` are the targets as (package, isle), read at acceptance; `lpages`, `rpages`
and `cpage` the translations made then, `limit` the isle's ctl.redtimeout then (R423); `src` the source bytes once read;
`served` what the targets of this package have answered, `back` the bytes that one gave; `wins` the remote windows of the
package's isles at acceptance (R417); `failing` what an abandoned reduction still has to be told (R422). -/
structure FabOp where
  id : Nat
  core : Nat
  slot : Nat
  tid : Nat
  uid : Nat
  isle : Nat
  flag : Nat
  kind : FabKind
  desc : FabDesc
  members : List (Nat × Nat)
  counter : Nat
  lpages : List Tlb
  rpages : List Tlb
  cpage : Option Tlb
  src : Option (List PByte)
  served : FMap Nat
  back : List Byte
  wins : FMap (FMap DWord)
  contributed : Bool
  limit : Nat
  since : Nat
  failing : Option (Nat × Word × Nat) := none
deriving DecidableEq, Repr

/-- A member's contribution at the aggregation point (R422): the list of the group in its table (R417), its local operation, if
it is the package's own. -/
structure Contrib where
  member : Nat
  members : List (Nat × Nat)
  own : Option Nat
  sub : Nat
  len : Nat
  data : List PByte
deriving DecidableEq, Repr

/-- A generation that is being gathered (R422): its limit, the cycle of its first contribution, the contributions. -/
structure Gather where
  limit : Nat
  since : Nat
  got : List Contrib
deriving DecidableEq, Repr

/-- The aggregation state of a group (R422): its last closed generation, and the generations that are open. -/
structure Reduction where
  closed : Word
  pending : FMap Gather
deriving DecidableEq, Repr

/-- A group before any contribution (R422). -/
def Reduction.blank : Reduction := { closed := 0#32, pending := [] }

/-- A forwarding entry (R287, R288, R386): the core and crew id that the crew had, the scratchpad base it had in 4 KiB units,
the permits held, when it expires, and where the crew went: a core and crew id, or an image in its isle. -/
structure Forward where
  uid : Nat
  oldCore : Nat
  oldCrew : Nat
  isle : Nat
  spad : Nat
  permits : List Nat
  till : Nat
  dest : Option (Nat × Nat)
  image : Option Nat
deriving DecidableEq, Repr

/-- A crew in the Saved state (R34, R258): enough to restore it under its task (R353, R380). -/
structure SavedCrew where
  uid : Nat
  isle : Nat
  task : Word
  piece : Nat
  crewId : Nat
  image : Nat
  stack : Option (Nat × Nat)
  kgo : Bool
deriving DecidableEq, Repr

/-- An access that the N4 itself makes, and that waits for the home of its line in the order of arrival (R315, R320): bytes stored for
a core; a reference dropped at its cell (R372); the cell of a task that has ended (R372, R383); a thread taken off the park list of
the cell it was parked on (R258, R369); a page-table line that a walk has read taken back from its owner (R325). -/
inductive Duty where
  | put (core : Nat) (mode : CMode) (pa n v : Nat)
  | drop (mode : CMode) (pa : Nat) (h : DWord)
  | reclaim (mode : CMode) (pa : Nat) (task : Word)
  | unlink (pa : Nat) (me : Word)
  | recall (pa : Nat)
deriving DecidableEq, Repr

/-- The line that an access of the N4 itself names. -/
def Duty.line (d : Duty) : Nat :=
  match d with
  | .put _ _ pa _ _ => pa / 128
  | .drop _ pa _ => pa / 128
  | .reclaim _ pa _ => pa / 128
  | .unlink pa _ => pa / 128
  | .recall pa => pa / 128

/-- Whether an access of the N4 itself only takes a page-table line back (R325). -/
def Duty.recalls (d : Duty) : Bool :=
  match d with
  | .recall _ => true
  | _ => false

/-! ### Tasks and isles -/

/-- A task entry (R352). -/
structure Entry where
  pc : Word
  shape : Word
  lo : Nat
  hi : Nat
  grain : Nat
  options : Nat
  argp : Nat
  cell : Nat
  decl : Nat
deriving DecidableEq, Repr

/-- The states of a task (R355). -/
inductive TaskState where
  | queued | held | resident | stopping | ended
deriving DecidableEq, Repr

/-- A handle slot of a task (R355, R371): tag and cell address, multiplicity. -/
structure Slot where
  handle : DWord
  mult : Nat
deriving DecidableEq, Repr

/-- A task and its control block (R352 to R355). `slots` are slot numbers with their contents (R355); `tcb` and
`overs` are the units of the task area it uses. -/
structure Task where
  id : Word
  isle : Nat
  die : Nat
  entry : Entry
  cell : Option Nat
  decl : BitVec 512
  pos : Nat
  state : TaskState
  stopping : Bool
  pieces : Nat
  mstat : Nat
  slots : FMap Slot
  tcb : Option Nat
  overs : List Nat
  cluster : Nat
  spawner : Nat
  joinCore : Nat
  joinUid : Nat
  parent : Word
deriving DecidableEq, Repr

/-- A resident piece and its range state (R364); the uids of its crews that have not ended, saved ones included. -/
structure Piece where
  task : Word
  cur : Nat
  hi : Nat
  crews : List Nat
deriving DecidableEq, Repr

/-- A task domain: one isle on one die (R352, R354, R356, R364). -/
structure Domain where
  serial : Nat
  nextPos : Nat
  tasks : List Task
  pieces : FMap Piece
deriving DecidableEq, Repr

/-- A domain after the isle's reset (R354). -/
def Domain.reset : Domain := { serial := 1, nextPos := 0, tasks := [], pieces := [] }

/-- A reset of an isle that is in progress (R408): started by the boot controller itself, and the isle's floor as it stood
when it began, once its crews have ended. -/
structure ResetDue where
  auto : Bool
  floor : Option Time
deriving DecidableEq, Repr

/-- An isle (R407, R332, R417, R423, R318, R426). `groups` is the scope-group table; `fabGroups` and `windows` are the
fabric group table and the remote windows as 64-bit words, 32 for each group and 4 for each window; `regions` the memory-region
table as 64-bit words, 4 for each region, and `doorbells` those of the queue pairs (R410, R415; log 94). -/
structure Isle where
  clus : BitVec 96
  mems : List DWord
  ptroot : DWord
  tarea : DWord
  segtmpl : DWord
  eccUnc : Word
  eccCor : Word
  inReset : Bool
  resetDue : Option ResetDue
  resets : BitVec 8
  groups : FMap (BitVec 384)
  redtimeout : Word
  mts : FMap Time
  floorSent : Time
  stackSlots : List (Nat × Nat)
  areaUsed : List Nat
  fabGroups : FMap DWord
  windows : FMap DWord
  regions : FMap DWord
  doorbells : FMap DWord
  nonce : BitVec 256
  request : Bool
deriving DecidableEq, Repr

/-- An isle after package reset (R407, R332, R423). -/
def Isle.reset : Isle :=
  { clus := 0#96, mems := List.replicate 4 0#64, ptroot := 0, tarea := 0, segtmpl := 0, eccUnc := 0, eccCor := 0,
    inReset := false, resetDue := none, resets := 0, groups := [], redtimeout := 0x04000000#32, mts := [], floorSent := 0#24,
    stackSlots := [], areaUsed := [], fabGroups := [], windows := [], regions := [], doorbells := [], nonce := 0, request := false }

/-- An attestation report (R413): nonce, measurements and security counter as they stood when it was signed. -/
structure Report where
  nonce : BitVec 256
  measure : FMap (BitVec 384)
  secCount : Nat
deriving DecidableEq, Repr

/-- A queue pair of the front ports (R415): the isle that the firmware has assigned it to, and the cores that it names. -/
structure QueuePair where
  isle : Option Nat
  cores : BitVec 384
deriving DecidableEq, Repr

/-- A queue pair that is assigned to no isle. -/
def QueuePair.blank : QueuePair := { isle := none, cores := 0#384 }

/-- The boot controller, the firmware window and the package's ports (R405, R408, R411 to R413, R424, R425). `imageBase` is
where the booted payload lies, which entry words are relative to (R412). `portIsle` is the isle that each storage port is
assigned to (R416), `queuePairs` are the front ports' (R415). -/
structure Board where
  rom : Memory
  flash : Memory
  keyDigest : FMap (BitVec 384)
  revoked : BitVec 4
  secCount : Nat
  measure : FMap (BitVec 384)
  bootStatus : FMap Nat
  mailbox : FMap Word
  imageBase : Nat
  core0Entry : Word
  machineErrors : List (Nat × Word)
  reports : List Nat
  reportsDone : FMap Report
  sharedUnc : Word
  sharedCor : Word
  portsDown : BitVec 8
  throttle : Nat
  pkgId : Nat
  portIsle : FMap Nat
  queuePairs : FMap QueuePair
deriving DecidableEq, Repr

/-- The board at package reset (log 9). -/
def Board.reset : Board :=
  { rom := [], flash := [], keyDigest := [], revoked := 0#4, secCount := 0, measure := [], bootStatus := [],
    mailbox := [], imageBase := 0, core0Entry := 0, machineErrors := [], reports := [], reportsDone := [],
    sharedUnc := 0, sharedCor := 0, portsDown := 0#8, throttle := 0, pkgId := 0, portIsle := [], queuePairs := [] }

/-! ### The machine -/

/-- Who executes now: nobody, a gang (core, crew slot, tids in ascending order, gsize), or a beacon lane. -/
inductive Acting where
  | none
  | gang (core slot : Nat) (tids : List Nat) (gsize : Nat)
  | lane (core : Nat)
deriving DecidableEq, Repr

/-- A write of a control register that takes effect from the next cycle (R245): the core it was made on, the thread that made
it (its slot, its crew's uid and its tid) or the beacon lane, the register and the value. -/
structure CtlWrite where
  core : Nat
  thread : Option (Nat × Nat × Nat)
  num : Nat
  val : DWord
deriving DecidableEq, Repr

/-- The acts of a cycle: a core's picker issues, a thread's hint is decoded, a beacon lane issues, an event comes
about, the clocks and limits of the cycle, a memory operation, a push, a core's matrix unit or a line's home goes as far as it can, a stage
of the end of the cycle (R196, R264). -/
inductive Act where
  | gang (core : Nat)
  | hint (core slot tid : Nat)
  | lane (core : Nat)
  | event (i : Instr)
  | clock
  | memory (op : Nat)
  | push (id : Nat)
  | matrix (core : Nat)
  | line (n : Nat)
  | tick (stage : Nat)
deriving DecidableEq, Repr

/-- The N4 package. `agenda`, `timing`, `acting` and `nextId` are the model's own (log 5). -/
structure State where
  cycle : Nat
  agenda : List Act
  timing : List (List Instr)
  acting : Acting
  nextId : Nat
  cores : FMap Core
  clusters : FMap Cluster
  isles : FMap Isle
  domains : FMap Domain
  mem : Memory
  poison : List Nat
  lines : FMap HomeLine
  filters : FMap Word
  ops : List MemOp
  copies : List Copy
  pushes : List Push
  fabs : List FabOp
  reductions : FMap Reduction
  forwards : FMap Forward
  saved : List SavedCrew
  parks : FMap (List Word)
  ctlWrites : List CtlWrite
  duties : List Duty
  board : Board
deriving DecidableEq, Repr

/-- The package right after package reset (R411): every beacon lane in M mode at word 0 of the boot ROM, no crew
resident, no isle configured. Cores, clusters, isles and domains that no entry lists are at their reset values. -/
def State.reset : State :=
  { cycle := 0, agenda := [], timing := [], acting := .none, nextId := 1, cores := [], clusters := [], isles := [],
    domains := [], mem := [], poison := [], lines := [], filters := [], ops := [], copies := [], pushes := [],
    fabs := [], reductions := [], forwards := [], saved := [], parks := [], ctlWrites := [], duties := [], board := Board.reset }

end Sys2Proof.Machine
end

