-- ==== Sys2Proof/Machine/Access.lean ====
section
/-! DEFINITION. Access to the parts of the state by name: cores, crews, threads, clusters, isles, domains, operations. -/

namespace Sys2Proof.Machine

/-- What a meaning answers. -/
abbrev Out := Host.Outcome State Fault Refusal

/-- Core `k`; one that is not listed is at its reset value. -/
def State.core (s : State) (k : Nat) : Core := FMap.get Core.reset s.cores k

/-- Core `k` replaced by `f` of it. -/
def State.onCore (s : State) (k : Nat) (f : Core → Core) : State := { s with cores := s.cores.put k (f (s.core k)) }

/-- ctl.cycle of a core (R246). -/
def State.coreCycle (s : State) (k : Nat) : Nat := s.cycle - (s.core k).born

/-- The crew in a slot. -/
def State.crew (s : State) (k slot : Nat) : Option Crew := (s.core k).crews.find slot

/-- The crew in a slot replaced by `f` of it; a free slot stays so. -/
def State.onCrew (s : State) (k slot : Nat) (f : Crew → Crew) : State :=
  s.onCore k (fun c => { c with crews := c.crews.modify slot f })

/-- A thread of a resident crew. -/
def State.thread (s : State) (k slot tid : Nat) : Option Thread := (s.crew k slot).bind (fun w => w.threads.find tid)

/-- A thread replaced by `f` of it. -/
def State.onThread (s : State) (k slot tid : Nat) (f : Thread → Thread) : State :=
  s.onCrew k slot (fun w => { w with threads := w.threads.modify tid f })

/-- The beacon lane of core `k` replaced by `f` of it. -/
def State.onLane (s : State) (k : Nat) (f : Lane → Lane) : State := s.onCore k (fun c => { c with lane := f c.lane })

/-- Cluster `n`. -/
def State.cluster (s : State) (n : Nat) : Cluster := FMap.get Cluster.reset s.clusters n

/-- Cluster `n` replaced by `f` of it. -/
def State.onCluster (s : State) (n : Nat) (f : Cluster → Cluster) : State :=
  { s with clusters := s.clusters.put n (f (s.cluster n)) }

/-- Isle `n`. -/
def State.isle (s : State) (n : Nat) : Isle := FMap.get Isle.reset s.isles n

/-- Isle `n` replaced by `f` of it. -/
def State.onIsle (s : State) (n : Nat) (f : Isle → Isle) : State := { s with isles := s.isles.put n (f (s.isle n)) }

/-- The cluster of a core (R268). -/
def clusterOf (core : Nat) : Nat := core / 4

/-- The die of a core (R19). -/
def dieOfCore (core : Nat) : Nat := core / 192

/-- The key of a task domain (R352). -/
def domainKey (isle die : Nat) : Nat := 2 * isle + die

/-- A task domain. -/
def State.domain (s : State) (isle die : Nat) : Domain := FMap.get Domain.reset s.domains (domainKey isle die)

/-- A task domain replaced by `f` of it. -/
def State.onDomain (s : State) (isle die : Nat) (f : Domain → Domain) : State :=
  { s with domains := s.domains.put (domainKey isle die) (f (s.domain isle die)) }

/-- The isle that owns a cluster (R407). -/
def State.isleOfCluster (s : State) (n : Nat) : Option Nat :=
  (List.range Config.isles).find? (fun i => bit (s.isle i).clus.toNat n)

/-- The isle that owns a core. -/
def State.isleOfCore (s : State) (core : Nat) : Option Nat := s.isleOfCluster (clusterOf core)

/-- The number of an isle as a field: 0 where the core belongs to none. -/
def State.isleNo (s : State) (core : Nat) : Nat := (s.isleOfCore core).getD 0

/-- The clusters of an isle. -/
def State.isleClusters (s : State) (i : Nat) : List Nat :=
  (List.range Config.clusters).filter (fun n => bit (s.isle i).clus.toNat n)

/-- The cores of a cluster. -/
def coresOf (cluster : Nat) : List Nat := [4 * cluster, 4 * cluster + 1, 4 * cluster + 2, 4 * cluster + 3]

/-- The cores of an isle. -/
def State.isleCores (s : State) (i : Nat) : List Nat := ((s.isleClusters i).map coresOf).flatten

/-- Whether a physical address lies in a memory range (R407). -/
def inRange (m : DWord) (pa : Nat) : Bool :=
  let x := m.toNat
  let base := bits x 47 30 * 2 ^ 30
  bit x 63 && decide (base ≤ pa) && decide (pa < base + bits x 17 0 * 2 ^ 30)

/-- Whether a physical address lies in an isle's memory partition (R312). -/
def State.inPartition (s : State) (i pa : Nat) : Bool := (s.isle i).mems.any (fun m => inRange m pa)

/-- The isle that owns a physical address. -/
def State.isleOfMem (s : State) (pa : Nat) : Option Nat := (List.range Config.isles).find? (fun i => s.inPartition i pa)

/-- The next operation, crew or piece number, and the state after it is taken. -/
def State.fresh (s : State) : Nat × State := (s.nextId, { s with nextId := s.nextId + 1 })

/-- A crew id (R172). -/
def crewId (core slot : Nat) : Nat := 32 * core + slot

/-- The index word of a thread (R248). -/
def indexWord (core slot tid : Nat) : Word := BitVec.ofNat 32 (crewId core slot * 1024 + tid)

/-- An operation in flight. -/
def State.op (s : State) (id : Nat) : Option MemOp := s.ops.find? (fun o => o.id = id)

/-- An operation replaced by `f` of it. -/
def State.onOp (s : State) (id : Nat) (f : MemOp → MemOp) : State :=
  { s with ops := s.ops.map (fun o => if o.id = id then f o else o) }

/-- An operation that is over. -/
def State.dropOp (s : State) (id : Nat) : State := { s with ops := s.ops.filter (fun o => o.id != id) }

/-- The core's context for a thread of a crew. -/
def State.hasThread (s : State) (core slot uid tid : Nat) : Option Thread :=
  match s.crew core slot with
  | some w => if w.uid = uid then w.threads.find tid else none
  | none => none

/-- Change a thread if its crew is still the one of that uid. -/
def State.onUid (s : State) (core slot uid tid : Nat) (f : Thread → Thread) : State :=
  match s.crew core slot with
  | some w => if w.uid = uid then s.onThread core slot tid f else s
  | none => s

/-- Whether an operation is still in flight: a memory operation, a copy, a push, a fabric or a matrix operation. -/
def State.inFlight (s : State) (id : Nat) : Bool :=
  s.ops.any (fun o => decide (o.id = id)) || s.copies.any (fun o => decide (o.id = id)) ||
    s.pushes.any (fun o => decide (o.id = id)) || s.fabs.any (fun o => decide (o.id = id)) ||
    s.cores.any (fun c => c.2.matQ.any (fun o => decide (o.id = id)) || c.2.matWait.any (fun o => decide (o.id = id)))

/-- Offset of the element of index `n` along some dimensions, the first the fastest (R293). -/
def walkOffset (f : Dim → Int) : List Dim → Nat → Int
  | [], _ => 0
  | d :: l, n => f d * ((n % d.ext : Nat) : Int) + walkOffset f l (n / d.ext)

/-- The number of elements of a walk (R293). -/
def walkCount (l : List Dim) : Nat := l.foldl (fun n d => n * d.ext) 1

/-- Bytes of an element of a copy (R292). -/
def Copy.bytes (c : Copy) : Nat := 2 ^ c.esz

/-- Elements of a copy. -/
def Copy.count (c : Copy) : Nat := walkCount c.dims

/-- Where element `n` of a copy is read, and where it is written (R293). -/
def Copy.srcAt (c : Copy) (n : Nat) : Int := c.sbase + walkOffset (fun d => d.ss) c.dims n
def Copy.dstAt (c : Copy) (n : Nat) : Int := c.dbase + walkOffset (fun d => d.ds) c.dims n

/-- The physical address of a virtual one under some translations. -/
def paUnder (pages : List Tlb) (va : Nat) : Nat :=
  match pages.find? (fun t => decide (t.vbase ≤ va) && decide (va < t.vbase + 2 ^ t.bits)) with
  | some t => t.pbase + (va - t.vbase)
  | none => 0

/-- The physical address, or scratchpad offset, of element `n` on either side. -/
def Copy.srcPa (c : Copy) (n : Nat) : Nat :=
  if c.ssp = 1 then (c.srcAt n).toNat else paUnder c.spages (wrap 48 (c.srcAt n))
def Copy.dstPa (c : Copy) (n : Nat) : Nat :=
  if c.dsp = 1 then (c.dstAt n).toNat else paUnder c.dpages (wrap 48 (c.dstAt n))

/-- Whether a copy that is no multicast writes bytes that an access touches; an access with a page is of physical memory. -/
def Copy.writes (c : Copy) (pad : Bool) (addr n : Nat) : Bool :=
  !c.mcast && decide (pad = (c.dsp = 1)) && (List.range c.count).any (fun k => overlap (c.dstPa k) c.bytes addr n)

/-- Where a multicast writes in the scratchpad of its own cluster (R303): where the receivers have accepted it, and before that where the
permit that it will meet lies. -/
def State.padBases (s : State) (c : Copy) : List Nat :=
  c.recv.filterMap (fun r =>
    match r.2 with
    | .accepted cl base none => if cl = clusterOf c.core then some base else none
    | .waiting =>
      if r.1 = clusterOf c.core then some (256 * (FMap.get Permit.blank (s.cluster r.1).permits c.permit).base) else none
    | _ => none)

/-- Whether a copy writes bytes that an access touches: the writes of a multicast are its thread's stores too (R297, R346). -/
def State.copyWrites (s : State) (c : Copy) (pad : Bool) (addr n : Nat) : Bool :=
  if c.mcast then
    pad && (s.padBases c).any (fun b => (List.range c.count).any (fun k => overlap ((b : Int) + c.dstAt k).toNat c.bytes addr n))
  else c.writes pad addr n

/-- Whether a copy has still to be read to its end: it holds a load-queue entry, or will. -/
def Copy.unread (c : Copy) : Bool :=
  match c.stage with
  | .spilled _ => true
  | .queued => true
  | .running => true
  | _ => false

/-- Whether a copy reads bytes that an access touches. -/
def Copy.reads (c : Copy) (pad : Bool) (addr n : Nat) : Bool :=
  decide (pad = (c.ssp = 1)) && (List.range c.count).any (fun k => overlap (c.srcPa k) c.bytes addr n)

end Sys2Proof.Machine
end

