-- ==== Sys2Proof/Machine/Mem.lean ====
section
/-! DEFINITION. Memory: home slices and the lines they keep, the caches' copies, poison, logical time, and reads and
writes performed at a home (R305 to R324). Engines, walkers and beacon lanes use the reads and writes of this file, each
of which is one act; the accesses of threads are performed step by step in Coherence. -/

namespace Sys2Proof.Machine

/-- The home die of a physical address (R307). -/
def dieOfPa (pa : Nat) : Nat := if pa < 0x003000000000 then 0 else 1

/-- The home slice of a physical address on its die (R307). -/
def sliceOfPa (pa : Nat) : Nat :=
  16 * ((pa / 2048) % 3) +
    (((bits pa 14 11) ^^^ (bits pa 18 15)) ^^^ ((bits pa 22 19) ^^^ (bits pa 26 23)))

/-- The home slice numbered over the package. -/
def homeSlice (pa : Nat) : Nat := 48 * dieOfPa pa + sliceOfPa pa

/-- The bank of a physical address (R307). -/
def bankOfPa (pa : Nat) : Nat := bits pa 10 7

/-- The first address above the package's HBM (R307). -/
def hbmEnd : Nat := 0x006000000000

/-- The set of a line in an L1 (R271). -/
def l1Set (line : Nat) : Nat := line % 256

/-! ### Logical time (R316 to R319) -/

/-- A core's pts moved forward (R316). -/
def State.advance (s : State) (core : Nat) (t : Time) : State :=
  s.onCore core (fun c => { c with pts := Time.max c.pts t })

/-- The isle's floor: the oldest pts among its powered cores (R319). -/
def State.floor (s : State) (i : Nat) : Time :=
  let cores := ((s.isleClusters i).filter (fun n => (s.cluster n).powered)).map coresOf |>.flatten
  match cores with
  | [] => 0#24
  | c :: l => l.foldl (fun f k => if Time.before (s.core k).pts f then (s.core k).pts else f) (s.core c).pts

/-- A timestamp that is not before the floor (R319). -/
def atFloor (f t : Time) : Time := if Time.before t f then f else t

/-- The mts of a slice for an isle, after R319. -/
def State.mts (s : State) (i slice : Nat) : Time := atFloor (s.floor i) (FMap.get 0#24 (s.isle i).mts slice)

/-! ### Copies in the L1s -/

/-- The copy of a line in a cluster's L1. -/
def State.copyOf (s : State) (cl line : Nat) : Option L1Line := (s.cluster cl).l1.find line

/-- A copy replaced, or gone. -/
def State.setCopy (s : State) (cl line : Nat) (x : Option L1Line) : State :=
  s.onCluster cl (fun c => { c with l1 := match x with | some v => c.l1.put line v | none => c.l1.del line })

/-- The key of the filter of a cluster's set at a slice (R313). -/
def filterKey (cl set slice : Nat) : Nat := (cl * 256 + set) * 96 + slice

/-- The two bits of a line in a filter (R313). -/
def hashMask (line : Nat) : Nat := (2 ^ ((Config.hashBits line).1 % 32)) ||| (2 ^ ((Config.hashBits line).2 % 32))

/-- The filter of a cluster's set at the home of a line. -/
def State.filterAt (s : State) (cl line : Nat) : Word :=
  FMap.get 0#32 s.filters (filterKey cl (l1Set line) (homeSlice (128 * line)))

/-- Whether a cluster matches a line: its filter names it (R313, R315). -/
def State.matchesLine (s : State) (cl line : Nat) : Bool :=
  let f := s.filterAt cl line
  if f = 0#32 then false else decide (f.toNat &&& hashMask line = hashMask line)

/-- The bits of a line set in the filter of a cluster (R313). -/
def State.addFilter (s : State) (cl line : Nat) : State :=
  let k := filterKey cl (l1Set line) (homeSlice (128 * line))
  { s with filters := s.filters.put k (FMap.get 0#32 s.filters k ||| BitVec.ofNat 32 (hashMask line)) }

/-- Whether a copy is of a directory-tracked line. -/
def L1Line.tracked (x : L1Line) : Bool :=
  match x.st with
  | .leased => false
  | _ => true

/-- Whether a copy is its cluster's own, in M or E (R314). -/
def L1Line.owned (x : L1Line) : Bool := decide (x.st = .m) || decide (x.st = .e)

/-- The lines of a cluster's set that are homed at a slice. -/
def State.setLines (s : State) (cl set slice : Nat) : List Nat :=
  ((s.cluster cl).l1.filter (fun x => decide (l1Set x.1 = set) && decide (homeSlice (128 * x.1) = slice))).map Prod.fst

/-- The filter that a cluster sends for a set: the bits of the tracked lines it holds (R313). Bits of grants whose
acknowledgement is outstanding stay set. -/
def State.refilter (s : State) (cl set slice : Nat) : State :=
  let held := (s.setLines cl set slice).filter (fun n => ((s.copyOf cl n).map L1Line.tracked).getD false)
  let due := (s.ops.filter (fun o => decide (clusterOf o.core = cl) && o.reply.isSome &&
    decide (l1Set (lineOf o.addr) = set) && decide (homeSlice o.addr = slice))).map (fun o => lineOf o.addr)
  let f := (held ++ due).foldl (fun (x : Nat) n => x ||| hashMask n) 0
  let k := filterKey cl set slice
  { s with filters := if f = 0 then s.filters.del k else s.filters.put k (BitVec.ofNat 32 f) }

/-- The new filter sent when a line has left a set. -/
def State.refilterLine (s : State) (cl line : Nat) : State := s.refilter cl (l1Set line) (homeSlice (128 * line))

/-! ### Bytes and poison -/

/-- Granule poison of a line of memory, as four bits (R324). -/
def State.linePoison (s : State) (line : Nat) : Nat :=
  b2n (s.poison.contains (4 * line)) + 2 * b2n (s.poison.contains (4 * line + 1)) +
    4 * b2n (s.poison.contains (4 * line + 2)) + 8 * b2n (s.poison.contains (4 * line + 3))

/-- The granule poison of a line of memory replaced. -/
def State.setLinePoison (s : State) (line p : Nat) : State :=
  let q := (List.range 4).foldl
    (fun l i => if bit p i then insertKey (4 * line + i) l else eraseKey (4 * line + i) l) s.poison
  { s with poison := q }

/-- The poison of a line after a write of `n` bytes at offset `o`: a granule written whole is clean (R324). `bad` are the
granules that the write itself poisons. -/
def poisonAfter (p o n bad : Nat) : Nat :=
  (List.range 4).foldl (fun q i =>
    let whole := decide (o ≤ 32 * i) && decide (32 * i + 32 ≤ o + n)
    putBit q i (bit bad i || (bit p i && !whole))) p

/-- The granules of a line that `n` bytes at offset `o` touch. -/
def granulesOf (o n : Nat) : Nat := (List.range 4).foldl (fun q i => q + b2n (overlap o n (32 * i) 32) * 2 ^ i) 0

/-- `n` bytes of a line's data replaced. -/
def putData (d o n v : Nat) : Nat := putBits d (8 * o) (8 * n) v

/-- `n` bytes of a line's data. -/
def getData (d o n : Nat) : Nat := (d >>> (8 * o)) % 2 ^ (8 * n)

/-- A line's data in memory, as its home's L2 or HBM holds it. -/
def State.lineData (s : State) (line : Nat) : Nat := s.mem.readNat (128 * line) 128

/-- A line's data in memory replaced. -/
def State.setLineData (s : State) (line v : Nat) : State := { s with mem := s.mem.writeNat (128 * line) 128 v }

/-- The L1 copy that owns a line (R313): its owner's, in M or E; while ownership is on its way there is none. -/
def State.ownerCopy (s : State) (line : Nat) : Option (Nat × L1Line) :=
  match (s.lines.find line).bind (fun h => h.owner) with
  | some a =>
    match s.copyOf a line with
    | some x => if x.owned then some (a, x) else none
    | none => none
  | none => none

/-- The current data of a line: its owner's, else memory's. -/
def State.current (s : State) (line : Nat) : Nat :=
  match s.ownerCopy line with
  | some (_, x) => x.data
  | none => s.lineData line

/-- The current poison of a line. -/
def State.currentPoison (s : State) (line : Nat) : Nat :=
  match s.ownerCopy line with
  | some (_, x) => x.poison
  | none => s.linePoison line

/-- `n` bytes within one line, as they stand now. -/
def State.peekNat (s : State) (pa n : Nat) : Nat :=
  match s.ownerCopy (lineOf pa) with
  | some (_, x) => getData x.data (pa % 128) n
  | none => s.mem.readNat pa n

/-- Whether any of `n` bytes within one line is poisoned now. -/
def State.peekPoison (s : State) (pa n : Nat) : Bool :=
  decide ((s.currentPoison (lineOf pa)) &&& granulesOf (pa % 128) n ≠ 0)

/-- Bytes over several lines, as they stand now. -/
def State.peekBytes (s : State) (pa : Nat) : Nat → List Byte
  | 0 => []
  | n + 1 => BitVec.ofNat 8 (s.peekNat pa 1) :: s.peekBytes (pa + 1) n

/-! ### Reservations (R156) -/

/-- Every reservation of a line ends. -/
def State.endRsv (s : State) (line : Nat) : State :=
  let hit (r : Option Rsv) : Option Rsv :=
    match r with
    | some x => if lineOf x.addr = line then none else r
    | none => none
  let s1 := { s with cores := s.cores.mapVal (fun _ c =>
      { c with lane := { c.lane with rsv := hit c.lane.rsv },
               crews := c.crews.mapVal (fun _ w =>
                 { w with threads := w.threads.mapVal (fun _ t => { t with rsv := hit t.rsv }) }) }) }
  { s1 with ops := s1.ops.map (fun o =>
      match o.kind with
      | .stx => if lineOf o.addr = line then { o with cmp := 0 } else o
      | _ => o) }

/-- Reservations of the threads of a cluster on a line end: the line has left its L1 (R156). -/
def State.endClusterRsv (s : State) (cl line : Nat) : State :=
  let hit (r : Option Rsv) : Option Rsv :=
    match r with
    | some x => if lineOf x.addr = line then none else r
    | none => none
  let s1 := { s with cores := s.cores.mapVal (fun k c =>
      if clusterOf k = cl then
        { c with crews := c.crews.mapVal (fun _ w =>
                   { w with threads := w.threads.mapVal (fun _ t => { t with rsv := hit t.rsv }) }) }
      else c) }
  { s1 with ops := s1.ops.map (fun o =>
      match o.kind with
      | .stx => if clusterOf o.core = cl && decide (lineOf o.addr = line) then { o with cmp := 0 } else o
      | _ => o) }

/-- Whether a thread of a cluster holds a reservation of a line, itself or through an stx on its way. -/
def State.reservedIn (s : State) (cl line : Nat) : Bool :=
  (s.cores.any (fun x => decide (clusterOf x.1 = cl) && x.2.crews.any (fun w => w.2.threads.any (fun t =>
      match t.2.rsv with
      | some r => decide (lineOf r.addr = line)
      | none => false)))) ||
    s.ops.any (fun o =>
      match o.kind with
      | .stx => decide (clusterOf o.core = cl) && decide (lineOf o.addr = line) && decide (o.cmp ≠ 0)
      | _ => false)

/-! ### Home lines -/

/-- A line as its home keeps it when it is filled (R308, R318). -/
def State.newHome (s : State) (line : Nat) (m : CMode) : HomeLine :=
  let t := match m with
    | .selfInv =>
      match s.isleOfMem (128 * line) with
      | some i => s.mts i (homeSlice (128 * line))
      | none => 0#24
    | _ => 0#24
  { mode := m, demote := false, owner := none, wts := t, rts := t, pins := 0, recalling := none, invals := [] }

/-- A home line changed. -/
def State.onHome (s : State) (line : Nat) (f : HomeLine → HomeLine) : State :=
  { s with lines := s.lines.modify line f }

/-- Whether an operation reads only. -/
def OpKind.loads (k : OpKind) : Bool :=
  match k with
  | .ld _ => true
  | .ldx => true
  | .ldAcq => true
  | _ => false

/-- Answers on their way that satisfy `p` are installed in no L1: the data still serves its load, and a store asks for ownership
again (R273, R306, R315, R320, R342). -/
def State.cancelWhere (s : State) (p : MemOp → Reply → Bool) : State :=
  { s with ops := s.ops.map (fun o =>
      match o.reply with
      | some r =>
        if o.page.isSome && p o r then
          { o with reply := if o.kind.loads then some { r with kind := .none, peer := false } else none }
        else o
      | none => o) }

/-- Answers on their way to L1s that lose the line before they arrive, and those of peers that have not been registered. -/
def State.cancelReplies (s : State) (line : Nat) (keep : List Nat) : State :=
  s.cancelWhere (fun o r => decide (lineOf o.addr = line) && decide (r.kind ≠ .leased) &&
    (r.peer || !keep.contains (clusterOf o.core)))

/-- A write to a line is ordered at its home: installs of peers' copies that have not been registered are discarded (R273). -/
def State.dropPeers (s : State) (line : Nat) : State := s.cancelWhere (fun o r => decide (lineOf o.addr = line) && r.peer)

/-- Leased answers on their way to a cluster are not installed: those of one line, or all of them. -/
def State.cancelLeases (s : State) (cl : Nat) (line : Option Nat) : State :=
  s.cancelWhere (fun o r => decide (clusterOf o.core = cl) && decide (r.kind = .leased) &&
    (line.map (fun n => decide (lineOf o.addr = n))).getD true)

/-- The owner's data taken back (R314, R315): it keeps the line in S, or loses it. Ownership on its way goes back: the answer is
installed nowhere. -/
def State.flushOwner (s : State) (line : Nat) (keep : Bool) : State :=
  match s.ownerCopy line with
  | some (a, x) =>
    let s1 := (s.setLineData line x.data).setLinePoison line x.poison
    let s2 := if keep then s1.setCopy a line (some { x with st := .s })
      else ((s1.setCopy a line none).refilterLine a line).endClusterRsv a line
    s2.onHome line (fun h => { h with owner := none, recalling := none })
  | none =>
    match s.lines.find line with
    | some h =>
      if h.owner.isSome then (s.cancelReplies line []).onHome line (fun h => { h with owner := none, recalling := none })
      else s
    | none => s

/-- Every S copy of a line outside `keep` invalidated (R315). -/
def State.dropShared (s : State) (line : Nat) (keep : List Nat) : State :=
  ((FMap.keys s.clusters).filter (fun a => !keep.contains a &&
      ((s.copyOf a line).map L1Line.tracked).getD false)).foldl
    (fun t a => ((t.setCopy a line none).refilterLine a line).endClusterRsv a line) (s.cancelReplies line keep)

/-- A line leaves the L2 (R308, R313, R318): an owner is recalled, every tracked copy goes (one in S too:
DESIGN CHOICE, log 117), and a leased line's rts enters the slice's mts. -/
def State.evictHome (s : State) (line : Nat) : State :=
  match s.lines.find line with
  | none => s
  | some h =>
    let s1 := (s.flushOwner line false).dropShared line []
    let s2 := match h.mode, s.isleOfMem (128 * line) with
      | .selfInv, some i =>
        let k := homeSlice (128 * line)
        s1.onIsle i (fun x => { x with mts := x.mts.put k (Time.max (FMap.get 0#24 x.mts k) h.rts) })
      | _, _ => s1
    { s2 with lines := s2.lines.del line }

/-- Whether the home of a line is busy with a request of it (R315): a recall or an invalidation round is outstanding, a request
has been taken up, ownership is on its way, or the fills of a push have not been acknowledged. -/
def State.servingOne (s : State) (line : Nat) : Bool :=
  ((s.lines.find line).map (fun h => h.recalling.isSome || !h.invals.isEmpty)).getD false ||
    s.ops.any (fun o => o.page.isSome && decide (lineOf o.addr = line) &&
      (o.held || (o.reply.map (fun r => decide (r.kind = .e) || decide (r.kind = .m))).getD false)) ||
    s.pushes.any (fun p => p.merged && !p.recv.isEmpty && decide (lineOf p.addr = line))

/-- Whether an access that the N4 itself makes waits for the home of a line (R315). -/
def State.dutyAt (s : State) (line : Nat) : Bool := s.duties.any (fun d => decide (d.line = line))

/-- Whether the home of a line is busy, or others wait for it that came before (R315). -/
def State.serving (s : State) (line : Nat) : Bool := s.servingOne line || s.dutyAt line

/-- Whether the owner of a line holds it under a reservation, which defers a recall (R156). -/
def State.ownerReserved (s : State) (line : Nat) : Bool :=
  match s.ownerCopy line with
  | some (a, _) => s.reservedIn a line
  | none => false

/-- The lines of the L2 set of a line, if it may be full. -/
def State.l2Others (s : State) (line : Nat) : List Nat :=
  if s.lines.length < 16 then []
  else (s.lines.filter (fun x => decide (homeSlice (128 * x.1) = homeSlice (128 * line)) &&
      decide (bankOfPa (128 * x.1) = bankOfPa (128 * line)) &&
      decide (Config.l2Set x.1 % 64 = Config.l2Set line % 64))).map Prod.fst

/-- The lines of a set that may leave it: no operand fetch has pinned them (R226), no request of them is being served; a
reserved one only where no other is (R156). -/
def State.l2May (s : State) (line : Nat) : List Nat :=
  let free := (s.l2Others line).filter (fun n => ((s.lines.find n).map (fun h => decide (h.pins = 0))).getD false && !s.serving n)
  let calm := free.filter (fun n => !s.ownerReserved n)
  if calm.isEmpty then free else calm

/-- Whether a line has a way in its L2 set, or can be given one (R308). -/
def State.homeRoom (s : State) (line : Nat) : Bool :=
  (s.lines.find line).isSome || decide ((s.l2Others line).length < 16) || !(s.l2May line).isEmpty

/-- Room for a line in its L2 set, which has sixteen ways (R308). -/
def State.makeRoom (s : State) (line : Nat) : State :=
  let may := s.l2May line
  if (s.l2Others line).length < 16 || may.isEmpty then s
  else s.evictHome (may.getD (Config.freeL2Victim s.cycle line % may.length) 0)

/-- The floor of the isle that owns a line's memory, or the line's own time (R319). -/
def State.floorOr (s : State) (line : Nat) (t : Time) : Time :=
  match s.isleOfMem (128 * line) with
  | some i => s.floor i
  | none => t

/-- Whether a line's home gives its writes times: a self-invalidating line, or a demoted one (R318, R323). -/
def HomeLine.timed (h : HomeLine) : Bool := decide (h.mode = .selfInv) || h.demote

/-- Whether the writes of a line take times. -/
def State.timedLine (s : State) (line : Nat) : Bool := ((s.lines.find line).map HomeLine.timed).getD false

/-- A line that a request of another mode demotes (R323): its writes take times from then on, from the floor where it had
none. -/
def State.demoteLine (s : State) (line : Nat) : State :=
  ((s.flushOwner line false).dropShared line []).onHome line (fun x => { x with
    demote := true
    wts := if x.mode = .selfInv then x.wts else s.floorOr line x.wts
    rts := if x.mode = .selfInv then x.rts else s.floorOr line x.rts })

/-- A request that names a mode meets its line at the home (R308, R319, R323): the line is filled, where its set has a way for
it; a request of another mode demotes it; timestamps before the floor are raised. -/
def State.touchHome (s : State) (line : Nat) (m : CMode) : State :=
  match s.lines.find line with
  | none =>
    if s.homeRoom line then
      let s1 := s.makeRoom line
      { s1 with lines := s1.lines.put line (s1.newHome line m) }
    else s
  | some h =>
    let s1 := if h.mode ≠ m && !h.demote then s.demoteLine line else s
    if s1.timedLine line then
      s1.onHome line (fun x =>
        let f := s1.floorOr line x.rts
        if Time.before x.rts f then { x with wts := f, rts := f } else x)
    else s1

/-- Whether a line is handled at the bank whatever the mode (R321, R323). -/
def State.atBank (s : State) (line : Nat) (m : CMode) : Bool :=
  match m with
  | .uncached => true
  | _ => ((s.lines.find line).map (fun h => h.demote)).getD false

/-- Whether a copy that a core's L1 holds serves a read under a mode (R314, R317): a leased one until its lease ends. -/
def State.serves (s : State) (core : Nat) (m : CMode) (x : L1Line) : Bool :=
  match x.st with
  | .leased => Time.le (s.core core).pts x.rts && decide (m = .selfInv)
  | _ => decide (m ≠ .uncached)

/-- Whether bytes of a copy are poisoned. -/
def L1Line.bad (x : L1Line) (pa n : Nat) : Bool := decide (x.poison &&& granulesOf (pa % 128) n ≠ 0)

/-! ### Waiting for the home -/

/-- Whether the home of an address is serving a request of its line, or has no way for it (R308, R315): what a thread's access that one
act performs waits for before it issues. -/
def State.busyAt (s : State) (pa : Nat) : Bool := !s.homeRoom (lineOf pa) || s.serving (lineOf pa)

/-- Whether a request that names a mode, and reads or writes, makes the owner of a line give it up: to I for a write or for a
demotion. -/
def State.recallsToI (s : State) (line : Nat) (m : CMode) (wr : Bool) : Bool :=
  wr || ((s.lines.find line).map (fun h => decide (h.mode ≠ m))).getD false

/-- The recall of a line's owner begins (R315). -/
def State.startRecall (s : State) (line : Nat) (m : CMode) (wr : Bool) : State :=
  s.onHome line (fun h => { h with recalling := some (s.recallsToI line m wr, none) })

/-- What the next access of a line waits for at its home (R156, R308, R315): a way in the L2 set, the end of the request that the home is
serving, the deferred recall of a reserved line, which it starts. Nothing, when it may be performed. -/
def State.awaitFirst (s : State) (line : Nat) (m : CMode) (wr : Bool) : Option State :=
  if !s.homeRoom line || s.servingOne line then some s
  else if s.ownerReserved line then some (s.startRecall line m wr)
  else none

/-- What an access that one act performs at a home waits for: those before it as well. -/
def State.await (s : State) (line : Nat) (m : CMode) (wr : Bool) : Option State :=
  if s.dutyAt line then some s else s.awaitFirst line m wr

/-- As `await`, for several lines with their modes. -/
def State.awaitLines (s : State) (l : List (Nat × CMode)) (wr : Bool) : Option State := l.findSome? (fun x => s.await x.1 x.2 wr)

/-! ### Reads and writes performed at the home -/

/-- Bytes stored at the home (R309, R315): the merge itself, poison and reservations; `bad` are the granules that the
write poisons. -/
def State.mergeHome (s : State) (pa n v bad : Nat) : State :=
  let line := lineOf pa
  let s1 := { s with mem := s.mem.writeNat pa n v }
  let s2 := s1.setLinePoison line (poisonAfter (s.linePoison line) (pa % 128) n bad)
  (s2.endRsv line).dropPeers line

/-- Whether the guard band holds a write of time `n` (R320). -/
def State.guardHolds (s : State) (i : Nat) (n : Time) : Bool := decide (2 ^ 22 ≤ (n - s.floor i).toNat)

/-- A cluster has acquired: what it takes from a peer is no older than this (R339, R342). -/
def State.noteAcquire (s : State) (cl : Nat) : State := s.onCluster cl (fun c => { c with acquired := s.nextId })

/-- The leased copies of a cluster invalidated, and those on their way not installed: by a sweep (R320), or by an acquire that
takes no value from a leased line (R342). -/
def State.dropLeased (s : State) (cl : Nat) : State :=
  ((s.onCluster cl (fun c => { c with l1 := c.l1.keep L1Line.tracked })).noteAcquire cl).cancelLeases cl none

/-- An acquire that has taken its value from a leased line: no other leased copy of the cluster that is older than its home stays,
whatever its lease. R342 moves pts to the value's time alone, which is before that of a write that the value publishes by way of a line
that is not leased; R339 forbids what such a copy would show (DESIGN CHOICE, log 110). -/
def State.dropStale (s : State) (cl line : Nat) : State :=
  let old (n data : Nat) : Bool := decide (n ≠ line) && decide (data ≠ s.lineData n)
  ((s.onCluster cl (fun c => { c with l1 := c.l1.keepAt (fun n x => x.tracked || !old n x.data) })).noteAcquire cl).cancelWhere
    (fun o r => decide (clusterOf o.core = cl) && decide (r.kind = .leased) && old (lineOf o.addr) r.data)

/-- ACQUIRING at a scope (R331, R342): `leased` is the line whose value is taken, if it lies on a self-invalidating page. At .thr and
.crew nothing is to be done; at .squad the threads share an L1; wider, the leased lines that the acquirer must not read any more leave
its cluster's L1. -/
def State.acquire (s : State) (cl scope : Nat) (leased : Option Nat) : State :=
  if scope < 2 then s
  else if scope = 2 then s.noteAcquire cl
  else
    match leased with
    | some line => s.dropStale cl line
    | none => s.dropLeased cl

/-- One cluster swept for a write of time `n` (R320). -/
def State.sweepCluster (s : State) (cl : Nat) (n : Time) : State :=
  let s1 := s.dropLeased cl
  (coresOf cl).foldl (fun t k => t.advance k (n - BitVec.ofNat 24 (2 ^ 21))) s1

/-- The clusters that a sweep for time `n` reaches (R320). -/
def State.sweepSet (s : State) (i : Nat) (n : Time) : List Nat :=
  (s.isleClusters i).filter (fun cl => (s.cluster cl).powered &&
    (coresOf cl).any (fun k => decide (2 ^ 21 ≤ (n - (s.core k).pts).toNat)))

/-- The new time of a write at a leased line (R318). -/
def State.writeTime (s : State) (core line : Nat) : Time :=
  match s.lines.find line with
  | some h => Time.max (s.core core).pts (h.rts + 1#24)
  | none => (s.core core).pts

/-- Whether an access at its home raises a line to the floor (R319). -/
def State.raises (s : State) (line : Nat) : Bool :=
  match s.lines.find line with
  | some h => h.timed && Time.before h.rts (s.floorOr line h.rts)
  | none => false

/-- The time of a write whose access has just raised its line (R318, R319): one past the floor, or the writer's own pts as R394 counts
it (DESIGN CHOICE, log 107); any other write takes the time of R318. -/
def State.timeAfter (s : State) (raised : Bool) (core line : Nat) : Time :=
  if raised && Config.freeRaised s.cycle line then (s.core core).pts else s.writeTime core line

/-- A leased line takes the time of a write, and its writer's pts follows (R318). -/
def State.stampWrite (s : State) (core line : Nat) (n : Time) : State :=
  (s.onHome line (fun h => { h with wts := n, rts := n })).advance core n

/-- A leased line read from a core: rts may rise, and the reader's pts follows (R318); of a demoted line no lease is taken
(R323, log 84). -/
def State.stampRead (s : State) (core line lease : Nat) : State :=
  match s.lines.find line with
  | some h =>
    let p := (s.core core).pts
    let r := if h.demote then h.rts else Time.max h.rts (Time.max h.wts p + BitVec.ofNat 24 lease)
    (s.onHome line (fun x => { x with rts := r })).advance core h.wts
  | none => s

/-- An S copy of a cluster takes the line's present data (R278, R314). -/
def State.refreshCopy (s : State) (cl line : Nat) : State :=
  match s.copyOf cl line with
  | some x => s.setCopy cl line (some { x with data := s.lineData line, poison := s.linePoison line, filled := s.nextId - 1 })
  | none => s

/-- A leased copy of a cluster takes the line's present data and lease (R278, R317); an older lease that is still on its way does
not replace it (R306). -/
def State.renewCopy (s : State) (cl line : Nat) : State :=
  match s.copyOf cl line, s.lines.find line with
  | some x, some h =>
    (s.setCopy cl line (some { x with data := s.lineData line, poison := s.linePoison line, wts := h.wts, rts := h.rts,
                                      filled := s.nextId - 1 })).cancelLeases cl (some line)
  | _, _ => s.cancelLeases cl (some line)

/-- The writer's copy after a write of a leased line from a core whose time was `p` (R317): it takes the new data; one that had expired
for the core takes it from a store alone (`plain`), and leaves the set otherwise where another core of the cluster could still hit it
(R339; DESIGN CHOICE, log 110). An older lease on its way is not installed. -/
def State.renewFor (s : State) (core line : Nat) (p : Time) (plain : Bool) : State :=
  let cl := clusterOf core
  match s.copyOf cl line with
  | some x =>
    if plain || !Time.before x.rts p then s.renewCopy cl line
    else if (coresOf cl).any (fun k => decide (k ≠ core) && Time.le (s.core k).pts x.rts) then
      (s.setCopy cl line none).cancelLeases cl (some line)
    else s.cancelLeases cl (some line)
  | none => s.cancelLeases cl (some line)

/-- A write performed at the home in one act: recall, invalidation, merge, logical time with any sweep it needs.
`keep` are clusters whose S copies are refreshed; at a line whose writes take times the writer's cluster renews its copy
as R317 gives it for a store (`plain`), or for an atomic or an stx. -/
def State.writeHomeAs (s : State) (plain : Bool) (core : Nat) (m : CMode) (pa n v bad : Nat) (keep : List Nat) : State :=
  let line := lineOf pa
  let raised := s.raises line
  let s1 := ((s.touchHome line m).flushOwner line false).dropShared line keep
  if s1.timedLine line then
    let t := s1.timeAfter raised core line
    let s2 := match s1.isleOfMem pa with
      | some i => if s1.guardHolds i t then (s1.sweepSet i t).foldl (fun (u : State) cl => u.sweepCluster cl t) s1 else s1
      | none => s1
    ((s2.mergeHome pa n v bad).stampWrite core line t).renewFor core line (s1.core core).pts plain
  else
    let s2 := s1.mergeHome pa n v bad
    keep.foldl (fun (u : State) cl => u.refreshCopy cl line) s2

/-- A store performed at the home in one act. -/
def State.writeHome (s : State) (core : Nat) (m : CMode) (pa n v bad : Nat) (keep : List Nat) : State :=
  s.writeHomeAs true core m pa n v bad keep

/-- A read performed at the home in one act: the state after it, the bytes as a number, and whether they are
poisoned. -/
def State.readHome (s : State) (core : Nat) (m : CMode) (lease pa n : Nat) : State × Nat × Bool :=
  let line := lineOf pa
  let s1 := (s.touchHome line m).flushOwner line true
  let s2 := if s1.timedLine line then s1.stampRead core line lease else s1
  (s2, s2.mem.readNat pa n, decide (s2.linePoison line &&& granulesOf (pa % 128) n ≠ 0))

/-- Bytes stored at the home over several lines, in ascending address. -/
def State.storeBytes (s : State) (core : Nat) (m : CMode) (pa : Nat) : List Byte → State
  | [] => s
  | b :: bs => (s.writeHome core m pa 1 b.toNat 0 []).storeBytes core m (pa + 1) bs

/-! ### Scratchpad and accumulator memory -/

/-- `n` bytes of a cluster's scratchpad (R269). -/
def State.readSpad (s : State) (cl off n : Nat) : Nat := (s.cluster cl).spad.readNat off n

/-- Whether any word of a scratchpad range is poisoned (R270). -/
def State.spadBad (s : State) (cl off n : Nat) : Bool := (s.cluster cl).spadPoison.any (fun w => overlap (4 * w) 4 off n)

/-- `n` bytes of a cluster's scratchpad written; a word written whole is clean (R270, R324). -/
def State.writeSpad (s : State) (cl off n v : Nat) : State :=
  let clean (w : Nat) : Bool := decide (off ≤ 4 * w) && decide (4 * w + 4 ≤ off + n)
  s.onCluster cl (fun c =>
    { c with spad := c.spad.writeNat off n v, spadPoison := c.spadPoison.filter (fun w => !clean w) })

/-- The words of a scratchpad range marked as poisoned (R270). -/
def State.poisonSpad (s : State) (cl off n : Nat) : State :=
  let words := ((List.range (n / 4 + 2)).map (fun k => off / 4 + k)).filter (fun w => overlap (4 * w) 4 off n)
  s.onCluster cl (fun c => { c with spadPoison := words.foldl (fun l w => insertKey w l) c.spadPoison })

/-- `n` bytes of a core's accumulator memory (R215). -/
def State.readAcc (s : State) (core off n : Nat) : Nat := (s.core core).acc.readNat off n

/-- Whether any word of an accumulator range is poisoned. -/
def State.accBad (s : State) (core off n : Nat) : Bool := (s.core core).accPoison.any (fun w => overlap (4 * w) 4 off n)

/-- `n` bytes of a core's accumulator memory written. -/
def State.writeAcc (s : State) (core off n v : Nat) : State :=
  let clean (w : Nat) : Bool := decide (off ≤ 4 * w) && decide (4 * w + 4 ≤ off + n)
  s.onCore core (fun c =>
    { c with acc := c.acc.writeNat off n v, accPoison := c.accPoison.filter (fun w => !clean w) })

end Sys2Proof.Machine
end

