-- ==== Sys2Proof/Machine/Device.lean ====
section
/-! DEFINITION. What stands above HBM (R405 to R410, R413, R417): the isles' I/O windows, the boot ROM, the package
firmware window, the reserved ranges. Registers are 64-bit words; R406 gives the sizes of accesses. -/

namespace Sys2Proof.Machine

/-- The registers of R407, at offset 0x1000 + 8 × index of an I/O window. -/
def Isle.reg (x : Isle) (k : Nat) : Option DWord :=
  match k with
  | 0 => some (BitVec.extractLsb' 0 64 x.clus)
  | 1 => some (BitVec.setWidth 64 (BitVec.extractLsb' 64 32 x.clus))
  | 2 => x.mems[0]?
  | 3 => x.mems[1]?
  | 4 => x.mems[2]?
  | 5 => x.mems[3]?
  | 6 => some x.ptroot
  | 7 => some x.tarea
  | 8 => some x.segtmpl
  | 9 => some (x.eccUnc ++ x.eccCor)
  | 10 => some (BitVec.ofNat 64 (x.resets.toNat * 256 + b2n x.inReset))
  | _ => none

/-- A register of R407 written by the package firmware: reserved bits read zero. -/
def Isle.setReg (x : Isle) (k : Nat) (v : DWord) : Isle :=
  match k with
  | 0 => { x with clus := BitVec.extractLsb' 64 32 x.clus ++ v }
  | 1 => { x with clus := BitVec.extractLsb' 0 32 v ++ BitVec.extractLsb' 0 64 x.clus }
  | 2 => { x with mems := setAt x.mems 0 (v &&& 0x8000FFFFC003FFFF#64) }
  | 3 => { x with mems := setAt x.mems 1 (v &&& 0x8000FFFFC003FFFF#64) }
  | 4 => { x with mems := setAt x.mems 2 (v &&& 0x8000FFFFC003FFFF#64) }
  | 5 => { x with mems := setAt x.mems 3 (v &&& 0x8000FFFFC003FFFF#64) }
  | 6 => { x with ptroot := v &&& 0x0000FFFFFFFFF000#64 }
  | 7 => { x with tarea := v &&& 0xFFFFFFFFFFFFF000#64 }
  | 8 => { x with segtmpl := v &&& 0x0000FFFFFFFFFFC0#64 }
  | 9 => { x with eccUnc := hi32 v, eccCor := lo32 v }
  | _ => x

/-! ### The capability list (R409, R410) -/

/-- A capability of the list: its id, where its header stands, the lengths of its blocks in KiB, its version, and where the next
header stands in 4 KiB units. -/
structure Cap where
  id : Nat
  off : Nat
  blen : Nat
  xlen : Nat
  ver : Nat
  next : Nat
deriving DecidableEq, Repr

/-- The KiB that the registers of a basic block take (R417; R410 and R413 in the layouts of logs 19 and 94). -/
def capLeast (id : Nat) : Nat :=
  match id with
  | 1 => 68
  | 2 => 40
  | 4 => 5
  | _ => 1

/-- The capabilities `ids` in this order, the first header at `off`: each header beyond the blocks of the one before (R409). -/
def capsFrom (off : Nat) : List Nat → List Cap
  | [] => []
  | id :: rest =>
    let f := Config.capShape id
    let blen := capLeast id + f.1 % (256 - capLeast id)
    let xlen := f.2.1 % 256
    let next := if rest.isEmpty then 0 else off / 4096 + 1 + (blen + xlen + 3) / 4 + f.2.2.2 % 1024
    { id := id, off := off, blen := blen, xlen := xlen, ver := f.2.2.1 % 256, next := next } :: capsFrom (4096 * next) rest

/-- The capability list of an isle's I/O window: the ids of R410, the first header at offset 0 (R409; order: log 17). -/
def capabilities : List Cap := capsFrom 0 [1, 2, 3, 4, 5, 6]

/-- The header of a capability (R409). -/
def Cap.header (c : Cap) : DWord :=
  BitVec.ofNat 64 (c.xlen * 2 ^ 48 + c.blen * 2 ^ 40 + c.ver * 2 ^ 32 + c.next * 2 ^ 16 + c.id)

/-- The capability in whose basic block an offset lies, and the word of the block (R409). -/
def capWord (off : Nat) : Option (Nat × Nat) :=
  (capabilities.find? (fun c => decide (c.off + 0x1000 ≤ off) && decide (off < c.off + 0x1000 + 1024 * c.blen))).map (fun c =>
    (c.id, (off - (c.off + 0x1000)) / 8))

/-- The words of a report (R413): measurements, nonce, isle, security counter, signatures (layout: log 19). -/
def Report.word (r : Report) (isle k : Nat) : DWord :=
  if k < 48 then BitVec.ofNat 64 ((FMap.get 0#384 r.measure (k / 6)).toNat >>> (64 * (k % 6)))
  else if k < 52 then BitVec.ofNat 64 (r.nonce.toNat >>> (64 * (k - 48)))
  else if k = 52 then BitVec.ofNat 64 isle
  else if k = 53 then BitVec.ofNat 64 r.secCount
  else
    Config.signature isle r.nonce ((List.range 8).map (fun m => FMap.get 0#384 r.measure m)) r.secCount (k - 54)

/-- The registers of an I/O window that the spec gives. -/
inductive IoReg where
  | isle (k : Nat)
  | header (v : DWord)
  | group (k : Nat)
  | window (k : Nat)
  | doorbell (k : Nat)
  | region (k : Nat)
  | drive (port : Nat)
  | nonce (k : Nat)
  | request
  | report (k : Nat)
  | throttle
  | status (id k : Nat)
deriving DecidableEq, Repr

/-- The register that word `k` of a capability's basic block is (R410, R413, R417; what stands where: logs 19 and 94). -/
def capReg (id k : Nat) : Option IoReg :=
  match id with
  | 1 =>
    if 512 ≤ k ∧ k < 512 + 32 * 256 then some (.group (k - 512))
    else if 32 ≤ k ∧ k < 32 + 64 then some (.window (k - 32))
    else none
  | 2 => if k < 4096 then some (.doorbell k) else if k < 4096 + 1024 then some (.region (k - 4096)) else none
  | 3 => if k < 4 then some (.status 3 k) else if k < 8 then some (.drive (k - 4)) else none
  | 4 =>
    if k < 4 then some (.nonce k) else if k = 4 then some .request else if 8 ≤ k ∧ k < 520 then some (.report (k - 8)) else none
  | 5 => if k = 0 then some (.status 5 0) else if k = 1 then some .throttle else none
  | 6 => if k < 24 then some (.status 6 k) else none
  | _ => none

/-- The register at an offset of an I/O window (R407, R409). -/
def ioReg (off : Nat) : Option IoReg :=
  if 0x1000 ≤ off ∧ off < 0x1058 then some (.isle ((off - 0x1000) / 8))
  else
    match capabilities.find? (fun c => decide (c.off = off)) with
    | some c => some (.header c.header)
    | none =>
      match capWord off with
      | some (id, k) => capReg id k
      | none => none

/-- The isle that a storage port is assigned to, as its drive-assignment word gives it (R410, R416; layout: log 94). -/
def Board.driveWord (b : Board) (port : Nat) : DWord :=
  match b.portIsle.find port with
  | some i => BitVec.ofNat 64 (2 ^ 63 + i)
  | none => 0#64

/-- A word of an isle's I/O window. -/
def State.ioWord (s : State) (i off : Nat) : Option DWord :=
  let x := s.isle i
  match ioReg off with
  | some (.isle k) => x.reg k
  | some (.header v) => some v
  | some (.group k) => some (FMap.get 0#64 x.fabGroups k)
  | some (.window k) => some (FMap.get 0#64 x.windows k)
  | some (.doorbell k) => some (FMap.get 0#64 x.doorbells k)
  | some (.region k) => some (FMap.get 0#64 x.regions k)
  | some (.drive p) => some (s.board.driveWord p)
  | some (.nonce k) => some (BitVec.ofNat 64 (x.nonce.toNat >>> (64 * k)))
  | some .request => some (BitVec.ofNat 64 (b2n x.request))
  | some (.report k) => some (((s.board.reportsDone.find i).map (fun r => r.word i k)).getD 0#64)
  | some .throttle => some (BitVec.ofNat 64 s.board.throttle)
  | some (.status id k) => some (Config.freeCap i id k s.cycle)
  | none => none

/-- A word of an isle's I/O window written from S mode (R407, R410, R413, R417). Status words, headers, reports and the drive
assignment do not change. -/
def State.putIo (s : State) (i off : Nat) (v : DWord) : Option State :=
  match ioReg off with
  | some (.isle 9) => some (s.onIsle i (fun x => x.setReg 9 v))
  | some (.group k) => some (s.onIsle i (fun x => { x with fabGroups := FMap.set 0#64 x.fabGroups k v }))
  | some (.window k) => some (s.onIsle i (fun x => { x with windows := FMap.set 0#64 x.windows k v }))
  | some (.doorbell k) => some (s.onIsle i (fun x => { x with doorbells := FMap.set 0#64 x.doorbells k v }))
  | some (.region k) => some (s.onIsle i (fun x => { x with regions := FMap.set 0#64 x.regions k v }))
  | some (.nonce k) => some (s.onIsle i (fun x =>
      { x with nonce := BitVec.ofNat 256 (putBits x.nonce.toNat (64 * k) 64 v.toNat) }))
  | some .request =>
    if v = 1#64 ∧ (s.isle i).request = false then
      some { s.onIsle i (fun x => { x with request := true }) with board := { s.board with reports := s.board.reports ++ [i] } }
    else some s
  | some _ => some s
  | none => none

/-- An isle's reset begins, if none is in progress (R408). -/
def Isle.startReset (x : Isle) (auto : Bool) : Isle :=
  match x.resetDue with
  | some _ => x
  | none => { x with inReset := true, resetDue := some { auto := auto, floor := none } }

/-- The package firmware takes an isle out of reset: at once, or when the reset in progress is over. -/
def Isle.endReset (x : Isle) : Isle :=
  match x.resetDue with
  | some d => { x with resetDue := some { d with auto := true } }
  | none => { x with inReset := false }

/-- A queue pair of the front ports (R415). -/
def Board.pair (b : Board) (qp : Nat) : QueuePair := FMap.get QueuePair.blank b.queuePairs qp

/-- Word `k` of a queue pair as the firmware window shows it (log 94): its isle, then the mask of its cores. -/
def QueuePair.word (q : QueuePair) (k : Nat) : DWord :=
  match k with
  | 0 => (match q.isle with
    | some i => BitVec.ofNat 64 (2 ^ 63 + i)
    | none => 0#64)
  | 7 => 0#64
  | _ => BitVec.ofNat 64 (q.cores.toNat >>> (64 * (k - 1)))

/-- Word `k` of a queue pair written. -/
def QueuePair.setWord (q : QueuePair) (k : Nat) (v : DWord) : QueuePair :=
  match k with
  | 0 => { q with isle := if bit v.toNat 63 then some (v.toNat % 16) else none }
  | 7 => q
  | _ => { q with cores := BitVec.ofNat 384 (putBits q.cores.toNat (64 * (k - 1)) 64 v.toNat) }

/-- A word of the package firmware window (R405; what stands where: log 20). -/
def State.fwWord (s : State) (off : Nat) : Option DWord :=
  let m := Config.firmwareMap off
  match m.1 with
  | 1 => (s.isle (m.2 / 16 % 16)).reg (m.2 % 16)
  | 2 => some (BitVec.setWidth 64 (FMap.get 0#32 s.board.mailbox m.2))
  | 3 => some (BitVec.ofNat 64 (FMap.get 0 s.board.bootStatus m.2))
  | 4 => some (BitVec.ofNat 64 (b2n (s.isle (m.2 % 16)).inReset))
  | 5 => some (BitVec.setWidth 64 s.board.core0Entry)
  | 6 => some (s.board.sharedUnc ++ s.board.sharedCor)
  | 7 => some (BitVec.ofNat 64 s.board.pkgId)
  | 8 => some (BitVec.ofNat 64 s.board.secCount)
  | 9 => some (match s.board.machineErrors[m.2]? with
      | some e => BitVec.ofNat 64 (2 ^ 63 + e.1 * 2 ^ 32 + e.2.toNat)
      | none => 0#64)
  | 10 => some (BitVec.setWidth 64 s.board.revoked)
  | 11 => some (BitVec.ofNat 64 ((FMap.get 0#384 s.board.measure (m.2 / 6 % 8)).toNat >>> (64 * (m.2 % 6))))
  | 12 => some (BitVec.ofNat 64 ((FMap.get 0#384 s.board.keyDigest (m.2 / 6 % 4)).toNat >>> (64 * (m.2 % 6))))
  | 13 => some (s.board.driveWord (m.2 % 4))
  | 14 => some ((s.board.pair (m.2 / 8)).word (m.2 % 8))
  | _ => none

/-- A measurement register extended (R413). -/
def Board.extend (b : Board) (k : Nat) (data : List Byte) : Board :=
  { b with measure := b.measure.put k (Config.sha384 (leBytes 48 (FMap.get 0#384 b.measure k).toNat ++ data)) }

/-- A word of the package firmware window written in M mode (R406 to R408, R411, R412). -/
def State.putFw (s : State) (off : Nat) (v : DWord) : Option State :=
  let m := Config.firmwareMap off
  match m.1 with
  | 1 =>
    let i := m.2 / 16 % 16
    some (if (s.isle i).inReset then s.onIsle i (fun x => x.setReg (m.2 % 16) v) else s)
  | 2 => some { s with board := { s.board with mailbox := s.board.mailbox.put m.2 (lo32 v) } }
  | 3 => some s
  | 4 => some (s.onIsle (m.2 % 16) (fun x => if bit v.toNat 0 then x.startReset false else x.endReset))
  | 5 => some { s with board := { s.board with core0Entry := lo32 v } }
  | 6 => some { s with board := { s.board with sharedUnc := hi32 v, sharedCor := lo32 v } }
  | 7 => some { s with board := { s.board with pkgId := v.toNat % 4096 } }
  | 8 => some { s with board := { s.board with secCount := max s.board.secCount (min v.toNat 64) } }
  | 9 => some s
  | 10 => some { s with board := { s.board with revoked := s.board.revoked ||| BitVec.ofNat 4 v.toNat } }
  | 11 => some (if m.2 / 6 % 8 = 0 then s else { s with board := s.board.extend (m.2 / 6 % 8) (leBytes 8 v.toNat) })
  | 12 => some s
  | 13 =>
    let ports := if bit v.toNat 63 then s.board.portIsle.put (m.2 % 4) (v.toNat % 16) else s.board.portIsle.del (m.2 % 4)
    some { s with board := { s.board with portIsle := ports } }
  | 14 =>
    let q := (s.board.pair (m.2 / 8)).setWord (m.2 % 8) v
    some { s with board := { s.board with queuePairs := FMap.set QueuePair.blank s.board.queuePairs (m.2 / 8) q } }
  | _ => none

/-- The 64-bit word at a physical address above HBM; `m` in M mode (R405). Where the spec names no register it reads as a value that is
free (DESIGN CHOICE, log 10). -/
def State.devWord (s : State) (m : Bool) (pa : Nat) : DWord :=
  let free := Config.freeDevice pa s.cycle
  if pa < 0x006400000000 then (s.ioWord ((pa - hbmEnd) / 2 ^ 30) ((pa - hbmEnd) % 2 ^ 30)).getD free
  else if pa < 0x007000000000 then 0#64
  else if pa < 0x007000010000 then (if m then BitVec.ofNat 64 (s.board.rom.readNat (pa - 0x007000000000) 8) else 0#64)
  else if pa < 0x007100000000 then (if m then (s.fwWord (pa - 0x007000010000)).getD free else 0#64)
  else 0#64

/-- The 64-bit word at a physical address above HBM written; `m` in M mode (R405). A write where the spec names no register changes
nothing that the model holds (log 10). -/
def State.putWord (s : State) (m : Bool) (pa : Nat) (v : DWord) : State :=
  if pa < 0x006400000000 then (s.putIo ((pa - hbmEnd) / 2 ^ 30) ((pa - hbmEnd) % 2 ^ 30) v).getD s
  else if 0x007000010000 ≤ pa ∧ pa < 0x007100000000 ∧ m = true then (s.putFw (pa - 0x007000010000) v).getD s
  else s

/-- `n` bytes read above HBM (R406): by .d words in ascending address, narrower ones from their word. -/
def State.devRead (s : State) (m : Bool) (pa n : Nat) : Nat :=
  let words := (List.range ((pa % 8 + n + 7) / 8)).map (fun k => (s.devWord m (pa / 8 * 8 + 8 * k)).toNat)
  (words.foldr (fun x v => x + v * 2 ^ 64) 0) >>> (8 * (pa % 8)) % 2 ^ (8 * n)

/-- One .w or .d write above HBM. -/
def State.devPut (s : State) (m : Bool) (pa n v : Nat) : State :=
  s.putWord m (pa / 8 * 8) (BitVec.ofNat 64 (putBits (s.devWord m (pa / 8 * 8)).toNat (8 * (pa % 8)) (8 * n) v))

/-- The widest access of .d, .w and .b that starts at an address and has `n` bytes left. -/
def devPiece (pa n : Nat) : Nat := if pa % 8 = 0 ∧ 8 ≤ n then 8 else if pa % 4 = 0 ∧ 4 ≤ n then 4 else 1

/-- `n` bytes written above HBM (R406): .d and .w accesses in ascending address; narrower ones are ignored. The fuel is the number of
bytes. -/
def State.devWriteFrom (s : State) (m : Bool) : Nat → Nat → Nat → Nat → State
  | 0, _, _, _ => s
  | k + 1, pa, n, v =>
    let p := devPiece pa n
    let s1 := if p = 1 then s else s.devPut m pa p (v % 2 ^ (8 * p))
    if n ≤ p then s1 else s1.devWriteFrom m k (pa + p) (n - p) (v / 2 ^ (8 * p))

/-- `n` bytes written above HBM (R406): a .q as two .d in ascending address; narrow stores are ignored. -/
def State.devWrite (s : State) (m : Bool) (pa n v : Nat) : State := s.devWriteFrom m n pa n v

/-! ### Blocks that may lie above HBM (R238) -/

/-- Whether the seat that executes is a beacon lane in M mode. -/
def State.inMMode (s : State) : Bool :=
  match s.acting with
  | .lane k => decide ((s.core k).lane.mode = .m)
  | _ => false

/-- `n` bytes read at their target: a home, or what stands above HBM (R238, R405). -/
def State.readTarget (s : State) (core : Nat) (t : Tlb) (pa n : Nat) : State × Nat × Bool :=
  if hbmEnd ≤ pa then (s, s.devRead s.inMMode pa n, false) else s.readHome core t.mode t.lease pa n

/-- `n` bytes written at their target (R238, R405). -/
def State.writeTarget (s : State) (core : Nat) (t : Tlb) (pa n v : Nat) : State :=
  if hbmEnd ≤ pa then s.devWrite s.inMMode pa n v else s.writeHome core t.mode pa n v 0 []

end Sys2Proof.Machine
end

