-- ==== Sys2Proof/Machine/Float.lean ====
section
/-! DEFINITION. Number formats, exact values and rounding (R92 to R112), and the F-class results that are exact or
rounded once (R129 to R134, R137 to R141). The approximated functions are in Approx. -/

namespace Sys2Proof.Machine

/-- A float format (R92): fraction width, exponent bias, exponent width, and whether its top exponent is reserved for
infinities and NaNs (E4M3 reserves one code only). -/
structure FloatFmt where
  frac : Nat
  bias : Nat
  exp : Nat
  ieee : Bool
deriving DecidableEq, Repr

namespace FloatFmt

/-- FP32. -/
def f32 : FloatFmt := ⟨23, 127, 8, true⟩
/-- FP16. -/
def f16 : FloatFmt := ⟨10, 15, 5, true⟩
/-- BF16. -/
def bf16 : FloatFmt := ⟨7, 127, 8, true⟩
/-- FP8 E4M3. -/
def e4m3 : FloatFmt := ⟨3, 7, 4, false⟩
/-- FP8 E5M2. -/
def e5m2 : FloatFmt := ⟨2, 15, 5, true⟩

/-- Bits of a code. -/
def width (F : FloatFmt) : Nat := 1 + F.exp + F.frac

/-- The exponent of the grid's smallest step: 1 - bias - fraction width. -/
def emin (F : FloatFmt) : Int := 1 - (F.bias : Int) - (F.frac : Int)

/-- The largest magnitude code that is a finite value (R92). -/
def maxCode (F : FloatFmt) : Nat :=
  if F.ieee then (2 ^ F.exp - 1) * 2 ^ F.frac - 1 else 2 ^ (F.exp + F.frac) - 2

/-- The sign bit's weight. -/
def signBit (F : FloatFmt) : Nat := 2 ^ (F.exp + F.frac)

/-- A magnitude code in steps of 2^emin (R93). -/
def units (F : FloatFmt) (c : Nat) : Nat :=
  let e := c >>> F.frac
  if e = 0 then c else (2 ^ F.frac + c % 2 ^ F.frac) <<< (e - 1)

/-- The canonical NaN (R97). -/
def nan (F : FloatFmt) : Nat :=
  if F.ieee then (2 ^ F.exp - 1) * 2 ^ F.frac + 2 ^ (F.frac - 1) else 2 ^ (F.exp + F.frac) - 1

/-- The code of an infinity; for E4M3 its NaN with the sign (R101). -/
def inf (F : FloatFmt) (neg : Bool) : Nat :=
  (if F.ieee then (2 ^ F.exp - 1) * 2 ^ F.frac else 2 ^ (F.exp + F.frac) - 1) + (if neg then F.signBit else 0)

end FloatFmt

/-- An exact value: a NaN, an infinity, a signed zero, or a non-zero dyadic number `m * 2^e` with its sign. -/
inductive FVal where
  | nan
  | inf (neg : Bool)
  | zero (neg : Bool)
  | fin (neg : Bool) (m : Nat) (e : Int)
deriving DecidableEq, Repr

namespace FVal

/-- The value of a code (R93). -/
def decode (F : FloatFmt) (x : Nat) : FVal :=
  let neg := bit x (F.exp + F.frac)
  let c := x % 2 ^ (F.exp + F.frac)
  if c > F.maxCode then (if F.ieee ∧ c = F.maxCode + 1 then .inf neg else .nan)
  else if c = 0 then .zero neg
  else .fin neg (F.units c) F.emin

/-- A subnormal input is a zero of its sign under ftz (R102). -/
def decodeFtz (F : FloatFmt) (ftz : Bool) (x : Nat) : FVal :=
  let c := x % 2 ^ (F.exp + F.frac)
  if ftz && decide (0 < c) && decide (c < 2 ^ F.frac) then .zero (bit x (F.exp + F.frac)) else decode F x

/-- The value of an integer. -/
def ofInt (x : Int) : FVal := if x = 0 then .zero false else .fin (decide (x < 0)) x.natAbs 0

/-- The value with its sign flipped. -/
def neg : FVal → FVal
  | .nan => .nan
  | .inf s => .inf (!s)
  | .zero s => .zero (!s)
  | .fin s m e => .fin (!s) m e

/-- An exact product (R130). -/
def mul : FVal → FVal → FVal
  | .nan, _ => .nan
  | _, .nan => .nan
  | .inf _, .zero _ => .nan
  | .zero _, .inf _ => .nan
  | .inf s, .inf t => .inf (s != t)
  | .inf s, .fin t _ _ => .inf (s != t)
  | .fin s _ _, .inf t => .inf (s != t)
  | .zero s, .zero t => .zero (s != t)
  | .zero s, .fin t _ _ => .zero (s != t)
  | .fin s _ _, .zero t => .zero (s != t)
  | .fin s m e, .fin t n f => .fin (s != t) (m * n) (e + f)

/-- A finite value in steps of 2^e, for an `e` that is at most its own exponent. -/
def steps (e : Int) : FVal → Int
  | .fin s m f => let u : Int := ((m <<< (f - e).toNat : Nat) : Int); if s then -u else u
  | _ => 0

/-- The smallest exponent of the finite terms. -/
def minExp : List FVal → Int → Int
  | [], e => e
  | .fin _ _ f :: l, e => minExp l (if f < e then f else e)
  | _ :: l, e => minExp l e

/-- An exact sum; the sign of a zero follows R130, `rd` telling whether the rounding mode is RD. -/
def sum (rd : Bool) (l : List FVal) : FVal :=
  if l.any (fun v => v = .nan) then .nan
  else
    let pos := l.any (fun v => v = .inf false)
    let ngs := l.any (fun v => v = .inf true)
    if pos && ngs then .nan
    else if pos then .inf false
    else if ngs then .inf true
    else
      let e := minExp l 1024
      let t := (l.map (steps e)).foldl (· + ·) 0
      if t = 0 then
        if l.all (fun v => v = .zero true) then .zero true
        else if l.all (fun v => v = .zero false) then .zero false
        else .zero rd
      else .fin (decide (t < 0)) t.natAbs e

end FVal

/-- Whether the magnitude `n + r / 2^s` is rounded up to `n + 1`: `r` is below `2^s`, and not 0 (R99). -/
def roundUp (mode : Round) (neg : Bool) (n r s : Nat) : Bool :=
  match mode with
  | .rne => decide (2 * r > 2 ^ s) || (decide (2 * r = 2 ^ s) && decide (n % 2 = 1))
  | .rna => decide (2 * r ≥ 2 ^ s)
  | .rz => false
  | .ru => !neg
  | .rd => neg

/-- `m / 2^s` rounded to an integer (R99). -/
def roundShift (mode : Round) (neg : Bool) (m s : Nat) : Nat :=
  let n := m >>> s
  let r := m % 2 ^ s
  if r = 0 then n else if roundUp mode neg n r s then n + 1 else n

/-- A magnitude on the unbounded grid, in steps of 2^emin (R99). -/
def gridRound (F : FloatFmt) (mode : Round) (neg : Bool) (m : Nat) (e : Int) : Nat :=
  let top : Int := e + (Nat.log2 m : Int)
  let q : Int := if top - (F.frac : Int) < F.emin then F.emin else top - (F.frac : Int)
  if q ≤ e then m <<< (e - F.emin).toNat
  else (roundShift mode neg m (q - e).toNat) <<< (q - F.emin).toNat

/-- The magnitude code of a grid value in steps of 2^emin. -/
def encodeUnits (F : FloatFmt) (u : Nat) : Nat :=
  if u < 2 ^ F.frac then u
  else
    let k := Nat.log2 u - F.frac
    (k + 1) * 2 ^ F.frac + ((u >>> k) - 2 ^ F.frac)

/-- The result of an overflow (R100). -/
def overflowCode (F : FloatFmt) (mode : Round) (sat neg : Bool) : Nat :=
  let fin := F.maxCode + (if neg then F.signBit else 0)
  if sat then fin
  else
    match mode with
    | .rne => F.inf neg
    | .rna => F.inf neg
    | .rz => fin
    | .ru => if neg then fin else F.inf false
    | .rd => if neg then F.inf true else fin

/-- RoundFloat, encoded (R99 to R102). -/
def roundFloat (F : FloatFmt) (mode : Round) (sat : Bool) : FVal → Nat
  | .nan => F.nan
  | .inf neg => if sat then F.maxCode + (if neg then F.signBit else 0) else F.inf neg
  | .zero neg => if neg then F.signBit else 0
  | .fin neg m e =>
    let u := gridRound F mode neg m e
    if u > F.units F.maxCode then overflowCode F mode sat neg
    else encodeUnits F u + (if neg then F.signBit else 0)

/-- A finite value rounded to an integer (R104 step 1). -/
def roundInt (mode : Round) (neg : Bool) (m : Nat) (e : Int) : Int :=
  let n := if 0 ≤ e then m <<< e.toNat else roundShift mode neg m (-e).toNat
  if neg then -(n : Int) else (n : Int)

/-- RoundToInt for a target's range (R104). -/
def roundToRange (mode : Round) (lo hi : Int) : FVal → Int
  | .nan => 0
  | .inf neg => if neg then lo else hi
  | .zero _ => 0
  | .fin neg m e => clampInt (roundInt mode neg m e) lo hi

/-! ### Scalar formats and cvt -/

/-- The float layout of a scalar format. -/
def fmtFloat : Fmt → Option FloatFmt
  | .f32 => some .f32
  | .f16 => some .f16
  | .bf16 => some .bf16
  | .e4m3 => some .e4m3
  | .e5m2 => some .e5m2
  | _ => none

/-- The width of a scalar format (R92). -/
def fmtWidth : Fmt → Nat
  | .f32 => 32 | .f16 => 16 | .bf16 => 16 | .e4m3 => 8 | .e5m2 => 8 | .int8 => 8 | .uint8 => 8 | .int32 => 32
  | .uint32 => 32 | .int64 => 64 | .uint64 => 64

/-- Whether an integer format is signed (R103). -/
def fmtSigned : Fmt → Bool
  | .int8 => true | .int32 => true | .int64 => true | _ => false

/-- The least value of an integer format (R103). -/
def fmtMin (t : Fmt) : Int := if fmtSigned t then -((2 ^ (fmtWidth t - 1) : Nat) : Int) else 0

/-- The greatest value of an integer format (R103). -/
def fmtMax (t : Fmt) : Int :=
  if fmtSigned t then ((2 ^ (fmtWidth t - 1) - 1 : Nat) : Int) else ((2 ^ fmtWidth t - 1 : Nat) : Int)

/-- An integer format's value of a pattern (R111). -/
def fmtInt (f : Fmt) (x : Nat) : Int :=
  if fmtSigned f then signed (fmtWidth f) x else ((x % 2 ^ fmtWidth f : Nat) : Int)

/-- cvt (R111): the result pattern, zero-extended. -/
def cvtValue (t f : Fmt) (mode : Round) (sat ftz : Bool) (x : Nat) : Nat :=
  match fmtFloat t, fmtFloat f with
  | some T, some F => roundFloat T mode sat (FVal.decodeFtz F ftz x)
  | some T, none => roundFloat T mode sat (FVal.ofInt (fmtInt f x))
  | none, some F => wrap (fmtWidth t) (roundToRange mode (fmtMin t) (fmtMax t) (FVal.decodeFtz F ftz x))
  | none, none =>
    let v := fmtInt f x
    wrap (fmtWidth t) (if sat then clampInt v (fmtMin t) (fmtMax t) else v)

/-! ### FP32 results -/

/-- An FP32 operand with ftz applied (R102). -/
def fp32 (ftz : Bool) (x : Word) : FVal := FVal.decodeFtz .f32 ftz x.toNat

/-- An FP32 result (R131). -/
def toFp32 (mode : Round) (sat : Bool) (v : FVal) : Word := BitVec.ofNat 32 (roundFloat .f32 mode sat v)

/-- Whether a rounding mode is RD, which decides the sign of a zero sum (R130). -/
def isRd : Round → Bool
  | .rd => true
  | _ => false

namespace Fpu

/-- fadd (R131). -/
def fadd (mode : Round) (sat ftz : Bool) (a b : Word) : Word :=
  toFp32 mode sat (FVal.sum (isRd mode) [fp32 ftz a, fp32 ftz b])
/-- fsub (R131). -/
def fsub (mode : Round) (sat ftz : Bool) (a b : Word) : Word :=
  toFp32 mode sat (FVal.sum (isRd mode) [fp32 ftz a, (fp32 ftz b).neg])
/-- fmul (R131). -/
def fmul (mode : Round) (sat ftz : Bool) (a b : Word) : Word :=
  toFp32 mode sat ((fp32 ftz a).mul (fp32 ftz b))
/-- ffma (R131); `d` is the addend. -/
def ffma (mode : Round) (sat ftz : Bool) (d a b : Word) : Word :=
  toFp32 mode sat (FVal.sum (isRd mode) [(fp32 ftz a).mul (fp32 ftz b), fp32 ftz d])

/-- The pattern of an FP32 input after ftz (R129). -/
def flush (ftz : Bool) (x : Word) : Word :=
  if ftz && decide (x.toNat % 2 ^ 31 < 2 ^ 23) then x &&& 0x80000000#32 else x

/-- Whether a pattern is a NaN. -/
def isNan (x : Word) : Bool := decide (x.toNat % 2 ^ 31 > 0x7F800000)

/-- Where a pattern that is no NaN stands in the order of FP32 values, with -0 below +0 (R132). -/
def rank (x : Word) : Int := if bit x.toNat 31 then -((x.toNat % 2 ^ 31 : Nat) : Int) - 1 else (x.toNat : Int)

/-- fmin (R132). -/
def fmin (ftz : Bool) (a b : Word) : Word :=
  let x := flush ftz a
  let y := flush ftz b
  if isNan x && isNan y then 0x7FC00000#32
  else if isNan x then y else if isNan y then x
  else if rank y < rank x then y else x

/-- fmax (R132). -/
def fmax (ftz : Bool) (a b : Word) : Word :=
  let x := flush ftz a
  let y := flush ftz b
  if isNan x && isNan y then 0x7FC00000#32
  else if isNan x then y else if isNan y then x
  else if rank x < rank y then y else x

/-- fneg (R133). -/
def fneg (a : Word) : Word := a ^^^ 0x80000000#32

/-- fclass (R133). -/
def fclass (a : Word) : Word :=
  let neg := bit a.toNat 31
  let c := a.toNat % 2 ^ 31
  let i : Nat :=
    if c > 0x7F800000 then (if bit c 22 then 9 else 8)
    else if c = 0x7F800000 then (if neg then 0 else 7)
    else if c ≥ 0x00800000 then (if neg then 1 else 6)
    else if c = 0 then (if neg then 3 else 4)
    else (if neg then 2 else 5)
  BitVec.ofNat 32 (2 ^ i)

/-- The relations of fcmp (R134). -/
inductive FRel where
  | eq | ne | lt | le | unord
deriving DecidableEq, Repr

/-- -0 is as +0 in a comparison (R134). -/
def eqRank (x : Word) : Int := if x.toNat % 2 ^ 31 = 0 then 0 else rank x

/-- fcmp (R134). -/
def fcmp (r : FRel) (ftz : Bool) (a b : Word) : Word :=
  let x := flush ftz a
  let y := flush ftz b
  let un := isNan x || isNan y
  b2w (match r with
    | .eq => !un && decide (eqRank x = eqRank y)
    | .ne => un || decide (eqRank x ≠ eqRank y)
    | .lt => !un && decide (eqRank x < eqRank y)
    | .le => !un && decide (eqRank x ≤ eqRank y)
    | .unord => un)

/-- fint (R137): `mode` is RD for floor, RU for ceil, RZ for trunc, RNE for round. -/
def fint (mode : Round) (ftz : Bool) (a : Word) : Word :=
  let x := flush ftz a
  match FVal.decode .f32 x.toNat with
  | .nan => 0x7FC00000#32
  | .inf _ => x
  | .zero _ => x
  | .fin neg m e =>
    let n := roundInt mode neg m e
    if n = 0 then (if neg then 0x80000000#32 else 0#32) else toFp32 .rz false (FVal.ofInt n)

/-- The integer square root: the bits of `r` from bit `k` - 1 down. -/
def isqrtAux (n : Nat) : Nat → Nat → Nat
  | 0, r => r
  | k + 1, r => isqrtAux n k (if (r + 2 ^ k) * (r + 2 ^ k) ≤ n then r + 2 ^ k else r)

/-- The square root of a positive dyadic value, with one further bit that tells whether it is inexact; enough bits
for every rounding mode to be exact. -/
def sqrtVal (m : Nat) (e : Int) : FVal :=
  let odd := e % 2 ≠ 0
  let m1 := (if odd then 2 * m else m) <<< 64
  let e1 : Int := (if odd then e - 1 else e) - 64
  let r := isqrtAux m1 176 0
  .fin false (2 * r + (if r * r = m1 then 0 else 1)) (e1 / 2 - 1)

/-- fsqrt (R136). -/
def fsqrt (mode : Round) (sat ftz : Bool) (a : Word) : Word :=
  match fp32 ftz a with
  | .nan => 0x7FC00000#32
  | .inf neg => if neg then 0x7FC00000#32 else toFp32 mode sat (.inf false)
  | .zero neg => toFp32 mode sat (.zero neg)
  | .fin neg m e => if neg then 0x7FC00000#32 else toFp32 mode sat (sqrtVal m e)

/-- The two halves of a packed result (R138). -/
def packed (f : Nat → Nat) : Word := BitVec.ofNat 32 (f 0 + f 1 * 2 ^ 16)

/-- Element `i` of a packed operand (R138). -/
def element (F : FloatFmt) (ftz : Bool) (x : Word) (i : Nat) : FVal := FVal.decodeFtz F ftz (x.toNat >>> (16 * i))

/-- padd (R138). -/
def padd (F : FloatFmt) (mode : Round) (sat ftz : Bool) (a b : Word) : Word :=
  packed (fun i => roundFloat F mode sat (FVal.sum (isRd mode) [element F ftz a i, element F ftz b i]))
/-- pmul (R138). -/
def pmul (F : FloatFmt) (mode : Round) (sat ftz : Bool) (a b : Word) : Word :=
  packed (fun i => roundFloat F mode sat ((element F ftz a i).mul (element F ftz b i)))
/-- pfma (R138); `d` is the addend. -/
def pfma (F : FloatFmt) (mode : Round) (sat ftz : Bool) (d a b : Word) : Word :=
  packed (fun i =>
    roundFloat F mode sat (FVal.sum (isRd mode) [(element F ftz a i).mul (element F ftz b i), element F ftz d i]))

/-- f8dot4 (R140); `d` is the addend. -/
def f8dot4 (F : FloatFmt) (mode : Round) (sat ftz : Bool) (d a b : Word) : Word :=
  let p (i : Nat) : FVal :=
    (FVal.decodeFtz F ftz (a.toNat >>> (8 * i))).mul (FVal.decodeFtz F ftz (b.toNat >>> (8 * i)))
  toFp32 mode sat (FVal.sum (isRd mode) [fp32 ftz d, p 0, p 1, p 2, p 3])

end Fpu

/-! ### The four-bit family -/

/-- Eight times the value of a four-bit code (R107). -/
def code8 (type c : Nat) : Int :=
  match type with
  | 0 => 8 * signed 4 c
  | 1 =>
    let m : Int := [0, 4, 8, 12, 16, 24, 32, 48].getD (c % 8) 0
    if bit c 3 then -m else m
  | 2 =>
    let m : Int := [0, 1, 2, 4, 8, 16, 32, 64].getD (c % 8) 0
    if bit c 3 then -m else m
  | _ =>
    if bit c 3 then
      let m : Int := [4, 12, 32, 48].getD (c % 4) 0
      if bit c 2 then -m else m
    else 8 * signed 3 (c % 8)

/-- Whether a code is -0 (R107). -/
def codeNegZero (type c : Nat) : Bool := (decide (type = 1) || decide (type = 2)) && decide (c = 8)

/-- The exact value of a code with its scale byte (R106, R107). -/
def codeValue (scale c : Nat) : FVal :=
  let v := code8 (bits scale 7 6) c
  if v = 0 then .zero (codeNegZero (bits scale 7 6) c)
  else .fin (decide (v < 0)) v.natAbs ((bits scale 5 0 : Int) - 34)

/-- The least code of the codes 0 to 15 that has the value `v8` / 8 (R108). -/
def codeOf (type : Nat) (v8 : Int) : Nat := ((List.range 16).find? (fun c => code8 type c = v8)).getD 0

/-- The greatest of a list that is at most `x`, each multiplied by `k`; `lo` when none is. -/
def gridBelow (x : Int) (k : Nat) (l : List Int) (lo : Int) : Int :=
  l.foldl (fun best v => if v * k ≤ x ∧ best < v then v else best) lo

/-- The least of a list that is at least `x`, each multiplied by `k`; `hi` when none is. -/
def gridAbove (x : Int) (k : Nat) (l : List Int) (hi : Int) : Int :=
  l.foldl (fun best v => if v * k ≥ x ∧ v < best then v else best) hi

/-- The code of the value chosen on a type's grid for `x` / (8 `k`) (R108). -/
def gridCode (type : Nat) (mode : Round) (x : Int) (k : Nat) : Nat :=
  let grid := (List.range 16).map (code8 type)
  let hiMax := grid.foldl max 0
  let loMin := grid.foldl min 0
  let lo := gridBelow x k grid loMin
  let hi := gridAbove x k grid hiMax
  let small := if lo.natAbs ≤ hi.natAbs then lo else hi
  let large := if lo.natAbs ≤ hi.natAbs then hi else lo
  let chosen : Int :=
    if x ≤ loMin * k then loMin
    else if hiMax * k ≤ x then hiMax
    else if lo * k = x then lo
    else
      match mode with
      | .rz => small
      | .ru => hi
      | .rd => lo
      | .rna => if x - lo * k < hi * k - x then lo else if hi * k - x < x - lo * k then hi else large
      | .rne =>
        if x - lo * k < hi * k - x then lo
        else if hi * k - x < x - lo * k then hi
        else
          let cl := codeOf type lo % 2 = 0
          let ch := codeOf type hi % 2 = 0
          if cl ∧ ¬ch then lo else if ch ∧ ¬cl then hi else small
  if chosen = 0 then (if (decide (type = 1) || decide (type = 2)) && decide (x < 0) then 8 else 0)
  else codeOf type chosen

/-- QEncode (R108). -/
def qencode (scale : Nat) (mode : Round) : FVal → Nat
  | .nan => 0
  | .inf neg =>
    let type := bits scale 7 6
    let grid := (List.range 16).map (code8 type)
    codeOf type (if neg then grid.foldl min 0 else grid.foldl max 0)
  | .zero neg =>
    let type := bits scale 7 6
    if (decide (type = 1) || decide (type = 2)) && neg then 8 else 0
  | .fin neg m e =>
    let f : Int := e - ((bits scale 5 0 : Int) - 31) + 3
    let s : Int := if neg then -1 else 1
    if 0 ≤ f then gridCode (bits scale 7 6) mode (s * ((m <<< f.toNat : Nat) : Int)) 1
    else gridCode (bits scale 7 6) mode (s * (m : Int)) (2 ^ (-f).toNat)

namespace Fpu

/-- qpack (R141). -/
def qpack (mode : Round) (ftz : Bool) (a b : Word) : Word :=
  BitVec.ofNat 32 (qencode (bits b.toNat 7 0) mode (fp32 ftz a) <<< (4 * bits b.toNat 10 8))

/-- qunpack (R141). -/
def qunpack (a b : Word) : Word :=
  let n := bits b.toNat 10 8
  toFp32 .rne false (codeValue (bits b.toNat 7 0) (bits a.toNat (4 * n + 3) (4 * n)))

end Fpu

end Sys2Proof.Machine
end

