-- ==== Sys2Proof/WellFormed.lean ====
section
/-! DEFINITION. Which instructions are well-formed: the operand kinds of R40 and R235, flag kinds of R41, selector
ranges of R63 to R68, and what the beacon lane executes (R236). -/

namespace Sys2Proof

/-- The operand kinds of R40. -/
inductive Kind where
  | ws | wd | ps | pd | q
deriving DecidableEq, Repr

/-- An operand field of an instruction: its kind, its code, whether it is read and whether it is written. -/
structure OpndUse where
  kind : Kind
  code : Opnd
  reads : Bool
  writes : Bool
deriving DecidableEq, Repr

/-- Whether a scalar format is a 64-bit one (R63). -/
def Fmt.wide : Fmt → Bool
  | .int64 => true
  | .uint64 => true
  | _ => false

/-- The operand kind of a loaded value (R65). -/
def LdSize.kind : LdSize → Kind
  | .d => .pd
  | .q => .q
  | _ => .wd

/-- The operand kind of stored data (R65). -/
def StSize.kind : StSize → Kind
  | .d => .ps
  | .q => .q
  | _ => .ws

/-- The operand kind of ldx and stx (R65). -/
def XSize.kind : XSize → Kind
  | .w => .wd
  | .d => .pd

/-- The code of the register v0 to v31 that a core form of a push names (R67). -/
def coreReg (k : BitVec 5) : Opnd := BitVec.setWidth 7 k

/-- The code of the address pair that a pair index names (R67). -/
def pairReg (n : BitVec 5) : Opnd := BitVec.ofNat 7 (2 * n.toNat)

/-- Codes that a thread's operand field of a kind accepts (R40). -/
def Kind.threadOk (k : Kind) (c : Opnd) : Bool :=
  let n := c.toNat
  match k with
  | .ws => decide (n < 112)
  | .wd => decide (n < 96) || decide (n = 109)
  | .ps => (decide (n < 104) || decide (n = 104)) && decide (n % 2 = 0)
  | .pd => decide (n < 96) && decide (n % 2 = 0)
  | .q => decide (n < 96) && decide (n % 4 = 0)

/-- Codes that a beacon lane's operand field of a kind accepts (R235). -/
def Kind.laneOk (k : Kind) (c : Opnd) : Bool :=
  let n := c.toNat
  match k with
  | .ws => decide (n < 32) || (decide (104 ≤ n) && decide (n < 112))
  | .wd => decide (n < 32) || decide (n = 109)
  | .ps => decide (n < 32) || decide (n = 104)
  | .pd => decide (n < 32)
  | .q => decide (n < 32) && decide (n % 4 = 0)

/-- Flag codes of kind any (R41). -/
def flagOk (f : BitVec 4) : Bool := decide (f.toNat < 12) || decide (f.toNat = 15)

/-- Segments of ldx and stx (R65). -/
def xSeg (s : BitVec 3) : Bool := decide (s = 0#3) || decide (s = 3#3) || decide (s = 6#3)

/-- Segments of pf (R65). -/
def pfSeg (s : BitVec 3) : Bool :=
  decide (s = 0#3) || decide (s = 3#3) || decide (s = 4#3) || decide (s = 5#3) || decide (s = 6#3)

namespace Instr

/-- The operand fields of an instruction, with their kinds (R61 to R68). -/
def opnds : Instr → List OpndUse
  | .add _ d a b => [⟨.wd, d, false, true⟩, ⟨.ws, a, true, false⟩, ⟨.ws, b, true, false⟩]
  | .sub _ d a b => [⟨.wd, d, false, true⟩, ⟨.ws, a, true, false⟩, ⟨.ws, b, true, false⟩]
  | .add64 _ d a b => [⟨.pd, d, false, true⟩, ⟨.ps, a, true, false⟩, ⟨.ps, b, true, false⟩]
  | .sub64 _ d a b => [⟨.pd, d, false, true⟩, ⟨.ps, a, true, false⟩, ⟨.ps, b, true, false⟩]
  | .mul _ d a b => [⟨.wd, d, false, true⟩, ⟨.ws, a, true, false⟩, ⟨.ws, b, true, false⟩]
  | .mulhiS _ d a b => [⟨.wd, d, false, true⟩, ⟨.ws, a, true, false⟩, ⟨.ws, b, true, false⟩]
  | .mulhiU _ d a b => [⟨.wd, d, false, true⟩, ⟨.ws, a, true, false⟩, ⟨.ws, b, true, false⟩]
  | .mad _ d a b => [⟨.wd, d, true, true⟩, ⟨.ws, a, true, false⟩, ⟨.ws, b, true, false⟩]
  | .mad64 _ d a b => [⟨.pd, d, true, true⟩, ⟨.ws, a, true, false⟩, ⟨.ws, b, true, false⟩]
  | .divu _ d a b => [⟨.wd, d, false, true⟩, ⟨.ws, a, true, false⟩, ⟨.ws, b, true, false⟩]
  | .divs _ d a b => [⟨.wd, d, false, true⟩, ⟨.ws, a, true, false⟩, ⟨.ws, b, true, false⟩]
  | .remu _ d a b => [⟨.wd, d, false, true⟩, ⟨.ws, a, true, false⟩, ⟨.ws, b, true, false⟩]
  | .rems _ d a b => [⟨.wd, d, false, true⟩, ⟨.ws, a, true, false⟩, ⟨.ws, b, true, false⟩]
  | .shl _ d a b => [⟨.wd, d, false, true⟩, ⟨.ws, a, true, false⟩, ⟨.ws, b, true, false⟩]
  | .shr _ d a b => [⟨.wd, d, false, true⟩, ⟨.ws, a, true, false⟩, ⟨.ws, b, true, false⟩]
  | .sra _ d a b => [⟨.wd, d, false, true⟩, ⟨.ws, a, true, false⟩, ⟨.ws, b, true, false⟩]
  | .rotl _ d a b => [⟨.wd, d, false, true⟩, ⟨.ws, a, true, false⟩, ⟨.ws, b, true, false⟩]
  | .shl64 _ d a b => [⟨.pd, d, false, true⟩, ⟨.ps, a, true, false⟩, ⟨.ws, b, true, false⟩]
  | .shr64 _ d a b => [⟨.pd, d, false, true⟩, ⟨.ps, a, true, false⟩, ⟨.ws, b, true, false⟩]
  | .sra64 _ d a b => [⟨.pd, d, false, true⟩, ⟨.ps, a, true, false⟩, ⟨.ws, b, true, false⟩]
  | .and _ d a b => [⟨.wd, d, false, true⟩, ⟨.ws, a, true, false⟩, ⟨.ws, b, true, false⟩]
  | .or _ d a b => [⟨.wd, d, false, true⟩, ⟨.ws, a, true, false⟩, ⟨.ws, b, true, false⟩]
  | .xor _ d a b => [⟨.wd, d, false, true⟩, ⟨.ws, a, true, false⟩, ⟨.ws, b, true, false⟩]
  | .andn _ d a b => [⟨.wd, d, false, true⟩, ⟨.ws, a, true, false⟩, ⟨.ws, b, true, false⟩]
  | .orn _ d a b => [⟨.wd, d, false, true⟩, ⟨.ws, a, true, false⟩, ⟨.ws, b, true, false⟩]
  | .minS _ d a b => [⟨.wd, d, false, true⟩, ⟨.ws, a, true, false⟩, ⟨.ws, b, true, false⟩]
  | .minU _ d a b => [⟨.wd, d, false, true⟩, ⟨.ws, a, true, false⟩, ⟨.ws, b, true, false⟩]
  | .maxS _ d a b => [⟨.wd, d, false, true⟩, ⟨.ws, a, true, false⟩, ⟨.ws, b, true, false⟩]
  | .maxU _ d a b => [⟨.wd, d, false, true⟩, ⟨.ws, a, true, false⟩, ⟨.ws, b, true, false⟩]
  | .abs _ d a => [⟨.wd, d, false, true⟩, ⟨.ws, a, true, false⟩]
  | .clz _ d a => [⟨.wd, d, false, true⟩, ⟨.ws, a, true, false⟩]
  | .ctz _ d a => [⟨.wd, d, false, true⟩, ⟨.ws, a, true, false⟩]
  | .popc _ d a => [⟨.wd, d, false, true⟩, ⟨.ws, a, true, false⟩]
  | .brev _ d a => [⟨.wd, d, false, true⟩, ⟨.ws, a, true, false⟩]
  | .bfx _ d a b => [⟨.wd, d, false, true⟩, ⟨.ws, a, true, false⟩, ⟨.ws, b, true, false⟩]
  | .bfi _ d a b => [⟨.wd, d, true, true⟩, ⟨.ws, a, true, false⟩, ⟨.ws, b, true, false⟩]
  | .bmix _ d a b => [⟨.wd, d, true, true⟩, ⟨.ws, a, true, false⟩, ⟨.ws, b, true, false⟩]
  | .sel _ d a b => [⟨.wd, d, true, true⟩, ⟨.ws, a, true, false⟩, ⟨.ws, b, true, false⟩]
  | .cmpEqS _ d a b => [⟨.wd, d, false, true⟩, ⟨.ws, a, true, false⟩, ⟨.ws, b, true, false⟩]
  | .cmpNeS _ d a b => [⟨.wd, d, false, true⟩, ⟨.ws, a, true, false⟩, ⟨.ws, b, true, false⟩]
  | .cmpLtS _ d a b => [⟨.wd, d, false, true⟩, ⟨.ws, a, true, false⟩, ⟨.ws, b, true, false⟩]
  | .cmpLeS _ d a b => [⟨.wd, d, false, true⟩, ⟨.ws, a, true, false⟩, ⟨.ws, b, true, false⟩]
  | .cmpGtS _ d a b => [⟨.wd, d, false, true⟩, ⟨.ws, a, true, false⟩, ⟨.ws, b, true, false⟩]
  | .cmpGeS _ d a b => [⟨.wd, d, false, true⟩, ⟨.ws, a, true, false⟩, ⟨.ws, b, true, false⟩]
  | .cmpEqU _ d a b => [⟨.wd, d, false, true⟩, ⟨.ws, a, true, false⟩, ⟨.ws, b, true, false⟩]
  | .cmpNeU _ d a b => [⟨.wd, d, false, true⟩, ⟨.ws, a, true, false⟩, ⟨.ws, b, true, false⟩]
  | .cmpLtU _ d a b => [⟨.wd, d, false, true⟩, ⟨.ws, a, true, false⟩, ⟨.ws, b, true, false⟩]
  | .cmpLeU _ d a b => [⟨.wd, d, false, true⟩, ⟨.ws, a, true, false⟩, ⟨.ws, b, true, false⟩]
  | .cmpGtU _ d a b => [⟨.wd, d, false, true⟩, ⟨.ws, a, true, false⟩, ⟨.ws, b, true, false⟩]
  | .cmpGeU _ d a b => [⟨.wd, d, false, true⟩, ⟨.ws, a, true, false⟩, ⟨.ws, b, true, false⟩]
  | .fadd _ d a b => [⟨.wd, d, false, true⟩, ⟨.ws, a, true, false⟩, ⟨.ws, b, true, false⟩]
  | .fsub _ d a b => [⟨.wd, d, false, true⟩, ⟨.ws, a, true, false⟩, ⟨.ws, b, true, false⟩]
  | .fmul _ d a b => [⟨.wd, d, false, true⟩, ⟨.ws, a, true, false⟩, ⟨.ws, b, true, false⟩]
  | .ffma _ d a b => [⟨.wd, d, true, true⟩, ⟨.ws, a, true, false⟩, ⟨.ws, b, true, false⟩]
  | .fmin _ d a b => [⟨.wd, d, false, true⟩, ⟨.ws, a, true, false⟩, ⟨.ws, b, true, false⟩]
  | .fmax _ d a b => [⟨.wd, d, false, true⟩, ⟨.ws, a, true, false⟩, ⟨.ws, b, true, false⟩]
  | .fneg _ d a => [⟨.wd, d, false, true⟩, ⟨.ws, a, true, false⟩]
  | .fclass _ d a => [⟨.wd, d, false, true⟩, ⟨.ws, a, true, false⟩]
  | .fcmpEq _ d a b => [⟨.wd, d, false, true⟩, ⟨.ws, a, true, false⟩, ⟨.ws, b, true, false⟩]
  | .fcmpNe _ d a b => [⟨.wd, d, false, true⟩, ⟨.ws, a, true, false⟩, ⟨.ws, b, true, false⟩]
  | .fcmpLt _ d a b => [⟨.wd, d, false, true⟩, ⟨.ws, a, true, false⟩, ⟨.ws, b, true, false⟩]
  | .fcmpLe _ d a b => [⟨.wd, d, false, true⟩, ⟨.ws, a, true, false⟩, ⟨.ws, b, true, false⟩]
  | .fcmpUnord _ d a b => [⟨.wd, d, false, true⟩, ⟨.ws, a, true, false⟩, ⟨.ws, b, true, false⟩]
  | .frcp _ d a => [⟨.wd, d, false, true⟩, ⟨.ws, a, true, false⟩]
  | .frsq _ d a => [⟨.wd, d, false, true⟩, ⟨.ws, a, true, false⟩]
  | .fsqrt _ d a => [⟨.wd, d, false, true⟩, ⟨.ws, a, true, false⟩]
  | .fexp2 _ d a => [⟨.wd, d, false, true⟩, ⟨.ws, a, true, false⟩]
  | .flog2 _ d a => [⟨.wd, d, false, true⟩, ⟨.ws, a, true, false⟩]
  | .fsin _ d a => [⟨.wd, d, false, true⟩, ⟨.ws, a, true, false⟩]
  | .fcos _ d a => [⟨.wd, d, false, true⟩, ⟨.ws, a, true, false⟩]
  | .fintFloor _ d a => [⟨.wd, d, false, true⟩, ⟨.ws, a, true, false⟩]
  | .fintCeil _ d a => [⟨.wd, d, false, true⟩, ⟨.ws, a, true, false⟩]
  | .fintTrunc _ d a => [⟨.wd, d, false, true⟩, ⟨.ws, a, true, false⟩]
  | .fintRound _ d a => [⟨.wd, d, false, true⟩, ⟨.ws, a, true, false⟩]
  | .paddBf _ d a b => [⟨.wd, d, false, true⟩, ⟨.ws, a, true, false⟩, ⟨.ws, b, true, false⟩]
  | .pmulBf _ d a b => [⟨.wd, d, false, true⟩, ⟨.ws, a, true, false⟩, ⟨.ws, b, true, false⟩]
  | .pfmaBf _ d a b => [⟨.wd, d, true, true⟩, ⟨.ws, a, true, false⟩, ⟨.ws, b, true, false⟩]
  | .paddH _ d a b => [⟨.wd, d, false, true⟩, ⟨.ws, a, true, false⟩, ⟨.ws, b, true, false⟩]
  | .pmulH _ d a b => [⟨.wd, d, false, true⟩, ⟨.ws, a, true, false⟩, ⟨.ws, b, true, false⟩]
  | .pfmaH _ d a b => [⟨.wd, d, true, true⟩, ⟨.ws, a, true, false⟩, ⟨.ws, b, true, false⟩]
  | .dp4 _ d a b => [⟨.wd, d, true, true⟩, ⟨.ws, a, true, false⟩, ⟨.ws, b, true, false⟩]
  | .f8dot4E4 _ d a b => [⟨.wd, d, true, true⟩, ⟨.ws, a, true, false⟩, ⟨.ws, b, true, false⟩]
  | .f8dot4E5 _ d a b => [⟨.wd, d, true, true⟩, ⟨.ws, a, true, false⟩, ⟨.ws, b, true, false⟩]
  | .qpack _ d a b => [⟨.wd, d, false, true⟩, ⟨.ws, a, true, false⟩, ⟨.ws, b, true, false⟩]
  | .qunpack _ d a b => [⟨.wd, d, false, true⟩, ⟨.ws, a, true, false⟩, ⟨.ws, b, true, false⟩]
  | .cvt _ t f d a => [⟨if t.wide then .pd else .wd, d, false, true⟩, ⟨if f.wide then .ps else .ws, a, true, false⟩]
  | .movi _ d _ => [⟨.wd, d, false, true⟩]
  | .addi _ d a _ => [⟨.wd, d, false, true⟩, ⟨.ws, a, true, false⟩]
  | .muli _ d a _ => [⟨.wd, d, false, true⟩, ⟨.ws, a, true, false⟩]
  | .andi _ d a _ => [⟨.wd, d, false, true⟩, ⟨.ws, a, true, false⟩]
  | .ori _ d a _ => [⟨.wd, d, false, true⟩, ⟨.ws, a, true, false⟩]
  | .xori _ d a _ => [⟨.wd, d, false, true⟩, ⟨.ws, a, true, false⟩]
  | .shli _ d a _ => [⟨.wd, d, false, true⟩, ⟨.ws, a, true, false⟩]
  | .shri _ d a _ => [⟨.wd, d, false, true⟩, ⟨.ws, a, true, false⟩]
  | .srai _ d a _ => [⟨.wd, d, false, true⟩, ⟨.ws, a, true, false⟩]
  | .cmpeqi _ d a _ => [⟨.wd, d, false, true⟩, ⟨.ws, a, true, false⟩]
  | .cmpnei _ d a _ => [⟨.wd, d, false, true⟩, ⟨.ws, a, true, false⟩]
  | .cmplti _ d a _ => [⟨.wd, d, false, true⟩, ⟨.ws, a, true, false⟩]
  | .cmpltui _ d a _ => [⟨.wd, d, false, true⟩, ⟨.ws, a, true, false⟩]
  | .cmpgei _ d a _ => [⟨.wd, d, false, true⟩, ⟨.ws, a, true, false⟩]
  | .cmpgeui _ d a _ => [⟨.wd, d, false, true⟩, ⟨.ws, a, true, false⟩]
  | .ld seg _ d a size => [⟨size.kind, d, false, true⟩, ⟨if seg = 0#3 then .ps else .ws, a, true, false⟩]
  | .st seg _ d a size => [⟨size.kind, d, true, false⟩, ⟨if seg = 0#3 then .ps else .ws, a, true, false⟩]
  | .ldx seg _ d a size => [⟨size.kind, d, false, true⟩, ⟨if seg = 0#3 then .ps else .ws, a, true, false⟩]
  | .stx seg _ d a size => [⟨size.kind, d, true, true⟩, ⟨if seg = 0#3 then .ps else .ws, a, true, false⟩]
  | .pf seg a => [⟨if seg = 0#3 then .ps else .ws, a, true, false⟩]
  | .lea seg d a => [⟨.pd, d, false, true⟩, ⟨if seg = 0#3 then .ps else .ws, a, true, false⟩]
  | .segq _ d _ => [⟨.wd, d, false, true⟩]
  | .segld _ d => [⟨.q, d, true, false⟩]
  | .br _ => []
  | .bz a _ => [⟨.ws, a, true, false⟩]
  | .bnz a _ => [⟨.ws, a, true, false⟩]
  | .jmp a => [⟨.ws, a, true, false⟩]
  | .call _ => []
  | .callr a => [⟨.ws, a, true, false⟩]
  | .ret => []
  | .exit => []
  | .yield => []
  | .brk _ => []
  | .mcall _ _ _ => []
  | .mma _ p _ => [⟨.ws, p, true, false⟩]
  | .mmz _ p => [⟨.ws, p, true, false⟩]
  | .accld _ p q => [⟨.ps, p, true, false⟩, ⟨.ws, q, true, false⟩]
  | .accst _ p q => [⟨.ps, p, true, false⟩, ⟨.ws, q, true, false⟩]
  | .thdl p _ => [⟨.q, p, true, false⟩]
  | .thfree _ => []
  | .waitf _ => []
  | .pstWGroup _ p q _ => [⟨.ws, p, true, false⟩, ⟨.ps, q, true, false⟩]
  | .pstDGroup _ p q _ => [⟨.ps, p, true, false⟩, ⟨.ps, q, true, false⟩]
  | .pstQGroup _ p q _ => [⟨.q, p, true, false⟩, ⟨.ps, q, true, false⟩]
  | .ppushGroup _ q _ => [⟨.ps, q, true, false⟩]
  | .pstWCore _ p q k => [⟨.ws, p, true, false⟩, ⟨.ps, q, true, false⟩, ⟨.ws, coreReg k, true, false⟩]
  | .pstDCore _ p q k => [⟨.ps, p, true, false⟩, ⟨.ps, q, true, false⟩, ⟨.ws, coreReg k, true, false⟩]
  | .pstQCore _ p q k => [⟨.q, p, true, false⟩, ⟨.ps, q, true, false⟩, ⟨.ws, coreReg k, true, false⟩]
  | .ppushCore _ q k => [⟨.ps, q, true, false⟩, ⟨.ws, coreReg k, true, false⟩]
  | .tcopy _ p q => [⟨.ps, p, true, false⟩, ⟨.ps, q, true, false⟩]
  | .tseal p => [⟨.ws, p, true, false⟩]
  | .twait p => [⟨.ws, p, true, false⟩]
  | .cwait p q _ => [⟨.ps, p, true, false⟩, ⟨.ps, q, true, false⟩]
  | .permitArm p _ => [⟨.ps, p, true, false⟩]
  | .permitDrop _ => []
  | .fabPut _ p q => [⟨.ps, p, true, false⟩, ⟨.ps, q, true, false⟩]
  | .fabGet _ p q => [⟨.ps, p, true, false⟩, ⟨.ps, q, true, false⟩]
  | .fabAtom _ p q => [⟨.ps, p, true, false⟩, ⟨.ps, q, true, false⟩]
  | .fabRed _ p q => [⟨.ps, p, true, false⟩, ⟨.ps, q, true, false⟩]
  | .fabMcast _ p q => [⟨.ps, p, true, false⟩, ⟨.ps, q, true, false⟩]
  | .ldAcq _ p dbl pair _ => [⟨if dbl then .pd else .wd, p, false, true⟩, ⟨.ps, pairReg pair, true, false⟩]
  | .stRel _ p dbl pair _ => [⟨if dbl then .ps else .ws, p, true, false⟩, ⟨.ps, pairReg pair, true, false⟩]
  | .atomAdd _ p _ pair _ => [⟨.wd, p, true, true⟩, ⟨.ps, pairReg pair, true, false⟩]
  | .atomSub _ p _ pair _ => [⟨.wd, p, true, true⟩, ⟨.ps, pairReg pair, true, false⟩]
  | .atomMin _ p _ pair _ => [⟨.wd, p, true, true⟩, ⟨.ps, pairReg pair, true, false⟩]
  | .atomMax _ p _ pair _ => [⟨.wd, p, true, true⟩, ⟨.ps, pairReg pair, true, false⟩]
  | .atomAnd _ p _ pair _ => [⟨.wd, p, true, true⟩, ⟨.ps, pairReg pair, true, false⟩]
  | .atomOr _ p _ pair _ => [⟨.wd, p, true, true⟩, ⟨.ps, pairReg pair, true, false⟩]
  | .atomXor _ p _ pair _ => [⟨.wd, p, true, true⟩, ⟨.ps, pairReg pair, true, false⟩]
  | .atomExch _ p _ pair _ => [⟨.wd, p, true, true⟩, ⟨.ps, pairReg pair, true, false⟩]
  | .atomCas _ p _ pair _ => [⟨.pd, p, true, true⟩, ⟨.ps, pairReg pair, true, false⟩]
  | .atomFadd _ p _ pair _ => [⟨.wd, p, true, true⟩, ⟨.ps, pairReg pair, true, false⟩]
  | .atomFmin _ p _ pair _ => [⟨.wd, p, true, true⟩, ⟨.ps, pairReg pair, true, false⟩]
  | .atomFmax _ p _ pair _ => [⟨.wd, p, true, true⟩, ⟨.ps, pairReg pair, true, false⟩]
  | .atomBfadd2 _ p _ pair _ => [⟨.wd, p, true, true⟩, ⟨.ps, pairReg pair, true, false⟩]
  | .fence _ _ => []
  | .shfl _ p q _ => [⟨.wd, p, true, true⟩, ⟨.ws, q, true, false⟩]
  | .vote _ p q _ => [⟨.wd, p, false, true⟩, ⟨.ws, q, true, false⟩]
  | .scan _ p q _ => [⟨.wd, p, false, true⟩, ⟨.ws, q, true, false⟩]
  | .red _ p q _ => [⟨.wd, p, false, true⟩, ⟨.ws, q, true, false⟩]
  | .fspawn _ p q => [⟨.pd, p, false, true⟩, ⟨.ps, q, true, false⟩]
  | .fget p q _ => [⟨.pd, p, false, true⟩, ⟨.ps, q, true, false⟩]
  | .fput _ p q _ => [⟨.ps, p, true, false⟩, ⟨.ps, q, true, false⟩]
  | .fref _ q => [⟨.ps, q, true, false⟩]
  | .fdrop _ q => [⟨.ps, q, true, false⟩]
  | .fstate p q => [⟨.wd, p, false, true⟩, ⟨.ps, q, true, false⟩]
  | .tspawn _ q => [⟨.ps, q, true, false⟩]
  | .sys _ => []
  | .eret => []
  | .ctlr d _ => [⟨.wd, d, false, true⟩]
  | .ctlw a _ => [⟨.ws, a, true, false⟩]
  | .qpop d a _ => [⟨.wd, d, false, true⟩, ⟨.ws, a, true, false⟩]
  | .qret a => [⟨.ws, a, true, false⟩]
  | .kgo d a => [⟨.wd, d, false, true⟩, ⟨.ws, a, true, false⟩]
  | .mload d a => [⟨.ws, d, true, false⟩, ⟨.ps, a, true, false⟩]
  | .ipi a _ => [⟨.ws, a, true, false⟩]
  | .wfi => []
  | .preempt a => [⟨.ws, a, true, false⟩]
  | .csave d a => [⟨.ps, d, true, false⟩, ⟨.ws, a, true, false⟩]
  | .crestore d a => [⟨.ps, d, true, false⟩, ⟨.ws, a, true, false⟩]
  | .racq a => [⟨.ws, a, true, false⟩]
  | .rrel a => [⟨.ws, a, true, false⟩]
  | .barSet a _ => [⟨.ws, a, true, false⟩]
  | .barArrive _ => []
  | .barWait _ => []
  | .barSync _ => []
  | .rmset d a _ => [⟨.wd, d, true, true⟩, ⟨.ws, a, true, false⟩]
  | .rjarrive _ => []
  | .rjwait _ => []
  | .rjdrop _ => []
  | .cvset d a _ => [⟨.wd, d, true, true⟩, ⟨.ws, a, true, false⟩]
  | .scgset a _ => [⟨.ps, a, true, false⟩]
  | .tlbinv a _ => [⟨.ps, a, true, false⟩]
  | .atp d a => [⟨.pd, d, false, true⟩, ⟨.ps, a, true, false⟩]
  | .tdecl a => [⟨.ps, a, true, false⟩]
  | .rnext d => [⟨.pd, d, false, true⟩]
  | .tend => []
  | .tmove d a => [⟨.ws, d, true, false⟩, ⟨.ws, a, true, false⟩]
  | .fpoint => []
  | .fguard => []
  | .fend => []
  | .sched _ _ _ _ _ _ _ => []
  | .imm _ => []
  | .live _ _ => []
  | .livescratch _ _ => []
  | .mod _ _ _ _ => []
  | .fmt _ => []
  | .illegalWord _ => []
  | .loadDataReturn _ _ => []
  | .storePerformed _ => []
  | .pageWalk _ _ => []
  | .deferredMachineTrap _ _ _ => []
  | .trapRecordMade _ _ _ => []
  | .spillRecordReturn _ => []
  | .heldTrapRecord _ => []
  | .watchdogExpiry _ _ _ => []
  | .preemptGraceExpiry _ _ => []
  | .crewReadyToSave _ _ => []
  | .racqGrant _ => []
  | .joinPatienceExpiry _ _ _ => []
  | .mmaEnterQueue _ => []
  | .mmaOperandArrival _ => []
  | .mmaKstep _ => []
  | .mmaOperandFault _ => []
  | .mmzExecute _ => []
  | .accldExecute _ => []
  | .accstExecute _ => []
  | .copyStart _ => []
  | .copyLineRead _ => []
  | .copyLineWrite _ => []
  | .spillSlotReadback _ => []
  | .copyComplete _ => []
  | .multicastDelivery _ _ => []
  | .cwaitWake _ _ _ => []
  | .pushMergeAtHome _ => []
  | .pushFill _ _ => []
  | .pushComplete _ => []
  | .quotaWindowStart _ => []
  | .forwardEntryExpiry _ => []
  | .permitForwardExpiry _ _ => []
  | .peerProbe _ _ => []
  | .peerForwardRegistration _ => []
  | .readRequest _ => []
  | .ownershipRequest _ => []
  | .homeWrite _ => []
  | .writeback _ _ => []
  | .dataReply _ => []
  | .invalidate _ _ => []
  | .recallLine _ _ => []
  | .setRecall _ _ _ => []
  | .filterAck _ _ _ => []
  | .atomicApply _ => []
  | .leaseRead _ => []
  | .leaseWrite _ => []
  | .heldWriteRelease _ => []
  | .sweep _ _ => []
  | .ptsTick _ => []
  | .floorDelivery _ => []
  | .tlbinvComplete _ => []
  | .timerCompare _ => []
  | .interruptEntry _ => []
  | .wfiWake _ => []
  | .sliceExpiry _ _ => []
  | .debugFreezeComplete _ _ => []
  | .exitRetire _ _ _ => []
  | .piecePlacement _ => []
  | .pieceAging _ => []
  | .askForWork _ => []
  | .crewMove _ _ => []
  | .packageReset => []
  | .isleReset _ => []
  | .attestationReportReady => []
  | .fabricSourceRead _ => []
  | .fabricRemoteRequest _ => []
  | .fabricComplete _ _ => []
  | .reductionContribution _ => []
  | .reductionTimeout _ => []
  | .fabricUnreachable _ => []
  | .rdmaPeerAccess _ => []
  | .rdmaWorkCompletion _ _ => []
  | .nvmeDma _ => []
  | .nvmeCompletion _ _ => []
  | .eccCorrected _ => []
  | .eccUncorrectable _ => []
  | .thermalThrottle => []
  | .clusterPowerDown _ => []
  | .recallDeferralExpiry _ _ => []
  | .clusterPowerUp _ => []
  | .fabricPortDown _ => []

/-- The flag and selector fields are in range (R41, R59, R63, R65, R67, R68). -/
def selectorsOk : Instr → Bool
  | .add _ _ _ _ => true
  | .sub _ _ _ _ => true
  | .add64 _ _ _ _ => true
  | .sub64 _ _ _ _ => true
  | .mul _ _ _ _ => true
  | .mulhiS _ _ _ _ => true
  | .mulhiU _ _ _ _ => true
  | .mad _ _ _ _ => true
  | .mad64 _ _ _ _ => true
  | .divu _ _ _ _ => true
  | .divs _ _ _ _ => true
  | .remu _ _ _ _ => true
  | .rems _ _ _ _ => true
  | .shl _ _ _ _ => true
  | .shr _ _ _ _ => true
  | .sra _ _ _ _ => true
  | .rotl _ _ _ _ => true
  | .shl64 _ _ _ _ => true
  | .shr64 _ _ _ _ => true
  | .sra64 _ _ _ _ => true
  | .and _ _ _ _ => true
  | .or _ _ _ _ => true
  | .xor _ _ _ _ => true
  | .andn _ _ _ _ => true
  | .orn _ _ _ _ => true
  | .minS _ _ _ _ => true
  | .minU _ _ _ _ => true
  | .maxS _ _ _ _ => true
  | .maxU _ _ _ _ => true
  | .abs _ _ _ => true
  | .clz _ _ _ => true
  | .ctz _ _ _ => true
  | .popc _ _ _ => true
  | .brev _ _ _ => true
  | .bfx _ _ _ _ => true
  | .bfi _ _ _ _ => true
  | .bmix _ _ _ _ => true
  | .sel _ _ _ _ => true
  | .cmpEqS _ _ _ _ => true
  | .cmpNeS _ _ _ _ => true
  | .cmpLtS _ _ _ _ => true
  | .cmpLeS _ _ _ _ => true
  | .cmpGtS _ _ _ _ => true
  | .cmpGeS _ _ _ _ => true
  | .cmpEqU _ _ _ _ => true
  | .cmpNeU _ _ _ _ => true
  | .cmpLtU _ _ _ _ => true
  | .cmpLeU _ _ _ _ => true
  | .cmpGtU _ _ _ _ => true
  | .cmpGeU _ _ _ _ => true
  | .fadd _ _ _ _ => true
  | .fsub _ _ _ _ => true
  | .fmul _ _ _ _ => true
  | .ffma _ _ _ _ => true
  | .fmin _ _ _ _ => true
  | .fmax _ _ _ _ => true
  | .fneg _ _ _ => true
  | .fclass _ _ _ => true
  | .fcmpEq _ _ _ _ => true
  | .fcmpNe _ _ _ _ => true
  | .fcmpLt _ _ _ _ => true
  | .fcmpLe _ _ _ _ => true
  | .fcmpUnord _ _ _ _ => true
  | .frcp _ _ _ => true
  | .frsq _ _ _ => true
  | .fsqrt _ _ _ => true
  | .fexp2 _ _ _ => true
  | .flog2 _ _ _ => true
  | .fsin _ _ _ => true
  | .fcos _ _ _ => true
  | .fintFloor _ _ _ => true
  | .fintCeil _ _ _ => true
  | .fintTrunc _ _ _ => true
  | .fintRound _ _ _ => true
  | .paddBf _ _ _ _ => true
  | .pmulBf _ _ _ _ => true
  | .pfmaBf _ _ _ _ => true
  | .paddH _ _ _ _ => true
  | .pmulH _ _ _ _ => true
  | .pfmaH _ _ _ _ => true
  | .dp4 _ _ _ _ => true
  | .f8dot4E4 _ _ _ _ => true
  | .f8dot4E5 _ _ _ _ => true
  | .qpack _ _ _ _ => true
  | .qunpack _ _ _ _ => true
  | .cvt _ t f _ _ => decide (t ≠ f)
  | .movi _ _ _ => true
  | .addi _ _ _ _ => true
  | .muli _ _ _ _ => true
  | .andi _ _ _ _ => true
  | .ori _ _ _ _ => true
  | .xori _ _ _ _ => true
  | .shli _ _ _ _ => true
  | .shri _ _ _ _ => true
  | .srai _ _ _ _ => true
  | .cmpeqi _ _ _ _ => true
  | .cmpnei _ _ _ _ => true
  | .cmplti _ _ _ _ => true
  | .cmpltui _ _ _ _ => true
  | .cmpgei _ _ _ _ => true
  | .cmpgeui _ _ _ _ => true
  | .ld _ flag _ _ _ => flagOk flag
  | .st _ flag _ _ _ => flagOk flag
  | .ldx seg flag _ _ _ => flagOk flag && xSeg seg
  | .stx seg flag _ _ _ => flagOk flag && xSeg seg
  | .pf seg _ => pfSeg seg
  | .lea _ _ _ => true
  | .segq _ _ _ => true
  | .segld _ _ => true
  | .br _ => true
  | .bz _ _ => true
  | .bnz _ _ => true
  | .jmp _ => true
  | .call _ => true
  | .callr _ => true
  | .ret => true
  | .exit => true
  | .yield => true
  | .brk _ => true
  | .mcall p0 p1 _ => decide (p0.toNat < 112) && decide (p1.toNat < 112)
  | .mma flag _ _ => flagOk flag
  | .mmz flag _ => flagOk flag
  | .accld flag _ _ => flagOk flag
  | .accst flag _ _ => flagOk flag
  | .thdl _ _ => true
  | .thfree _ => true
  | .waitf _ => true
  | .pstWGroup flag _ _ k => flagOk flag && decide (6 ≤ k.toNat)
  | .pstDGroup flag _ _ k => flagOk flag && decide (6 ≤ k.toNat)
  | .pstQGroup flag _ _ k => flagOk flag && decide (6 ≤ k.toNat)
  | .ppushGroup flag _ k => flagOk flag && decide (6 ≤ k.toNat)
  | .pstWCore flag _ _ _ => flagOk flag
  | .pstDCore flag _ _ _ => flagOk flag
  | .pstQCore flag _ _ _ => flagOk flag
  | .ppushCore flag _ _ => flagOk flag
  | .tcopy flag _ _ => flagOk flag
  | .tseal _ => true
  | .twait _ => true
  | .cwait _ _ _ => true
  | .permitArm _ _ => true
  | .permitDrop _ => true
  | .fabPut flag _ _ => flagOk flag
  | .fabGet flag _ _ => flagOk flag
  | .fabAtom flag _ _ => flagOk flag
  | .fabRed flag _ _ => flagOk flag
  | .fabMcast flag _ _ => flagOk flag
  | .ldAcq flag _ _ _ _ => flagOk flag
  | .stRel flag _ _ _ _ => flagOk flag
  | .atomAdd flag _ _ _ _ => flagOk flag
  | .atomSub flag _ _ _ _ => flagOk flag
  | .atomMin flag _ _ _ _ => flagOk flag
  | .atomMax flag _ _ _ _ => flagOk flag
  | .atomAnd flag _ _ _ _ => flagOk flag
  | .atomOr flag _ _ _ _ => flagOk flag
  | .atomXor flag _ _ _ _ => flagOk flag
  | .atomExch flag _ _ _ _ => flagOk flag
  | .atomCas flag _ _ _ _ => flagOk flag
  | .atomFadd flag _ _ _ _ => flagOk flag
  | .atomFmin flag _ _ _ _ => flagOk flag
  | .atomFmax flag _ _ _ _ => flagOk flag
  | .atomBfadd2 flag _ _ _ _ => flagOk flag
  | .fence _ _ => true
  | .shfl _ _ _ _ => true
  | .vote _ _ _ _ => true
  | .scan _ _ _ _ => true
  | .red _ _ _ _ => true
  | .fspawn flag _ _ => flagOk flag
  | .fget _ _ _ => true
  | .fput flag _ _ _ => flagOk flag
  | .fref flag _ => flagOk flag
  | .fdrop flag _ => flagOk flag
  | .fstate _ _ => true
  | .tspawn flag _ => flagOk flag
  | .sys _ => true
  | .eret => true
  | .ctlr _ _ => true
  | .ctlw _ _ => true
  | .qpop _ _ _ => true
  | .qret _ => true
  | .kgo _ _ => true
  | .mload _ _ => true
  | .ipi _ _ => true
  | .wfi => true
  | .preempt _ => true
  | .csave _ _ => true
  | .crestore _ _ => true
  | .racq _ => true
  | .rrel _ => true
  | .barSet _ _ => true
  | .barArrive _ => true
  | .barWait _ => true
  | .barSync _ => true
  | .rmset _ _ _ => true
  | .rjarrive _ => true
  | .rjwait _ => true
  | .rjdrop _ => true
  | .cvset _ _ _ => true
  | .scgset _ n => decide (6 ≤ n.toNat)
  | .tlbinv _ _ => true
  | .atp _ _ => true
  | .tdecl _ => true
  | .rnext _ => true
  | .tend => true
  | .tmove _ _ => true
  | .fpoint => true
  | .fguard => true
  | .fend => true
  | .sched _ _ _ _ _ _ _ => true
  | .imm _ => true
  | .live _ _ => true
  | .livescratch _ _ => true
  | .mod _ _ _ _ => true
  | .fmt _ => true
  | .illegalWord _ => true
  | .loadDataReturn _ _ => true
  | .storePerformed _ => true
  | .pageWalk _ _ => true
  | .deferredMachineTrap _ _ _ => true
  | .trapRecordMade _ _ _ => true
  | .spillRecordReturn _ => true
  | .heldTrapRecord _ => true
  | .watchdogExpiry _ _ _ => true
  | .preemptGraceExpiry _ _ => true
  | .crewReadyToSave _ _ => true
  | .racqGrant _ => true
  | .joinPatienceExpiry _ _ _ => true
  | .mmaEnterQueue _ => true
  | .mmaOperandArrival _ => true
  | .mmaKstep _ => true
  | .mmaOperandFault _ => true
  | .mmzExecute _ => true
  | .accldExecute _ => true
  | .accstExecute _ => true
  | .copyStart _ => true
  | .copyLineRead _ => true
  | .copyLineWrite _ => true
  | .spillSlotReadback _ => true
  | .copyComplete _ => true
  | .multicastDelivery _ _ => true
  | .cwaitWake _ _ _ => true
  | .pushMergeAtHome _ => true
  | .pushFill _ _ => true
  | .pushComplete _ => true
  | .quotaWindowStart _ => true
  | .forwardEntryExpiry _ => true
  | .permitForwardExpiry _ _ => true
  | .peerProbe _ _ => true
  | .peerForwardRegistration _ => true
  | .readRequest _ => true
  | .ownershipRequest _ => true
  | .homeWrite _ => true
  | .writeback _ _ => true
  | .dataReply _ => true
  | .invalidate _ _ => true
  | .recallLine _ _ => true
  | .setRecall _ _ _ => true
  | .filterAck _ _ _ => true
  | .atomicApply _ => true
  | .leaseRead _ => true
  | .leaseWrite _ => true
  | .heldWriteRelease _ => true
  | .sweep _ _ => true
  | .ptsTick _ => true
  | .floorDelivery _ => true
  | .tlbinvComplete _ => true
  | .timerCompare _ => true
  | .interruptEntry _ => true
  | .wfiWake _ => true
  | .sliceExpiry _ _ => true
  | .debugFreezeComplete _ _ => true
  | .exitRetire _ _ _ => true
  | .piecePlacement _ => true
  | .pieceAging _ => true
  | .askForWork _ => true
  | .crewMove _ _ => true
  | .packageReset => true
  | .isleReset _ => true
  | .attestationReportReady => true
  | .fabricSourceRead _ => true
  | .fabricRemoteRequest _ => true
  | .fabricComplete _ _ => true
  | .reductionContribution _ => true
  | .reductionTimeout _ => true
  | .fabricUnreachable _ => true
  | .rdmaPeerAccess _ => true
  | .rdmaWorkCompletion _ _ => true
  | .nvmeDma _ => true
  | .nvmeCompletion _ _ => true
  | .eccCorrected _ => true
  | .eccUncorrectable _ => true
  | .thermalThrottle => true
  | .clusterPowerDown _ => true
  | .recallDeferralExpiry _ _ => true
  | .clusterPowerUp _ => true
  | .fabricPortDown _ => true

/-- The words that the beacon lane executes or accepts (R236). -/
def onLane : Instr → Bool
  | .add _ _ _ _ => true
  | .sub _ _ _ _ => true
  | .add64 _ _ _ _ => true
  | .sub64 _ _ _ _ => true
  | .mul _ _ _ _ => true
  | .mulhiS _ _ _ _ => true
  | .mulhiU _ _ _ _ => true
  | .mad _ _ _ _ => true
  | .mad64 _ _ _ _ => true
  | .divu _ _ _ _ => true
  | .divs _ _ _ _ => true
  | .remu _ _ _ _ => true
  | .rems _ _ _ _ => true
  | .shl _ _ _ _ => true
  | .shr _ _ _ _ => true
  | .sra _ _ _ _ => true
  | .rotl _ _ _ _ => true
  | .shl64 _ _ _ _ => true
  | .shr64 _ _ _ _ => true
  | .sra64 _ _ _ _ => true
  | .and _ _ _ _ => true
  | .or _ _ _ _ => true
  | .xor _ _ _ _ => true
  | .andn _ _ _ _ => true
  | .orn _ _ _ _ => true
  | .minS _ _ _ _ => true
  | .minU _ _ _ _ => true
  | .maxS _ _ _ _ => true
  | .maxU _ _ _ _ => true
  | .abs _ _ _ => true
  | .clz _ _ _ => true
  | .ctz _ _ _ => true
  | .popc _ _ _ => true
  | .brev _ _ _ => true
  | .bfx _ _ _ _ => true
  | .bfi _ _ _ _ => true
  | .bmix _ _ _ _ => true
  | .sel _ _ _ _ => true
  | .cmpEqS _ _ _ _ => true
  | .cmpNeS _ _ _ _ => true
  | .cmpLtS _ _ _ _ => true
  | .cmpLeS _ _ _ _ => true
  | .cmpGtS _ _ _ _ => true
  | .cmpGeS _ _ _ _ => true
  | .cmpEqU _ _ _ _ => true
  | .cmpNeU _ _ _ _ => true
  | .cmpLtU _ _ _ _ => true
  | .cmpLeU _ _ _ _ => true
  | .cmpGtU _ _ _ _ => true
  | .cmpGeU _ _ _ _ => true
  | .fadd _ _ _ _ => false
  | .fsub _ _ _ _ => false
  | .fmul _ _ _ _ => false
  | .ffma _ _ _ _ => false
  | .fmin _ _ _ _ => false
  | .fmax _ _ _ _ => false
  | .fneg _ _ _ => false
  | .fclass _ _ _ => false
  | .fcmpEq _ _ _ _ => false
  | .fcmpNe _ _ _ _ => false
  | .fcmpLt _ _ _ _ => false
  | .fcmpLe _ _ _ _ => false
  | .fcmpUnord _ _ _ _ => false
  | .frcp _ _ _ => false
  | .frsq _ _ _ => false
  | .fsqrt _ _ _ => false
  | .fexp2 _ _ _ => false
  | .flog2 _ _ _ => false
  | .fsin _ _ _ => false
  | .fcos _ _ _ => false
  | .fintFloor _ _ _ => false
  | .fintCeil _ _ _ => false
  | .fintTrunc _ _ _ => false
  | .fintRound _ _ _ => false
  | .paddBf _ _ _ _ => false
  | .pmulBf _ _ _ _ => false
  | .pfmaBf _ _ _ _ => false
  | .paddH _ _ _ _ => false
  | .pmulH _ _ _ _ => false
  | .pfmaH _ _ _ _ => false
  | .dp4 _ _ _ _ => false
  | .f8dot4E4 _ _ _ _ => false
  | .f8dot4E5 _ _ _ _ => false
  | .qpack _ _ _ _ => false
  | .qunpack _ _ _ _ => false
  | .cvt _ _ _ _ _ => false
  | .movi _ _ _ => true
  | .addi _ _ _ _ => true
  | .muli _ _ _ _ => true
  | .andi _ _ _ _ => true
  | .ori _ _ _ _ => true
  | .xori _ _ _ _ => true
  | .shli _ _ _ _ => true
  | .shri _ _ _ _ => true
  | .srai _ _ _ _ => true
  | .cmpeqi _ _ _ _ => true
  | .cmpnei _ _ _ _ => true
  | .cmplti _ _ _ _ => true
  | .cmpltui _ _ _ _ => true
  | .cmpgei _ _ _ _ => true
  | .cmpgeui _ _ _ _ => true
  | .ld _ _ _ _ _ => true
  | .st _ _ _ _ _ => true
  | .ldx _ _ _ _ _ => true
  | .stx _ _ _ _ _ => true
  | .pf _ _ => true
  | .lea _ _ _ => true
  | .segq _ _ _ => true
  | .segld _ _ => true
  | .br _ => true
  | .bz _ _ => true
  | .bnz _ _ => true
  | .jmp _ => true
  | .call _ => true
  | .callr _ => true
  | .ret => true
  | .exit => false
  | .yield => false
  | .brk _ => false
  | .mcall _ _ _ => false
  | .mma _ _ _ => false
  | .mmz _ _ => false
  | .accld _ _ _ => false
  | .accst _ _ _ => false
  | .thdl _ _ => false
  | .thfree _ => false
  | .waitf _ => false
  | .pstWGroup _ _ _ _ => false
  | .pstDGroup _ _ _ _ => false
  | .pstQGroup _ _ _ _ => false
  | .ppushGroup _ _ _ => false
  | .pstWCore _ _ _ _ => false
  | .pstDCore _ _ _ _ => false
  | .pstQCore _ _ _ _ => false
  | .ppushCore _ _ _ => false
  | .tcopy _ _ _ => false
  | .tseal _ => false
  | .twait _ => false
  | .cwait _ _ _ => false
  | .permitArm _ _ => false
  | .permitDrop _ => false
  | .fabPut _ _ _ => false
  | .fabGet _ _ _ => false
  | .fabAtom _ _ _ => false
  | .fabRed _ _ _ => false
  | .fabMcast _ _ _ => false
  | .ldAcq _ _ _ _ _ => true
  | .stRel _ _ _ _ _ => true
  | .atomAdd _ _ _ _ _ => true
  | .atomSub _ _ _ _ _ => true
  | .atomMin _ _ _ _ _ => true
  | .atomMax _ _ _ _ _ => true
  | .atomAnd _ _ _ _ _ => true
  | .atomOr _ _ _ _ _ => true
  | .atomXor _ _ _ _ _ => true
  | .atomExch _ _ _ _ _ => true
  | .atomCas _ _ _ _ _ => true
  | .atomFadd _ _ _ _ _ => true
  | .atomFmin _ _ _ _ _ => true
  | .atomFmax _ _ _ _ _ => true
  | .atomBfadd2 _ _ _ _ _ => true
  | .fence _ _ => true
  | .shfl _ _ _ _ => false
  | .vote _ _ _ _ => false
  | .scan _ _ _ _ => false
  | .red _ _ _ _ => false
  | .fspawn _ _ _ => false
  | .fget _ _ _ => false
  | .fput _ _ _ _ => false
  | .fref _ _ => false
  | .fdrop _ _ => false
  | .fstate _ _ => false
  | .tspawn _ _ => false
  | .sys _ => true
  | .eret => true
  | .ctlr _ _ => true
  | .ctlw _ _ => true
  | .qpop _ _ _ => true
  | .qret _ => true
  | .kgo _ _ => true
  | .mload _ _ => true
  | .ipi _ _ => true
  | .wfi => true
  | .preempt _ => true
  | .csave _ _ => true
  | .crestore _ _ => true
  | .racq _ => false
  | .rrel _ => false
  | .barSet _ _ => false
  | .barArrive _ => false
  | .barWait _ => false
  | .barSync _ => false
  | .rmset _ _ _ => false
  | .rjarrive _ => false
  | .rjwait _ => false
  | .rjdrop _ => false
  | .cvset _ _ _ => false
  | .scgset _ _ => true
  | .tlbinv _ _ => true
  | .atp _ _ => true
  | .tdecl _ => false
  | .rnext _ => false
  | .tend => false
  | .tmove _ _ => true
  | .fpoint => false
  | .fguard => false
  | .fend => false
  | .sched _ _ _ _ _ _ _ => true
  | .imm _ => true
  | .live _ _ => true
  | .livescratch _ _ => true
  | .mod _ _ _ _ => true
  | .fmt _ => false
  | .illegalWord _ => false
  | .loadDataReturn _ _ => false
  | .storePerformed _ => false
  | .pageWalk _ _ => false
  | .deferredMachineTrap _ _ _ => false
  | .trapRecordMade _ _ _ => false
  | .spillRecordReturn _ => false
  | .heldTrapRecord _ => false
  | .watchdogExpiry _ _ _ => false
  | .preemptGraceExpiry _ _ => false
  | .crewReadyToSave _ _ => false
  | .racqGrant _ => false
  | .joinPatienceExpiry _ _ _ => false
  | .mmaEnterQueue _ => false
  | .mmaOperandArrival _ => false
  | .mmaKstep _ => false
  | .mmaOperandFault _ => false
  | .mmzExecute _ => false
  | .accldExecute _ => false
  | .accstExecute _ => false
  | .copyStart _ => false
  | .copyLineRead _ => false
  | .copyLineWrite _ => false
  | .spillSlotReadback _ => false
  | .copyComplete _ => false
  | .multicastDelivery _ _ => false
  | .cwaitWake _ _ _ => false
  | .pushMergeAtHome _ => false
  | .pushFill _ _ => false
  | .pushComplete _ => false
  | .quotaWindowStart _ => false
  | .forwardEntryExpiry _ => false
  | .permitForwardExpiry _ _ => false
  | .peerProbe _ _ => false
  | .peerForwardRegistration _ => false
  | .readRequest _ => false
  | .ownershipRequest _ => false
  | .homeWrite _ => false
  | .writeback _ _ => false
  | .dataReply _ => false
  | .invalidate _ _ => false
  | .recallLine _ _ => false
  | .setRecall _ _ _ => false
  | .filterAck _ _ _ => false
  | .atomicApply _ => false
  | .leaseRead _ => false
  | .leaseWrite _ => false
  | .heldWriteRelease _ => false
  | .sweep _ _ => false
  | .ptsTick _ => false
  | .floorDelivery _ => false
  | .tlbinvComplete _ => false
  | .timerCompare _ => false
  | .interruptEntry _ => false
  | .wfiWake _ => false
  | .sliceExpiry _ _ => false
  | .debugFreezeComplete _ _ => false
  | .exitRetire _ _ _ => false
  | .piecePlacement _ => false
  | .pieceAging _ => false
  | .askForWork _ => false
  | .crewMove _ _ => false
  | .packageReset => false
  | .isleReset _ => false
  | .attestationReportReady => false
  | .fabricSourceRead _ => false
  | .fabricRemoteRequest _ => false
  | .fabricComplete _ _ => false
  | .reductionContribution _ => false
  | .reductionTimeout _ => false
  | .fabricUnreachable _ => false
  | .rdmaPeerAccess _ => false
  | .rdmaWorkCompletion _ _ => false
  | .nvmeDma _ => false
  | .nvmeCompletion _ _ => false
  | .eccCorrected _ => false
  | .eccUncorrectable _ => false
  | .thermalThrottle => false
  | .clusterPowerDown _ => false
  | .recallDeferralExpiry _ _ => false
  | .clusterPowerUp _ => false
  | .fabricPortDown _ => false

/-- Whether an instruction has a word of its own: the rows that are steps of the machine without an encoding have none, and a
word that is no instruction is nobody's (R38 to R69). -/
def hasWord : Instr → Bool
  | .add _ _ _ _ => true
  | .sub _ _ _ _ => true
  | .add64 _ _ _ _ => true
  | .sub64 _ _ _ _ => true
  | .mul _ _ _ _ => true
  | .mulhiS _ _ _ _ => true
  | .mulhiU _ _ _ _ => true
  | .mad _ _ _ _ => true
  | .mad64 _ _ _ _ => true
  | .divu _ _ _ _ => true
  | .divs _ _ _ _ => true
  | .remu _ _ _ _ => true
  | .rems _ _ _ _ => true
  | .shl _ _ _ _ => true
  | .shr _ _ _ _ => true
  | .sra _ _ _ _ => true
  | .rotl _ _ _ _ => true
  | .shl64 _ _ _ _ => true
  | .shr64 _ _ _ _ => true
  | .sra64 _ _ _ _ => true
  | .and _ _ _ _ => true
  | .or _ _ _ _ => true
  | .xor _ _ _ _ => true
  | .andn _ _ _ _ => true
  | .orn _ _ _ _ => true
  | .minS _ _ _ _ => true
  | .minU _ _ _ _ => true
  | .maxS _ _ _ _ => true
  | .maxU _ _ _ _ => true
  | .abs _ _ _ => true
  | .clz _ _ _ => true
  | .ctz _ _ _ => true
  | .popc _ _ _ => true
  | .brev _ _ _ => true
  | .bfx _ _ _ _ => true
  | .bfi _ _ _ _ => true
  | .bmix _ _ _ _ => true
  | .sel _ _ _ _ => true
  | .cmpEqS _ _ _ _ => true
  | .cmpNeS _ _ _ _ => true
  | .cmpLtS _ _ _ _ => true
  | .cmpLeS _ _ _ _ => true
  | .cmpGtS _ _ _ _ => true
  | .cmpGeS _ _ _ _ => true
  | .cmpEqU _ _ _ _ => true
  | .cmpNeU _ _ _ _ => true
  | .cmpLtU _ _ _ _ => true
  | .cmpLeU _ _ _ _ => true
  | .cmpGtU _ _ _ _ => true
  | .cmpGeU _ _ _ _ => true
  | .fadd _ _ _ _ => true
  | .fsub _ _ _ _ => true
  | .fmul _ _ _ _ => true
  | .ffma _ _ _ _ => true
  | .fmin _ _ _ _ => true
  | .fmax _ _ _ _ => true
  | .fneg _ _ _ => true
  | .fclass _ _ _ => true
  | .fcmpEq _ _ _ _ => true
  | .fcmpNe _ _ _ _ => true
  | .fcmpLt _ _ _ _ => true
  | .fcmpLe _ _ _ _ => true
  | .fcmpUnord _ _ _ _ => true
  | .frcp _ _ _ => true
  | .frsq _ _ _ => true
  | .fsqrt _ _ _ => true
  | .fexp2 _ _ _ => true
  | .flog2 _ _ _ => true
  | .fsin _ _ _ => true
  | .fcos _ _ _ => true
  | .fintFloor _ _ _ => true
  | .fintCeil _ _ _ => true
  | .fintTrunc _ _ _ => true
  | .fintRound _ _ _ => true
  | .paddBf _ _ _ _ => true
  | .pmulBf _ _ _ _ => true
  | .pfmaBf _ _ _ _ => true
  | .paddH _ _ _ _ => true
  | .pmulH _ _ _ _ => true
  | .pfmaH _ _ _ _ => true
  | .dp4 _ _ _ _ => true
  | .f8dot4E4 _ _ _ _ => true
  | .f8dot4E5 _ _ _ _ => true
  | .qpack _ _ _ _ => true
  | .qunpack _ _ _ _ => true
  | .cvt _ _ _ _ _ => true
  | .movi _ _ _ => true
  | .addi _ _ _ _ => true
  | .muli _ _ _ _ => true
  | .andi _ _ _ _ => true
  | .ori _ _ _ _ => true
  | .xori _ _ _ _ => true
  | .shli _ _ _ _ => true
  | .shri _ _ _ _ => true
  | .srai _ _ _ _ => true
  | .cmpeqi _ _ _ _ => true
  | .cmpnei _ _ _ _ => true
  | .cmplti _ _ _ _ => true
  | .cmpltui _ _ _ _ => true
  | .cmpgei _ _ _ _ => true
  | .cmpgeui _ _ _ _ => true
  | .ld _ _ _ _ _ => true
  | .st _ _ _ _ _ => true
  | .ldx _ _ _ _ _ => true
  | .stx _ _ _ _ _ => true
  | .pf _ _ => true
  | .lea _ _ _ => true
  | .segq _ _ _ => true
  | .segld _ _ => true
  | .br _ => true
  | .bz _ _ => true
  | .bnz _ _ => true
  | .jmp _ => true
  | .call _ => true
  | .callr _ => true
  | .ret => true
  | .exit => true
  | .yield => true
  | .brk _ => true
  | .mcall _ _ _ => true
  | .mma _ _ _ => true
  | .mmz _ _ => true
  | .accld _ _ _ => true
  | .accst _ _ _ => true
  | .thdl _ _ => true
  | .thfree _ => true
  | .waitf _ => true
  | .pstWGroup _ _ _ _ => true
  | .pstDGroup _ _ _ _ => true
  | .pstQGroup _ _ _ _ => true
  | .ppushGroup _ _ _ => true
  | .pstWCore _ _ _ _ => true
  | .pstDCore _ _ _ _ => true
  | .pstQCore _ _ _ _ => true
  | .ppushCore _ _ _ => true
  | .tcopy _ _ _ => true
  | .tseal _ => true
  | .twait _ => true
  | .cwait _ _ _ => true
  | .permitArm _ _ => true
  | .permitDrop _ => true
  | .fabPut _ _ _ => true
  | .fabGet _ _ _ => true
  | .fabAtom _ _ _ => true
  | .fabRed _ _ _ => true
  | .fabMcast _ _ _ => true
  | .ldAcq _ _ _ _ _ => true
  | .stRel _ _ _ _ _ => true
  | .atomAdd _ _ _ _ _ => true
  | .atomSub _ _ _ _ _ => true
  | .atomMin _ _ _ _ _ => true
  | .atomMax _ _ _ _ _ => true
  | .atomAnd _ _ _ _ _ => true
  | .atomOr _ _ _ _ _ => true
  | .atomXor _ _ _ _ _ => true
  | .atomExch _ _ _ _ _ => true
  | .atomCas _ _ _ _ _ => true
  | .atomFadd _ _ _ _ _ => true
  | .atomFmin _ _ _ _ _ => true
  | .atomFmax _ _ _ _ _ => true
  | .atomBfadd2 _ _ _ _ _ => true
  | .fence _ _ => true
  | .shfl _ _ _ _ => true
  | .vote _ _ _ _ => true
  | .scan _ _ _ _ => true
  | .red _ _ _ _ => true
  | .fspawn _ _ _ => true
  | .fget _ _ _ => true
  | .fput _ _ _ _ => true
  | .fref _ _ => true
  | .fdrop _ _ => true
  | .fstate _ _ => true
  | .tspawn _ _ => true
  | .sys _ => true
  | .eret => true
  | .ctlr _ _ => true
  | .ctlw _ _ => true
  | .qpop _ _ _ => true
  | .qret _ => true
  | .kgo _ _ => true
  | .mload _ _ => true
  | .ipi _ _ => true
  | .wfi => true
  | .preempt _ => true
  | .csave _ _ => true
  | .crestore _ _ => true
  | .racq _ => true
  | .rrel _ => true
  | .barSet _ _ => true
  | .barArrive _ => true
  | .barWait _ => true
  | .barSync _ => true
  | .rmset _ _ _ => true
  | .rjarrive _ => true
  | .rjwait _ => true
  | .rjdrop _ => true
  | .cvset _ _ _ => true
  | .scgset _ _ => true
  | .tlbinv _ _ => true
  | .atp _ _ => true
  | .tdecl _ => true
  | .rnext _ => true
  | .tend => true
  | .tmove _ _ => true
  | .fpoint => true
  | .fguard => true
  | .fend => true
  | .sched _ _ _ _ _ _ _ => true
  | .imm _ => true
  | .live _ _ => true
  | .livescratch _ _ => true
  | .mod _ _ _ _ => true
  | .fmt _ => true
  | .illegalWord _ => false
  | .loadDataReturn _ _ => false
  | .storePerformed _ => false
  | .pageWalk _ _ => false
  | .deferredMachineTrap _ _ _ => false
  | .trapRecordMade _ _ _ => false
  | .spillRecordReturn _ => false
  | .heldTrapRecord _ => false
  | .watchdogExpiry _ _ _ => false
  | .preemptGraceExpiry _ _ => false
  | .crewReadyToSave _ _ => false
  | .racqGrant _ => false
  | .joinPatienceExpiry _ _ _ => false
  | .mmaEnterQueue _ => false
  | .mmaOperandArrival _ => false
  | .mmaKstep _ => false
  | .mmaOperandFault _ => false
  | .mmzExecute _ => false
  | .accldExecute _ => false
  | .accstExecute _ => false
  | .copyStart _ => false
  | .copyLineRead _ => false
  | .copyLineWrite _ => false
  | .spillSlotReadback _ => false
  | .copyComplete _ => false
  | .multicastDelivery _ _ => false
  | .cwaitWake _ _ _ => false
  | .pushMergeAtHome _ => false
  | .pushFill _ _ => false
  | .pushComplete _ => false
  | .quotaWindowStart _ => false
  | .forwardEntryExpiry _ => false
  | .permitForwardExpiry _ _ => false
  | .peerProbe _ _ => false
  | .peerForwardRegistration _ => false
  | .readRequest _ => false
  | .ownershipRequest _ => false
  | .homeWrite _ => false
  | .writeback _ _ => false
  | .dataReply _ => false
  | .invalidate _ _ => false
  | .recallLine _ _ => false
  | .setRecall _ _ _ => false
  | .filterAck _ _ _ => false
  | .atomicApply _ => false
  | .leaseRead _ => false
  | .leaseWrite _ => false
  | .heldWriteRelease _ => false
  | .sweep _ _ => false
  | .ptsTick _ => false
  | .floorDelivery _ => false
  | .tlbinvComplete _ => false
  | .timerCompare _ => false
  | .interruptEntry _ => false
  | .wfiWake _ => false
  | .sliceExpiry _ _ => false
  | .debugFreezeComplete _ _ => false
  | .exitRetire _ _ _ => false
  | .piecePlacement _ => false
  | .pieceAging _ => false
  | .askForWork _ => false
  | .crewMove _ _ => false
  | .packageReset => false
  | .isleReset _ => false
  | .attestationReportReady => false
  | .fabricSourceRead _ => false
  | .fabricRemoteRequest _ => false
  | .fabricComplete _ _ => false
  | .reductionContribution _ => false
  | .reductionTimeout _ => false
  | .fabricUnreachable _ => false
  | .rdmaPeerAccess _ => false
  | .rdmaWorkCompletion _ _ => false
  | .nvmeDma _ => false
  | .nvmeCompletion _ _ => false
  | .eccCorrected _ => false
  | .eccUncorrectable _ => false
  | .thermalThrottle => false
  | .clusterPowerDown _ => false
  | .recallDeferralExpiry _ _ => false
  | .clusterPowerUp _ => false
  | .fabricPortDown _ => false

/-- Well-formed as a thread's word. -/
def wfThread (i : Instr) : Bool := i.selectorsOk && i.opnds.all (fun u => u.kind.threadOk u.code)

/-- Well-formed as a beacon lane's word. -/
def wfLane (i : Instr) : Bool := i.onLane && i.selectorsOk && i.opnds.all (fun u => u.kind.laneOk u.code)

end Instr

end Sys2Proof
end

