-- ==== Sys2Proof/Decode.lean ====
section
/-! DEFINITION. The instruction word (R38 to R68): its fields, decoding, and after it encoding. A word is decoded first
by its class and map entry with every field of kind Z checked, then by the operand kinds of R40 for a thread or of R235
for a beacon lane. A word that neither step accepts is no instruction (R69). -/

namespace Sys2Proof

/-- The `n` bits of a word or field from bit `lo` up. -/
abbrev fieldOf {m : Nat} (x : BitVec m) (lo n : Nat) : BitVec n := BitVec.extractLsb' lo n x

/-- Codes of R63. -/
def Fmt.code : Fmt → BitVec 4
  | .f32 => 0#4 | .f16 => 1#4 | .bf16 => 2#4 | .e4m3 => 3#4 | .e5m2 => 4#4 | .int8 => 5#4 | .uint8 => 6#4
  | .int32 => 7#4 | .uint32 => 8#4 | .int64 => 9#4 | .uint64 => 10#4

/-- Formats by code (R63). -/
def Fmt.ofCode (c : BitVec 4) : Option Fmt :=
  match c.toNat with
  | 0 => some .f32 | 1 => some .f16 | 2 => some .bf16 | 3 => some .e4m3 | 4 => some .e5m2 | 5 => some .int8
  | 6 => some .uint8 | 7 => some .int32 | 8 => some .uint32 | 9 => some .int64 | 10 => some .uint64
  | _ => none

/-- Codes of R65. -/
def LdSize.code : LdSize → BitVec 3
  | .b => 0#3 | .bs => 1#3 | .h => 2#3 | .hs => 3#3 | .w => 4#3 | .d => 5#3 | .q => 6#3

/-- Sizes of ld by code (R65). -/
def LdSize.ofCode (c : BitVec 3) : Option LdSize :=
  match c.toNat with
  | 0 => some .b | 1 => some .bs | 2 => some .h | 3 => some .hs | 4 => some .w | 5 => some .d | 6 => some .q
  | _ => none

/-- Codes of R65. -/
def StSize.code : StSize → BitVec 3
  | .b => 0#3 | .h => 2#3 | .w => 4#3 | .d => 5#3 | .q => 6#3

/-- Sizes of st by code (R65). -/
def StSize.ofCode (c : BitVec 3) : Option StSize :=
  match c.toNat with
  | 0 => some .b | 2 => some .h | 4 => some .w | 5 => some .d | 6 => some .q
  | _ => none

/-- Codes of R65. -/
def XSize.code : XSize → BitVec 3
  | .w => 4#3 | .d => 5#3

/-- Sizes of ldx and stx by code (R65). -/
def XSize.ofCode (c : BitVec 3) : Option XSize :=
  match c.toNat with
  | 4 => some .w | 5 => some .d
  | _ => none

/-- Codes of R52. -/
def Round.code : Round → BitVec 3
  | .rne => 0#3 | .rz => 1#3 | .ru => 2#3 | .rd => 3#3 | .rna => 4#3

/-- Rounding modes by code (R52). -/
def Round.ofCode (c : BitVec 3) : Option Round :=
  match c.toNat with
  | 0 => some .rne | 1 => some .rz | 2 => some .ru | 3 => some .rd | 4 => some .rna
  | _ => none

/-- Codes of R67. -/
def AtomOrd.code : AtomOrd → BitVec 2
  | .rlx => 0#2 | .acq => 1#2 | .rel => 2#2 | .ar => 3#2

/-- Orderings of an atomic by code (R67). -/
def AtomOrd.ofCode (c : BitVec 2) : AtomOrd :=
  match c.toNat with
  | 0 => .rlx | 1 => .acq | 2 => .rel | _ => .ar

/-- Codes of R67. -/
def FenceOrd.code : FenceOrd → BitVec 2
  | .acq => 0#2 | .rel => 1#2 | .ar => 2#2 | .sc => 3#2

/-- Orderings of a fence by code (R67). -/
def FenceOrd.ofCode (c : BitVec 2) : FenceOrd :=
  match c.toNat with
  | 0 => .acq | 1 => .rel | 2 => .ar | _ => .sc

/-- Sub-operation codes of shfl (R67). -/
def ShflMode.code : ShflMode → BitVec 4
  | .idx => 0#4 | .up => 1#4 | .down => 2#4 | .xor => 3#4

/-- Modes of shfl by code (R67). -/
def ShflMode.ofCode (c : BitVec 4) : Option ShflMode :=
  match c.toNat with
  | 0 => some .idx | 1 => some .up | 2 => some .down | 3 => some .xor
  | _ => none

/-- Sub-operation codes of vote (R67). -/
def VoteMode.code : VoteMode → BitVec 4
  | .all => 0#4 | .any => 1#4 | .ballot => 2#4

/-- Modes of vote by code (R67). -/
def VoteMode.ofCode (c : BitVec 4) : Option VoteMode :=
  match c.toNat with
  | 0 => some .all | 1 => some .any | 2 => some .ballot
  | _ => none

/-- Sub-operation codes of scan and red (R67). -/
def RedOp.code : RedOp → BitVec 4
  | .addS => 0#4 | .addU => 1#4 | .addF => 2#4 | .minS => 3#4 | .minU => 4#4 | .minF => 5#4 | .maxS => 6#4
  | .maxU => 7#4 | .maxF => 8#4 | .and => 9#4 | .or => 10#4

/-- Combinations of scan and red by code (R67). -/
def RedOp.ofCode (c : BitVec 4) : Option RedOp :=
  match c.toNat with
  | 0 => some .addS | 1 => some .addU | 2 => some .addF | 3 => some .minS | 4 => some .minU | 5 => some .minF
  | 6 => some .maxS | 7 => some .maxU | 8 => some .maxF | 9 => some .and | 10 => some .or
  | _ => none

/-! ### Words from fields (R38) -/

/-- An R-class word. -/
def encR (func : BitVec 7) (nw : Bool) (d a b : Opnd) : Word := 0#3 ++ func ++ BitVec.ofBool nw ++ d ++ a ++ b
/-- An F-class word. -/
def encF (func : BitVec 7) (nw : Bool) (d a b : Opnd) : Word := 1#3 ++ func ++ BitVec.ofBool nw ++ d ++ a ++ b
/-- An I-class word. -/
def encI (op : BitVec 4) (nw : Bool) (d a : Opnd) (imm : BitVec 10) : Word :=
  2#3 ++ op ++ BitVec.ofBool nw ++ d ++ a ++ imm
/-- An M-class word. -/
def encM (op : BitVec 5) (seg : BitVec 3) (flag : BitVec 4) (d a : Opnd) (size : BitVec 3) : Word :=
  3#3 ++ op ++ seg ++ flag ++ d ++ a ++ size
/-- An X-class word. -/
def encX (op : BitVec 6) (flag : BitVec 4) (p q : Opnd) (k : BitVec 5) : Word := 4#3 ++ op ++ flag ++ p ++ q ++ k
/-- A B-class word. -/
def encB (op : BitVec 4) (off : BitVec 25) : Word := 5#3 ++ op ++ off
/-- An S-class word. -/
def encS (op : BitVec 6) (d a : Opnd) (imm : BitVec 9) : Word := 6#3 ++ op ++ d ++ a ++ imm
/-- An H-class word. -/
def encH (kind : BitVec 3) (x : BitVec 26) : Word := 7#3 ++ kind ++ x

/-! ### The opcode map -/

/-- The R-class words (R61). -/
def rawR (func : BitVec 7) (nw : Bool) (d a b : Opnd) : Option Instr :=
  match func.toNat with
  | 0x00 => some (.add nw d a b)
  | 0x01 => some (.sub nw d a b)
  | 0x02 => some (.add64 nw d a b)
  | 0x03 => some (.sub64 nw d a b)
  | 0x04 => some (.mul nw d a b)
  | 0x05 => some (.mulhiS nw d a b)
  | 0x06 => some (.mulhiU nw d a b)
  | 0x07 => some (.mad nw d a b)
  | 0x08 => some (.mad64 nw d a b)
  | 0x09 => some (.divu nw d a b)
  | 0x0A => some (.divs nw d a b)
  | 0x0B => some (.remu nw d a b)
  | 0x0C => some (.rems nw d a b)
  | 0x10 => some (.shl nw d a b)
  | 0x11 => some (.shr nw d a b)
  | 0x12 => some (.sra nw d a b)
  | 0x13 => some (.rotl nw d a b)
  | 0x14 => some (.shl64 nw d a b)
  | 0x15 => some (.shr64 nw d a b)
  | 0x16 => some (.sra64 nw d a b)
  | 0x18 => some (.and nw d a b)
  | 0x19 => some (.or nw d a b)
  | 0x1A => some (.xor nw d a b)
  | 0x1B => some (.andn nw d a b)
  | 0x1C => some (.orn nw d a b)
  | 0x20 => some (.minS nw d a b)
  | 0x21 => some (.minU nw d a b)
  | 0x22 => some (.maxS nw d a b)
  | 0x23 => some (.maxU nw d a b)
  | 0x24 => if b = 0#7 then some (.abs nw d a) else none
  | 0x25 => if b = 0#7 then some (.clz nw d a) else none
  | 0x26 => if b = 0#7 then some (.ctz nw d a) else none
  | 0x27 => if b = 0#7 then some (.popc nw d a) else none
  | 0x28 => if b = 0#7 then some (.brev nw d a) else none
  | 0x29 => some (.bfx nw d a b)
  | 0x2A => some (.bfi nw d a b)
  | 0x2B => some (.bmix nw d a b)
  | 0x2C => some (.sel nw d a b)
  | 0x30 => some (.cmpEqS nw d a b)
  | 0x31 => some (.cmpNeS nw d a b)
  | 0x32 => some (.cmpLtS nw d a b)
  | 0x33 => some (.cmpLeS nw d a b)
  | 0x34 => some (.cmpGtS nw d a b)
  | 0x35 => some (.cmpGeS nw d a b)
  | 0x36 => some (.cmpEqU nw d a b)
  | 0x37 => some (.cmpNeU nw d a b)
  | 0x38 => some (.cmpLtU nw d a b)
  | 0x39 => some (.cmpLeU nw d a b)
  | 0x3A => some (.cmpGtU nw d a b)
  | 0x3B => some (.cmpGeU nw d a b)
  | _ => none

/-- The F-class words (R62, R63). -/
def rawF (func : BitVec 7) (nw : Bool) (d a b : Opnd) : Option Instr :=
  match func.toNat with
  | 0x00 => some (.fadd nw d a b)
  | 0x01 => some (.fsub nw d a b)
  | 0x02 => some (.fmul nw d a b)
  | 0x03 => some (.ffma nw d a b)
  | 0x04 => some (.fmin nw d a b)
  | 0x05 => some (.fmax nw d a b)
  | 0x06 => if b = 0#7 then some (.fneg nw d a) else none
  | 0x07 => if b = 0#7 then some (.fclass nw d a) else none
  | 0x08 => some (.fcmpEq nw d a b)
  | 0x09 => some (.fcmpNe nw d a b)
  | 0x0A => some (.fcmpLt nw d a b)
  | 0x0B => some (.fcmpLe nw d a b)
  | 0x0C => some (.fcmpUnord nw d a b)
  | 0x10 => if b = 0#7 then some (.frcp nw d a) else none
  | 0x11 => if b = 0#7 then some (.frsq nw d a) else none
  | 0x12 => if b = 0#7 then some (.fsqrt nw d a) else none
  | 0x13 => if b = 0#7 then some (.fexp2 nw d a) else none
  | 0x14 => if b = 0#7 then some (.flog2 nw d a) else none
  | 0x15 => if b = 0#7 then some (.fsin nw d a) else none
  | 0x16 => if b = 0#7 then some (.fcos nw d a) else none
  | 0x18 => if b = 0#7 then some (.fintFloor nw d a) else none
  | 0x19 => if b = 0#7 then some (.fintCeil nw d a) else none
  | 0x1A => if b = 0#7 then some (.fintTrunc nw d a) else none
  | 0x1B => if b = 0#7 then some (.fintRound nw d a) else none
  | 0x20 => some (.paddBf nw d a b)
  | 0x21 => some (.pmulBf nw d a b)
  | 0x22 => some (.pfmaBf nw d a b)
  | 0x24 => some (.paddH nw d a b)
  | 0x25 => some (.pmulH nw d a b)
  | 0x26 => some (.pfmaH nw d a b)
  | 0x28 => some (.dp4 nw d a b)
  | 0x29 => some (.f8dot4E4 nw d a b)
  | 0x2A => some (.f8dot4E5 nw d a b)
  | 0x2C => some (.qpack nw d a b)
  | 0x2D => some (.qunpack nw d a b)
  | n =>
    if 0x40 ≤ n ∧ b.toNat < 16 then
      match Fmt.ofCode (BitVec.ofNat 4 (n - 0x40)), Fmt.ofCode (BitVec.ofNat 4 b.toNat) with
      | some t, some f => if n < 0x50 then some (.cvt nw t f d a) else none
      | _, _ => none
    else none

/-- The I-class words (R64). -/
def rawI (op : BitVec 4) (nw : Bool) (d a : Opnd) (imm : BitVec 10) : Option Instr :=
  match op.toNat with
  | 0x00 => if a = 0#7 then some (.movi nw d imm) else none
  | 0x01 => some (.addi nw d a imm)
  | 0x02 => some (.muli nw d a imm)
  | 0x03 => some (.andi nw d a imm)
  | 0x04 => some (.ori nw d a imm)
  | 0x05 => some (.xori nw d a imm)
  | 0x06 => if fieldOf imm 5 5 = 0#5 then some (.shli nw d a (fieldOf imm 0 5)) else none
  | 0x07 => if fieldOf imm 5 5 = 0#5 then some (.shri nw d a (fieldOf imm 0 5)) else none
  | 0x08 => if fieldOf imm 5 5 = 0#5 then some (.srai nw d a (fieldOf imm 0 5)) else none
  | 0x09 => some (.cmpeqi nw d a imm)
  | 0x0A => some (.cmpnei nw d a imm)
  | 0x0B => some (.cmplti nw d a imm)
  | 0x0C => some (.cmpltui nw d a imm)
  | 0x0D => some (.cmpgei nw d a imm)
  | 0x0E => some (.cmpgeui nw d a imm)
  | _ => none

/-- The M-class words (R65). -/
def rawM (op : BitVec 5) (seg : BitVec 3) (flag : BitVec 4) (d a : Opnd) (size : BitVec 3) : Option Instr :=
  match op.toNat with
  | 0x00 => (LdSize.ofCode size).map (fun z => .ld seg flag d a z)
  | 0x01 => (StSize.ofCode size).map (fun z => .st seg flag d a z)
  | 0x02 => (XSize.ofCode size).map (fun z => .ldx seg flag d a z)
  | 0x03 => (XSize.ofCode size).map (fun z => .stx seg flag d a z)
  | 0x04 => if flag = 15#4 ∧ d = 0#7 ∧ size = 0#3 then some (.pf seg a) else none
  | 0x05 => if flag = 15#4 ∧ size = 0#3 then some (.lea seg d a) else none
  | 0x06 => if flag = 15#4 ∧ a = 0#7 ∧ fieldOf size 2 1 = 0#1 then some (.segq seg d (fieldOf size 0 2)) else none
  | 0x07 => if flag = 15#4 ∧ a = 0#7 ∧ size = 0#3 then some (.segld seg d) else none
  | _ => none

/-- The X-class words (R67). -/
def rawX (op : BitVec 6) (flag : BitVec 4) (p q : Opnd) (k : BitVec 5) : Option Instr :=
  match op.toNat with
  | 0x00 => if q = 0#7 ∧ fieldOf k 4 1 = 0#1 then some (.mma flag p (fieldOf k 0 4)) else none
  | 0x01 => if q = 0#7 ∧ k = 0#5 then some (.mmz flag p) else none
  | 0x02 => if k = 0#5 then some (.accld flag p q) else none
  | 0x03 => if k = 0#5 then some (.accst flag p q) else none
  | 0x04 => if flag = 15#4 ∧ q = 0#7 then some (.thdl p k) else none
  | 0x05 => if flag = 15#4 ∧ p = 0#7 ∧ q = 0#7 then some (.thfree k) else none
  | 0x06 => if flag = 15#4 ∧ p = 0#7 then some (.waitf (q ++ k)) else none
  | 0x08 => some (.pstWGroup flag p q k)
  | 0x09 => some (.pstDGroup flag p q k)
  | 0x0A => some (.pstQGroup flag p q k)
  | 0x0B => if p = 0#7 then some (.ppushGroup flag q k) else none
  | 0x0C => some (.pstWCore flag p q k)
  | 0x0D => some (.pstDCore flag p q k)
  | 0x0E => some (.pstQCore flag p q k)
  | 0x0F => if p = 0#7 then some (.ppushCore flag q k) else none
  | 0x10 => if k = 0#5 then some (.tcopy flag p q) else none
  | 0x11 => if flag = 15#4 ∧ q = 0#7 ∧ k = 0#5 then some (.tseal p) else none
  | 0x12 => if flag = 15#4 ∧ q = 0#7 ∧ k = 0#5 then some (.twait p) else none
  | 0x13 => if flag = 15#4 then some (.cwait p q k) else none
  | 0x14 => if flag = 15#4 ∧ q = 0#7 then some (.permitArm p k) else none
  | 0x15 => if flag = 15#4 ∧ p = 0#7 ∧ q = 0#7 then some (.permitDrop k) else none
  | 0x18 => if k = 0#5 then some (.fabPut flag p q) else none
  | 0x19 => if k = 0#5 then some (.fabGet flag p q) else none
  | 0x1A => if k = 0#5 then some (.fabAtom flag p q) else none
  | 0x1B => if k = 0#5 then some (.fabRed flag p q) else none
  | 0x1C => if k = 0#5 then some (.fabMcast flag p q) else none
  | 0x1E => if fieldOf q 6 1 = 0#1 then some (.ldAcq flag p (decide (fieldOf q 5 1 = 1#1)) (fieldOf q 0 5) k) else none
  | 0x1F => if fieldOf q 6 1 = 0#1 then some (.stRel flag p (decide (fieldOf q 5 1 = 1#1)) (fieldOf q 0 5) k) else none
  | 0x20 => some (.atomAdd flag p (AtomOrd.ofCode (fieldOf q 5 2)) (fieldOf q 0 5) k)
  | 0x21 => some (.atomSub flag p (AtomOrd.ofCode (fieldOf q 5 2)) (fieldOf q 0 5) k)
  | 0x22 => some (.atomMin flag p (AtomOrd.ofCode (fieldOf q 5 2)) (fieldOf q 0 5) k)
  | 0x23 => some (.atomMax flag p (AtomOrd.ofCode (fieldOf q 5 2)) (fieldOf q 0 5) k)
  | 0x24 => some (.atomAnd flag p (AtomOrd.ofCode (fieldOf q 5 2)) (fieldOf q 0 5) k)
  | 0x25 => some (.atomOr flag p (AtomOrd.ofCode (fieldOf q 5 2)) (fieldOf q 0 5) k)
  | 0x26 => some (.atomXor flag p (AtomOrd.ofCode (fieldOf q 5 2)) (fieldOf q 0 5) k)
  | 0x27 => some (.atomExch flag p (AtomOrd.ofCode (fieldOf q 5 2)) (fieldOf q 0 5) k)
  | 0x28 => some (.atomCas flag p (AtomOrd.ofCode (fieldOf q 5 2)) (fieldOf q 0 5) k)
  | 0x29 => some (.atomFadd flag p (AtomOrd.ofCode (fieldOf q 5 2)) (fieldOf q 0 5) k)
  | 0x2A => some (.atomFmin flag p (AtomOrd.ofCode (fieldOf q 5 2)) (fieldOf q 0 5) k)
  | 0x2B => some (.atomFmax flag p (AtomOrd.ofCode (fieldOf q 5 2)) (fieldOf q 0 5) k)
  | 0x2C => some (.atomBfadd2 flag p (AtomOrd.ofCode (fieldOf q 5 2)) (fieldOf q 0 5) k)
  | 0x2F => if flag = 15#4 ∧ p = 0#7 ∧ fieldOf q 0 5 = 0#5 then some (.fence (FenceOrd.ofCode (fieldOf q 5 2)) k) else none
  | 0x30 => if fieldOf k 4 1 = 0#1 then (ShflMode.ofCode flag).map (fun m => .shfl m p q (fieldOf k 0 4)) else none
  | 0x31 => if fieldOf k 4 1 = 0#1 then (VoteMode.ofCode flag).map (fun m => .vote m p q (fieldOf k 0 4)) else none
  | 0x32 => if fieldOf k 4 1 = 0#1 then (RedOp.ofCode flag).map (fun m => .scan m p q (fieldOf k 0 4)) else none
  | 0x33 => if fieldOf k 4 1 = 0#1 then (RedOp.ofCode flag).map (fun m => .red m p q (fieldOf k 0 4)) else none
  | 0x38 => if k = 0#5 then some (.fspawn flag p q) else none
  | 0x39 => if flag = 15#4 then some (.fget p q k) else none
  | 0x3A => some (.fput flag p q k)
  | 0x3B => if p = 0#7 ∧ k = 0#5 then some (.fref flag q) else none
  | 0x3C => if p = 0#7 ∧ k = 0#5 then some (.fdrop flag q) else none
  | 0x3D => if flag = 15#4 ∧ k = 0#5 then some (.fstate p q) else none
  | 0x3E => if p = 0#7 ∧ k = 0#5 then some (.tspawn flag q) else none
  | _ => none

/-- The B-class words (R66). -/
def rawB (op : BitVec 4) (off : BitVec 25) : Option Instr :=
  match op.toNat with
  | 0x00 => some (.br off)
  | 0x01 => some (.bz (fieldOf off 18 7) (fieldOf off 0 18))
  | 0x02 => some (.bnz (fieldOf off 18 7) (fieldOf off 0 18))
  | 0x03 => if fieldOf off 0 18 = 0#18 then some (.jmp (fieldOf off 18 7)) else none
  | 0x04 => some (.call off)
  | 0x05 => if fieldOf off 0 18 = 0#18 then some (.callr (fieldOf off 18 7)) else none
  | 0x06 => if off = 0#25 then some .ret else none
  | 0x07 => if off = 0#25 then some .exit else none
  | 0x08 => if off = 0#25 then some .yield else none
  | 0x09 => if fieldOf off 18 7 = 0#7 then some (.brk (fieldOf off 0 18)) else none
  | 0x0A => if fieldOf off 0 4 = 0#4 then some (.mcall (fieldOf off 18 7) (fieldOf off 11 7) (fieldOf off 4 7)) else none
  | _ => none

/-- The S-class words (R68). -/
def rawS (op : BitVec 6) (d a : Opnd) (imm : BitVec 9) : Option Instr :=
  match op.toNat with
  | 0x00 => if d = 0#7 ∧ a = 0#7 then some (.sys imm) else none
  | 0x01 => if d = 0#7 ∧ a = 0#7 ∧ imm = 0#9 then some (.eret) else none
  | 0x02 => if a = 0#7 then some (.ctlr d imm) else none
  | 0x03 => if d = 0#7 then some (.ctlw a imm) else none
  | 0x04 => if fieldOf imm 8 1 = 0#1 then some (.qpop d a (fieldOf imm 0 8)) else none
  | 0x05 => if d = 0#7 ∧ imm = 0#9 then some (.qret a) else none
  | 0x06 => if imm = 0#9 then some (.kgo d a) else none
  | 0x07 => if imm = 0#9 then some (.mload d a) else none
  | 0x08 => if d = 0#7 then some (.ipi a imm) else none
  | 0x09 => if d = 0#7 ∧ a = 0#7 ∧ imm = 0#9 then some (.wfi) else none
  | 0x0A => if d = 0#7 ∧ imm = 0#9 then some (.preempt a) else none
  | 0x0B => if imm = 0#9 then some (.csave d a) else none
  | 0x0C => if imm = 0#9 then some (.crestore d a) else none
  | 0x10 => if d = 0#7 ∧ imm = 0#9 then some (.racq a) else none
  | 0x11 => if d = 0#7 ∧ imm = 0#9 then some (.rrel a) else none
  | 0x14 => if d = 0#7 ∧ fieldOf imm 7 2 = 0#2 then some (.barSet a (fieldOf imm 0 7)) else none
  | 0x15 => if d = 0#7 ∧ a = 0#7 ∧ fieldOf imm 7 2 = 0#2 then some (.barArrive (fieldOf imm 0 7)) else none
  | 0x16 => if d = 0#7 ∧ a = 0#7 ∧ fieldOf imm 7 2 = 0#2 then some (.barWait (fieldOf imm 0 7)) else none
  | 0x17 => if d = 0#7 ∧ a = 0#7 ∧ fieldOf imm 7 2 = 0#2 then some (.barSync (fieldOf imm 0 7)) else none
  | 0x18 => if fieldOf imm 3 6 = 0#6 then some (.rmset d a (fieldOf imm 0 3)) else none
  | 0x19 => if d = 0#7 ∧ a = 0#7 ∧ fieldOf imm 3 6 = 0#6 then some (.rjarrive (fieldOf imm 0 3)) else none
  | 0x1A => if d = 0#7 ∧ a = 0#7 ∧ fieldOf imm 3 6 = 0#6 then some (.rjwait (fieldOf imm 0 3)) else none
  | 0x1B => if d = 0#7 ∧ a = 0#7 ∧ fieldOf imm 3 6 = 0#6 then some (.rjdrop (fieldOf imm 0 3)) else none
  | 0x1C => if fieldOf imm 4 5 = 0#5 then some (.cvset d a (fieldOf imm 0 4)) else none
  | 0x20 => if d = 0#7 ∧ fieldOf imm 5 4 = 0#4 then some (.scgset a (fieldOf imm 0 5)) else none
  | 0x21 => if d = 0#7 ∧ fieldOf imm 2 7 = 0#7 then some (.tlbinv a (fieldOf imm 0 2)) else none
  | 0x22 => if imm = 0#9 then some (.atp d a) else none
  | 0x28 => if d = 0#7 ∧ imm = 0#9 then some (.tdecl a) else none
  | 0x29 => if a = 0#7 ∧ imm = 0#9 then some (.rnext d) else none
  | 0x2A => if d = 0#7 ∧ a = 0#7 ∧ imm = 0#9 then some (.tend) else none
  | 0x2B => if imm = 0#9 then some (.tmove d a) else none
  | 0x2C => if d = 0#7 ∧ a = 0#7 ∧ imm = 0#9 then some (.fpoint) else none
  | 0x2D => if d = 0#7 ∧ a = 0#7 ∧ imm = 0#9 then some (.fguard) else none
  | 0x2E => if d = 0#7 ∧ a = 0#7 ∧ imm = 0#9 then some (.fend) else none
  | _ => none

/-- The H-class words (R44 to R56). -/
def rawH (kind : BitVec 3) (x : BitVec 26) : Option Instr :=
  match kind.toNat with
  | 0x00 => some (.sched (fieldOf x 14 12) (decide (fieldOf x 13 1 = 1#1)) (decide (fieldOf x 12 1 = 1#1)) (fieldOf x 9 3) (fieldOf x 6 3) (fieldOf x 3 3) (fieldOf x 0 3))
  | 0x01 => some (.imm x)
  | 0x02 => some (.live (fieldOf x 24 2) (fieldOf x 0 24))
  | 0x03 => some (.livescratch (fieldOf x 13 13) (fieldOf x 0 13))
  | 0x04 => if fieldOf x 0 19 = 0#19 then (Round.ofCode (fieldOf x 23 3)).map (fun r => .mod r (decide (fieldOf x 22 1 = 1#1)) (decide (fieldOf x 21 1 = 1#1)) (fieldOf x 19 2)) else none
  | 0x05 => some (.fmt x)
  | _ => none

/-- The class of a word and its fields, through the map of its class (R38). -/
def rawDecode (w : Word) : Option Instr :=
  match (fieldOf w 29 3).toNat with
  | 0 => rawR (fieldOf w 22 7) (decide (fieldOf w 21 1 = 1#1)) (fieldOf w 14 7) (fieldOf w 7 7) (fieldOf w 0 7)
  | 1 => rawF (fieldOf w 22 7) (decide (fieldOf w 21 1 = 1#1)) (fieldOf w 14 7) (fieldOf w 7 7) (fieldOf w 0 7)
  | 2 => rawI (fieldOf w 25 4) (decide (fieldOf w 24 1 = 1#1)) (fieldOf w 17 7) (fieldOf w 10 7) (fieldOf w 0 10)
  | 3 => rawM (fieldOf w 24 5) (fieldOf w 21 3) (fieldOf w 17 4) (fieldOf w 10 7) (fieldOf w 3 7) (fieldOf w 0 3)
  | 4 => rawX (fieldOf w 23 6) (fieldOf w 19 4) (fieldOf w 12 7) (fieldOf w 5 7) (fieldOf w 0 5)
  | 5 => rawB (fieldOf w 25 4) (fieldOf w 0 25)
  | 6 => rawS (fieldOf w 23 6) (fieldOf w 16 7) (fieldOf w 9 7) (fieldOf w 0 9)
  | _ => rawH (fieldOf w 26 3) (fieldOf w 0 26)

/-- The instruction or hint that a word is for a thread (R38 to R69). -/
def decodeThread (w : Word) : Option Instr :=
  match rawDecode w with
  | some i => if i.wfThread then some i else none
  | none => none

/-- The instruction or hint that a word is for a beacon lane (R235, R236). -/
def decodeLane (w : Word) : Option Instr :=
  match rawDecode w with
  | some i => if i.wfLane then some i else none
  | none => none

/-- The instruction that the decoder reads from a word of the opcode table: as a thread decodes it. Every row's words
are threads' words too; those that only a beacon lane may execute trap there (R68). -/
def decodeTableWord (nbits w : Nat) : Option Instr := decodeThread (BitVec.ofNat 32 (w % 2 ^ nbits))

/-- The word of an instruction (R38, R59, R61 to R68). A step without an encoding has no word of its own and gets
the zero word; no rule gives it one. -/
def encode : Instr → Word
  | .add nw d a b => encR 0x00#7 nw d a b
  | .sub nw d a b => encR 0x01#7 nw d a b
  | .add64 nw d a b => encR 0x02#7 nw d a b
  | .sub64 nw d a b => encR 0x03#7 nw d a b
  | .mul nw d a b => encR 0x04#7 nw d a b
  | .mulhiS nw d a b => encR 0x05#7 nw d a b
  | .mulhiU nw d a b => encR 0x06#7 nw d a b
  | .mad nw d a b => encR 0x07#7 nw d a b
  | .mad64 nw d a b => encR 0x08#7 nw d a b
  | .divu nw d a b => encR 0x09#7 nw d a b
  | .divs nw d a b => encR 0x0A#7 nw d a b
  | .remu nw d a b => encR 0x0B#7 nw d a b
  | .rems nw d a b => encR 0x0C#7 nw d a b
  | .shl nw d a b => encR 0x10#7 nw d a b
  | .shr nw d a b => encR 0x11#7 nw d a b
  | .sra nw d a b => encR 0x12#7 nw d a b
  | .rotl nw d a b => encR 0x13#7 nw d a b
  | .shl64 nw d a b => encR 0x14#7 nw d a b
  | .shr64 nw d a b => encR 0x15#7 nw d a b
  | .sra64 nw d a b => encR 0x16#7 nw d a b
  | .and nw d a b => encR 0x18#7 nw d a b
  | .or nw d a b => encR 0x19#7 nw d a b
  | .xor nw d a b => encR 0x1A#7 nw d a b
  | .andn nw d a b => encR 0x1B#7 nw d a b
  | .orn nw d a b => encR 0x1C#7 nw d a b
  | .minS nw d a b => encR 0x20#7 nw d a b
  | .minU nw d a b => encR 0x21#7 nw d a b
  | .maxS nw d a b => encR 0x22#7 nw d a b
  | .maxU nw d a b => encR 0x23#7 nw d a b
  | .abs nw d a => encR 0x24#7 nw d a 0#7
  | .clz nw d a => encR 0x25#7 nw d a 0#7
  | .ctz nw d a => encR 0x26#7 nw d a 0#7
  | .popc nw d a => encR 0x27#7 nw d a 0#7
  | .brev nw d a => encR 0x28#7 nw d a 0#7
  | .bfx nw d a b => encR 0x29#7 nw d a b
  | .bfi nw d a b => encR 0x2A#7 nw d a b
  | .bmix nw d a b => encR 0x2B#7 nw d a b
  | .sel nw d a b => encR 0x2C#7 nw d a b
  | .cmpEqS nw d a b => encR 0x30#7 nw d a b
  | .cmpNeS nw d a b => encR 0x31#7 nw d a b
  | .cmpLtS nw d a b => encR 0x32#7 nw d a b
  | .cmpLeS nw d a b => encR 0x33#7 nw d a b
  | .cmpGtS nw d a b => encR 0x34#7 nw d a b
  | .cmpGeS nw d a b => encR 0x35#7 nw d a b
  | .cmpEqU nw d a b => encR 0x36#7 nw d a b
  | .cmpNeU nw d a b => encR 0x37#7 nw d a b
  | .cmpLtU nw d a b => encR 0x38#7 nw d a b
  | .cmpLeU nw d a b => encR 0x39#7 nw d a b
  | .cmpGtU nw d a b => encR 0x3A#7 nw d a b
  | .cmpGeU nw d a b => encR 0x3B#7 nw d a b
  | .fadd nw d a b => encF 0x00#7 nw d a b
  | .fsub nw d a b => encF 0x01#7 nw d a b
  | .fmul nw d a b => encF 0x02#7 nw d a b
  | .ffma nw d a b => encF 0x03#7 nw d a b
  | .fmin nw d a b => encF 0x04#7 nw d a b
  | .fmax nw d a b => encF 0x05#7 nw d a b
  | .fneg nw d a => encF 0x06#7 nw d a 0#7
  | .fclass nw d a => encF 0x07#7 nw d a 0#7
  | .fcmpEq nw d a b => encF 0x08#7 nw d a b
  | .fcmpNe nw d a b => encF 0x09#7 nw d a b
  | .fcmpLt nw d a b => encF 0x0A#7 nw d a b
  | .fcmpLe nw d a b => encF 0x0B#7 nw d a b
  | .fcmpUnord nw d a b => encF 0x0C#7 nw d a b
  | .frcp nw d a => encF 0x10#7 nw d a 0#7
  | .frsq nw d a => encF 0x11#7 nw d a 0#7
  | .fsqrt nw d a => encF 0x12#7 nw d a 0#7
  | .fexp2 nw d a => encF 0x13#7 nw d a 0#7
  | .flog2 nw d a => encF 0x14#7 nw d a 0#7
  | .fsin nw d a => encF 0x15#7 nw d a 0#7
  | .fcos nw d a => encF 0x16#7 nw d a 0#7
  | .fintFloor nw d a => encF 0x18#7 nw d a 0#7
  | .fintCeil nw d a => encF 0x19#7 nw d a 0#7
  | .fintTrunc nw d a => encF 0x1A#7 nw d a 0#7
  | .fintRound nw d a => encF 0x1B#7 nw d a 0#7
  | .paddBf nw d a b => encF 0x20#7 nw d a b
  | .pmulBf nw d a b => encF 0x21#7 nw d a b
  | .pfmaBf nw d a b => encF 0x22#7 nw d a b
  | .paddH nw d a b => encF 0x24#7 nw d a b
  | .pmulH nw d a b => encF 0x25#7 nw d a b
  | .pfmaH nw d a b => encF 0x26#7 nw d a b
  | .dp4 nw d a b => encF 0x28#7 nw d a b
  | .f8dot4E4 nw d a b => encF 0x29#7 nw d a b
  | .f8dot4E5 nw d a b => encF 0x2A#7 nw d a b
  | .qpack nw d a b => encF 0x2C#7 nw d a b
  | .qunpack nw d a b => encF 0x2D#7 nw d a b
  | .cvt nw t f d a => encF (BitVec.ofNat 7 (0x40 + t.code.toNat)) nw d a (BitVec.setWidth 7 f.code)
  | .movi nw d imm => encI 0#4 nw d 0#7 imm
  | .addi nw d a imm => encI 1#4 nw d a imm
  | .muli nw d a imm => encI 2#4 nw d a imm
  | .andi nw d a imm => encI 3#4 nw d a imm
  | .ori nw d a imm => encI 4#4 nw d a imm
  | .xori nw d a imm => encI 5#4 nw d a imm
  | .shli nw d a amt => encI 6#4 nw d a (0#5 ++ amt)
  | .shri nw d a amt => encI 7#4 nw d a (0#5 ++ amt)
  | .srai nw d a amt => encI 8#4 nw d a (0#5 ++ amt)
  | .cmpeqi nw d a imm => encI 9#4 nw d a imm
  | .cmpnei nw d a imm => encI 10#4 nw d a imm
  | .cmplti nw d a imm => encI 11#4 nw d a imm
  | .cmpltui nw d a imm => encI 12#4 nw d a imm
  | .cmpgei nw d a imm => encI 13#4 nw d a imm
  | .cmpgeui nw d a imm => encI 14#4 nw d a imm
  | .ld seg flag d a size => encM 0#5 seg flag d a size.code
  | .st seg flag d a size => encM 1#5 seg flag d a size.code
  | .ldx seg flag d a size => encM 2#5 seg flag d a size.code
  | .stx seg flag d a size => encM 3#5 seg flag d a size.code
  | .pf seg a => encM 4#5 seg 15#4 0#7 a 0#3
  | .lea seg d a => encM 5#5 seg 15#4 d a 0#3
  | .segq seg d w => encM 6#5 seg 15#4 d 0#7 (0#1 ++ w)
  | .segld seg d => encM 7#5 seg 15#4 d 0#7 0#3
  | .br off => encB 0#4 off
  | .bz a off => encB 1#4 (a ++ off)
  | .bnz a off => encB 2#4 (a ++ off)
  | .jmp a => encB 3#4 (a ++ 0#18)
  | .call off => encB 4#4 off
  | .callr a => encB 5#4 (a ++ 0#18)
  | .ret => encB 6#4 0#25
  | .exit => encB 7#4 0#25
  | .yield => encB 8#4 0#25
  | .brk code => encB 9#4 (0#7 ++ code)
  | .mcall p0 p1 entry => encB 10#4 (p0 ++ p1 ++ entry ++ 0#4)
  | .mma flag p cv => encX 0x00#6 flag p 0#7 (0#1 ++ cv)
  | .mmz flag p => encX 0x01#6 flag p 0#7 0#5
  | .accld flag p q => encX 0x02#6 flag p q 0#5
  | .accst flag p q => encX 0x03#6 flag p q 0#5
  | .thdl p h => encX 0x04#6 15#4 p 0#7 h
  | .thfree h => encX 0x05#6 15#4 0#7 0#7 h
  | .waitf mask => encX 0x06#6 15#4 0#7 (fieldOf mask 5 7) (fieldOf mask 0 5)
  | .pstWGroup flag p q k => encX 0x08#6 flag p q k
  | .pstDGroup flag p q k => encX 0x09#6 flag p q k
  | .pstQGroup flag p q k => encX 0x0A#6 flag p q k
  | .ppushGroup flag q k => encX 0x0B#6 flag 0#7 q k
  | .pstWCore flag p q k => encX 0x0C#6 flag p q k
  | .pstDCore flag p q k => encX 0x0D#6 flag p q k
  | .pstQCore flag p q k => encX 0x0E#6 flag p q k
  | .ppushCore flag q k => encX 0x0F#6 flag 0#7 q k
  | .tcopy flag p q => encX 0x10#6 flag p q 0#5
  | .tseal p => encX 0x11#6 15#4 p 0#7 0#5
  | .twait p => encX 0x12#6 15#4 p 0#7 0#5
  | .cwait p q k => encX 0x13#6 15#4 p q k
  | .permitArm p k => encX 0x14#6 15#4 p 0#7 k
  | .permitDrop k => encX 0x15#6 15#4 0#7 0#7 k
  | .fabPut flag p q => encX 0x18#6 flag p q 0#5
  | .fabGet flag p q => encX 0x19#6 flag p q 0#5
  | .fabAtom flag p q => encX 0x1A#6 flag p q 0#5
  | .fabRed flag p q => encX 0x1B#6 flag p q 0#5
  | .fabMcast flag p q => encX 0x1C#6 flag p q 0#5
  | .ldAcq flag p dbl pair k => encX 0x1E#6 flag p (0#1 ++ BitVec.ofBool dbl ++ pair) k
  | .stRel flag p dbl pair k => encX 0x1F#6 flag p (0#1 ++ BitVec.ofBool dbl ++ pair) k
  | .atomAdd flag p ord pair k => encX 0x20#6 flag p (ord.code ++ pair) k
  | .atomSub flag p ord pair k => encX 0x21#6 flag p (ord.code ++ pair) k
  | .atomMin flag p ord pair k => encX 0x22#6 flag p (ord.code ++ pair) k
  | .atomMax flag p ord pair k => encX 0x23#6 flag p (ord.code ++ pair) k
  | .atomAnd flag p ord pair k => encX 0x24#6 flag p (ord.code ++ pair) k
  | .atomOr flag p ord pair k => encX 0x25#6 flag p (ord.code ++ pair) k
  | .atomXor flag p ord pair k => encX 0x26#6 flag p (ord.code ++ pair) k
  | .atomExch flag p ord pair k => encX 0x27#6 flag p (ord.code ++ pair) k
  | .atomCas flag p ord pair k => encX 0x28#6 flag p (ord.code ++ pair) k
  | .atomFadd flag p ord pair k => encX 0x29#6 flag p (ord.code ++ pair) k
  | .atomFmin flag p ord pair k => encX 0x2A#6 flag p (ord.code ++ pair) k
  | .atomFmax flag p ord pair k => encX 0x2B#6 flag p (ord.code ++ pair) k
  | .atomBfadd2 flag p ord pair k => encX 0x2C#6 flag p (ord.code ++ pair) k
  | .fence ord k => encX 0x2F#6 15#4 0#7 (ord.code ++ 0#5) k
  | .shfl m p q cv => encX 0x30#6 m.code p q (0#1 ++ cv)
  | .vote m p q cv => encX 0x31#6 m.code p q (0#1 ++ cv)
  | .scan m p q cv => encX 0x32#6 m.code p q (0#1 ++ cv)
  | .red m p q cv => encX 0x33#6 m.code p q (0#1 ++ cv)
  | .fspawn flag p q => encX 0x38#6 flag p q 0#5
  | .fget p q k => encX 0x39#6 15#4 p q k
  | .fput flag p q k => encX 0x3A#6 flag p q k
  | .fref flag q => encX 0x3B#6 flag 0#7 q 0#5
  | .fdrop flag q => encX 0x3C#6 flag 0#7 q 0#5
  | .fstate p q => encX 0x3D#6 15#4 p q 0#5
  | .tspawn flag q => encX 0x3E#6 flag 0#7 q 0#5
  | .sys n => encS 0x00#6 0#7 0#7 n
  | .eret => encS 0x01#6 0#7 0#7 0#9
  | .ctlr d n => encS 0x02#6 d 0#7 n
  | .ctlw a n => encS 0x03#6 0#7 a n
  | .qpop d a c => encS 0x04#6 d a (0#1 ++ c)
  | .qret a => encS 0x05#6 0#7 a 0#9
  | .kgo d a => encS 0x06#6 d a 0#9
  | .mload d a => encS 0x07#6 d a 0#9
  | .ipi a vec => encS 0x08#6 0#7 a vec
  | .wfi => encS 0x09#6 0#7 0#7 0#9
  | .preempt a => encS 0x0A#6 0#7 a 0#9
  | .csave d a => encS 0x0B#6 d a 0#9
  | .crestore d a => encS 0x0C#6 d a 0#9
  | .racq a => encS 0x10#6 0#7 a 0#9
  | .rrel a => encS 0x11#6 0#7 a 0#9
  | .barSet a b => encS 0x14#6 0#7 a (0#2 ++ b)
  | .barArrive b => encS 0x15#6 0#7 0#7 (0#2 ++ b)
  | .barWait b => encS 0x16#6 0#7 0#7 (0#2 ++ b)
  | .barSync b => encS 0x17#6 0#7 0#7 (0#2 ++ b)
  | .rmset d a r => encS 0x18#6 d a (0#6 ++ r)
  | .rjarrive r => encS 0x19#6 0#7 0#7 (0#6 ++ r)
  | .rjwait r => encS 0x1A#6 0#7 0#7 (0#6 ++ r)
  | .rjdrop r => encS 0x1B#6 0#7 0#7 (0#6 ++ r)
  | .cvset d a c => encS 0x1C#6 d a (0#5 ++ c)
  | .scgset a n => encS 0x20#6 0#7 a (0#4 ++ n)
  | .tlbinv a ext => encS 0x21#6 0#7 a (0#7 ++ ext)
  | .atp d a => encS 0x22#6 d a 0#9
  | .tdecl a => encS 0x28#6 0#7 a 0#9
  | .rnext d => encS 0x29#6 d 0#7 0#9
  | .tend => encS 0x2A#6 0#7 0#7 0#9
  | .tmove d a => encS 0x2B#6 d a 0#9
  | .fpoint => encS 0x2C#6 0#7 0#7 0#9
  | .fguard => encS 0x2D#6 0#7 0#7 0#9
  | .fend => encS 0x2E#6 0#7 0#7 0#9
  | .sched wait hold yld d3 d2 d1 d0 => encH 0#3 (wait ++ BitVec.ofBool hold ++ BitVec.ofBool yld ++ d3 ++ d2 ++ d1 ++ d0)
  | .imm payload => encH 1#3 (payload)
  | .live part mask => encH 2#3 (part ++ mask)
  | .livescratch base len => encH 3#3 (base ++ len)
  | .mod round sat ftz cache => encH 4#3 (round.code ++ BitVec.ofBool sat ++ BitVec.ofBool ftz ++ cache ++ 0#19)
  | .fmt payload => encH 5#3 (payload)
  | .illegalWord w => w
  | .loadDataReturn _ _ => 0#32
  | .storePerformed _ => 0#32
  | .pageWalk _ _ => 0#32
  | .deferredMachineTrap _ _ _ => 0#32
  | .trapRecordMade _ _ _ => 0#32
  | .spillRecordReturn _ => 0#32
  | .heldTrapRecord _ => 0#32
  | .watchdogExpiry _ _ _ => 0#32
  | .preemptGraceExpiry _ _ => 0#32
  | .crewReadyToSave _ _ => 0#32
  | .racqGrant _ => 0#32
  | .joinPatienceExpiry _ _ _ => 0#32
  | .mmaEnterQueue _ => 0#32
  | .mmaOperandArrival _ => 0#32
  | .mmaKstep _ => 0#32
  | .mmaOperandFault _ => 0#32
  | .mmzExecute _ => 0#32
  | .accldExecute _ => 0#32
  | .accstExecute _ => 0#32
  | .copyStart _ => 0#32
  | .copyLineRead _ => 0#32
  | .copyLineWrite _ => 0#32
  | .spillSlotReadback _ => 0#32
  | .copyComplete _ => 0#32
  | .multicastDelivery _ _ => 0#32
  | .cwaitWake _ _ _ => 0#32
  | .pushMergeAtHome _ => 0#32
  | .pushFill _ _ => 0#32
  | .pushComplete _ => 0#32
  | .quotaWindowStart _ => 0#32
  | .forwardEntryExpiry _ => 0#32
  | .permitForwardExpiry _ _ => 0#32
  | .peerProbe _ _ => 0#32
  | .peerForwardRegistration _ => 0#32
  | .readRequest _ => 0#32
  | .ownershipRequest _ => 0#32
  | .homeWrite _ => 0#32
  | .writeback _ _ => 0#32
  | .dataReply _ => 0#32
  | .invalidate _ _ => 0#32
  | .recallLine _ _ => 0#32
  | .setRecall _ _ _ => 0#32
  | .filterAck _ _ _ => 0#32
  | .atomicApply _ => 0#32
  | .leaseRead _ => 0#32
  | .leaseWrite _ => 0#32
  | .heldWriteRelease _ => 0#32
  | .sweep _ _ => 0#32
  | .ptsTick _ => 0#32
  | .floorDelivery _ => 0#32
  | .tlbinvComplete _ => 0#32
  | .timerCompare _ => 0#32
  | .interruptEntry _ => 0#32
  | .wfiWake _ => 0#32
  | .sliceExpiry _ _ => 0#32
  | .debugFreezeComplete _ _ => 0#32
  | .exitRetire _ _ _ => 0#32
  | .piecePlacement _ => 0#32
  | .pieceAging _ => 0#32
  | .askForWork _ => 0#32
  | .crewMove _ _ => 0#32
  | .packageReset => 0#32
  | .isleReset _ => 0#32
  | .attestationReportReady => 0#32
  | .fabricSourceRead _ => 0#32
  | .fabricRemoteRequest _ => 0#32
  | .fabricComplete _ _ => 0#32
  | .reductionContribution _ => 0#32
  | .reductionTimeout _ => 0#32
  | .fabricUnreachable _ => 0#32
  | .rdmaPeerAccess _ => 0#32
  | .rdmaWorkCompletion _ _ => 0#32
  | .nvmeDma _ => 0#32
  | .nvmeCompletion _ _ => 0#32
  | .eccCorrected _ => 0#32
  | .eccUncorrectable _ => 0#32
  | .thermalThrottle => 0#32
  | .clusterPowerDown _ => 0#32
  | .recallDeferralExpiry _ _ => 0#32
  | .clusterPowerUp _ => 0#32
  | .fabricPortDown _ => 0#32

end Sys2Proof
end

