-- ==== Sys2Proof/Machine/Operands.lean ====
section
/-! DEFINITION. Operands: what a field of each kind reads and writes, for threads (R13 to R21, R39 to R46, R114) and for
beacon lanes (R235), and the checks of allocation and latch validity. -/

namespace Sys2Proof.Machine

/-- Whether a word that is no instruction is a mod hint with a bad payload: it binds, and makes its compound ILLEGAL
(R52). -/
def badMod (w : Word) : Bool := decide (bits w.toNat 31 26 = 0x3C)

/-- The bytes that a crew holds of its cluster's scratchpad and of its core's accumulator memory (R26): start and length of
each. -/
structure Bounds where
  spad : Nat × Nat
  acc : Nat × Nat
deriving DecidableEq, Repr

/-- The allocations of a crew, its grant included (R174, R175). -/
def Crew.bounds (w : Crew) : Bounds :=
  ⟨(4096 * w.spadBase, 4096 * (w.spadLen + w.grant.scratch)), (4096 * w.accBase, 4096 * (w.accLen + w.grant.acc))⟩

/-- The bounds of a beacon lane, which is in no crew: the memories themselves (R215, R268; DESIGN CHOICE, log 100). -/
def Bounds.whole : Bounds := ⟨(0, Config.scratchBytes), (0, Config.accBytes)⟩

/-- The limit of a segment register replaced (R26). -/
def setLimit (g : BitVec 128) (limit : Nat) : BitVec 128 := BitVec.ofNat 128 (putBits g.toNat 64 48 limit)

/-- A segment as far as it lies in an allocation, which it never reaches beyond (R26); one that begins before it has no byte. -/
def clipSeg (lo n : Nat) (g : BitVec 128) : BitVec 128 :=
  let base := bits g.toNat 47 0
  if base < lo then setLimit g 0 else setLimit g (min (bits g.toNat 111 64) (lo + n - base))

/-- Segment register `k` as far as it reaches (R26). -/
def Bounds.clip (b : Bounds) (k : Nat) (g : BitVec 128) : BitVec 128 :=
  match k with
  | 1 => clipSeg b.spad.1 b.spad.2 g
  | 2 => clipSeg b.acc.1 b.acc.2 g
  | _ => g

/-- Some segment registers as far as they reach. -/
def Bounds.clipAll (b : Bounds) (segs : List (BitVec 128)) : List (BitVec 128) :=
  setAt (setAt segs 1 (b.clip 1 (segs.getD 1 0#128))) 2 (b.clip 2 (segs.getD 2 0#128))

/-- What the threads of an issuing gang share, and which thread this is. -/
structure Ctx where
  core : Nat
  slot : Nat
  uid : Nat
  tid : Nat
  gsize : Nat
  cycle : Nat
  born : Nat
  pts : Time
  nbase : Nat
  grant : Nat
  super : Bool
  bounds : Bounds
deriving DecidableEq, Repr

/-- What an instruction raises: cause, detail and fault address (R166). -/
structure Raise where
  cause : Nat
  detail : Nat
  fault : Nat
deriving DecidableEq, Repr

/-- The causes of R166. -/
def causeIllegal : Nat := 0x01
def causeReg : Nat := 0x02
def causePriv : Nat := 0x03
def causeSeg : Nat := 0x04
def causeAlign : Nat := 0x05
def causePage : Nat := 0x06
def causeProt : Nat := 0x07
def causeLatch : Nat := 0x08
def causeFormat : Nat := 0x09
def causeScale : Nat := 0x0A
def causeCopy : Nat := 0x0B
def causeSpill : Nat := 0x0C
def causeFuture : Nat := 0x0D
def causeTask : Nat := 0x0E
def causeWatchdog : Nat := 0x0F
def causeStep : Nat := 0x10
def causeBrk : Nat := 0x11
def causeSys : Nat := 0x12
def causePreempt : Nat := 0x13
def causeMachine : Nat := 0x14
def causeFabric : Nat := 0x15
def causeResource : Nat := 0x16
def causeCollective : Nat := 0x17
def causePush : Nat := 0x18

/-! ### Threads -/

/-- Whether a register is allocated (R13). -/
def Ctx.allocated (c : Ctx) (r : Nat) : Bool := decide (r < c.nbase) || (decide (64 ≤ r) && decide (r < 64 + c.grant))

/-- A register's last value. -/
def Thread.reg (th : Thread) (r : Nat) : Word := if r = 109 then th.sp else FMap.get 0#32 th.regs r

/-- A register as an instruction reads it: within a producer's result distance the value before that producer's write or
the one after it (R46); inside a mcall the N4 waits for it (R59). -/
def Thread.seen (th : Thread) (c : Ctx) (r : Nat) : Word :=
  match th.shadows.zipIdx.find? (fun x => decide (x.1.reg = r) && decide (c.cycle < x.1.till) && th.mac.isNone &&
      Config.freePick c.cycle c.core c.slot c.tid r x.2) with
  | some x => x.1.old
  | none => th.reg r

/-- The specials of R19. -/
def Thread.special (th : Thread) (c : Ctx) (code : Nat) : Word :=
  match code with
  | 105 => BitVec.ofNat 32 c.tid
  | 106 => BitVec.ofNat 32 (c.tid % 32)
  | 107 => BitVec.ofNat 32 c.gsize
  | 108 => BitVec.ofNat 32 c.core
  | 109 => th.seen c 109
  | 110 => BitVec.setWidth 32 c.pts
  | 111 => BitVec.ofNat 32 (c.cycle - c.born)
  | _ => 0#32

/-- A latch's value (R16). -/
def Thread.latchAt (th : Thread) (k : Nat) : Word := th.latch.getD k 0#32

/-- ReadW (R114). -/
def Thread.readW (th : Thread) (c : Ctx) (o : Opnd) : Word :=
  let n := o.toNat
  if n < 96 then th.seen c n else if n < 104 then th.latchAt (n - 96) else th.special c n

/-- ReadP (R114). -/
def Thread.readP (th : Thread) (c : Ctx) (o : Opnd) : DWord :=
  let n := o.toNat
  if n = 104 then 0#64
  else if n < 96 then pair64 (th.seen c (n + 1)) (th.seen c n)
  else pair64 (th.latchAt (n - 95)) (th.latchAt (n - 96))

/-- The four registers of a Q operand (R40), the first in the low bits. -/
def Thread.readQ (th : Thread) (c : Ctx) (o : Opnd) : BitVec 128 :=
  let n := o.toNat
  pair64 (th.seen c (n + 3)) (th.seen c (n + 2)) ++ pair64 (th.seen c (n + 1)) (th.seen c n)

/-- The registers that a field names under R13. -/
def useRegs (u : OpndUse) : List Nat :=
  let n := u.code.toNat
  if n < 96 then
    match u.kind with
    | .ws => [n]
    | .wd => [n]
    | .ps => [n, n + 1]
    | .pd => [n, n + 1]
    | .q => [n, n + 1, n + 2, n + 3]
  else []

/-- The latches that a field reads (R17). -/
def useLatches (u : OpndUse) : List Nat :=
  let n := u.code.toNat
  if 96 ≤ n ∧ n < 104 then (if u.kind = .ps then [n - 96, n - 95] else [n - 96]) else []

/-- One of several, by a free index. -/
def pickOne {α : Type} (d : α) (l : List α) (k : Nat) : α :=
  match l with
  | [a] => a
  | _ => l.getD (k % l.length) d

/-- REG, then LATCH, on the fields of an instruction (R13, R17, R39, R167). -/
def operandTrap (c : Ctx) (uses : List OpndUse) (th : Thread) : Option Raise :=
  let bad := (uses.filter (fun u => (useRegs u).any (fun r => !c.allocated r))).map (fun u => u.code.toNat)
  let dead := (uses.map useLatches).flatten.filter (fun k => !bit th.lvalid.toNat k)
  if bad ≠ [] then some ⟨causeReg, pickOne 0 bad (Config.freeOffender c.cycle c.core c.slot c.tid), 0⟩
  else if dead ≠ [] then some ⟨causeLatch, pickOne 0 dead (Config.freeOffender c.cycle c.core c.slot c.tid), 0⟩
  else none

/-- A register's value replaced, with no result distance: a load's data or a collective's result. -/
def Thread.putReg (th : Thread) (r : Nat) (v : Word) : Thread :=
  if r = 109 then { th with sp := v } else { th with regs := th.regs.put r v }

/-- A result written (R39, R46): the old value may be read until the distance has passed, but for the results of an
mcall, on which the N4 interlocks (R59). -/
def Thread.result (th : Thread) (c : Ctx) (dist r : Nat) (v : Word) : Thread :=
  let old := th.reg r
  let sh := th.shadows.filter (fun x => decide (c.cycle < x.till))
  { th.putReg r v with shadows := if th.mac.isSome then sh else ⟨r, old, c.cycle + dist⟩ :: sh }

/-- A register written without a result distance: none of its older values is read any more. -/
def Thread.setReg (th : Thread) (r : Nat) (v : Word) : Thread :=
  { th.putReg r v with shadows := th.shadows.filter (fun x => decide (x.reg ≠ r)) }

/-- A result shifted into the latches (R16, R17): it is valid inside a hold window or a mcall. -/
def Thread.shift (th : Thread) (c : Ctx) (dist : Nat) (v : Word) : Thread :=
  let ok := th.win.isSome || th.mac.isSome
  { th with latch := (v :: th.latch).take 8, lvalid := (th.lvalid <<< 1) ||| (if ok then 1#8 else 0#8),
            ltime := ((c.cycle + dist) :: th.ltime).take 8 }

/-- Every latch is invalid (R17, R18). -/
def Thread.clearLatches (th : Thread) : Thread := { th with lvalid := 0#8 }

/-! ### Beacon lanes -/

/-- A b register (R234). -/
def Lane.breg (l : Lane) (n : Nat) : DWord := FMap.get 0#64 l.b n

/-- A W source of a beacon lane (R235). -/
def Lane.readW (l : Lane) (core cycle : Nat) (pts : Time) (o : Opnd) : Word :=
  let n := o.toNat
  if n < 32 then lo32 (l.breg n)
  else
    match n with
    | 107 => 1#32
    | 108 => BitVec.ofNat 32 core
    | 109 => l.sp
    | 110 => BitVec.setWidth 32 pts
    | 111 => BitVec.ofNat 32 cycle
    | _ => 0#32

/-- A P source of a beacon lane (R235). -/
def Lane.readP (l : Lane) (o : Opnd) : DWord := if o.toNat < 32 then l.breg o.toNat else 0#64

/-- A Q source of a beacon lane (R235). -/
def Lane.readQ (l : Lane) (o : Opnd) : BitVec 128 :=
  let n := o.toNat
  pair64 (lo32 (l.breg (n + 3))) (lo32 (l.breg (n + 2))) ++ pair64 (lo32 (l.breg (n + 1))) (lo32 (l.breg n))

/-- A b register written. -/
def Lane.setB (l : Lane) (n : Nat) (v : DWord) : Lane := { l with b := FMap.set 0#64 l.b n v }

/-- A W destination of a beacon lane (R235): zero-extended, or sp. -/
def Lane.writeW (l : Lane) (o : Opnd) (v : Word) : Lane :=
  if o.toNat = 109 then { l with sp := v } else l.setB o.toNat (BitVec.setWidth 64 v)

/-- A P destination of a beacon lane (R235). -/
def Lane.writeP (l : Lane) (o : Opnd) (v : DWord) : Lane := l.setB o.toNat v

/-! ### Results of the R, F and I classes -/

/-- How an instruction of the R, F and I classes reads its operands, and the fields of its binding hints. -/
structure Reads where
  w : Opnd → Word
  p : Opnd → DWord
  /-- the immediate of R128: zero-extended where the flag says so -/
  imm : Bool → BitVec 10 → Word
  round : Round
  sat : Bool
  ftz : Bool

/-- A result of 32 or of 64 bits. -/
inductive Res where
  | w (v : Word)
  | p (v : DWord)
deriving DecidableEq, Repr

/-- The immediate of an I-class instruction (R51, R128). -/
def formImm (bound : Option (BitVec 26)) (zext : Bool) (imm : BitVec 10) : Word :=
  match bound with
  | some x => BitVec.extractLsb' 0 22 x ++ imm
  | none => if zext then BitVec.setWidth 32 imm else BitVec.signExtend 32 imm

/-- The operands of a thread. -/
def Thread.reads (th : Thread) (c : Ctx) : Reads :=
  let m := th.bind.bind (fun b => b.mod)
  { w := th.readW c, p := th.readP c, imm := fun z i => formImm (th.bind.bind (fun b => b.imm)) z i,
    round := (m.map (fun x => x.round)).getD .rne, sat := (m.map (fun x => x.sat)).getD false,
    ftz := (m.map (fun x => x.ftz)).getD false }

/-- The operands of a beacon lane. -/
def Lane.reads (l : Lane) (core cycle : Nat) (pts : Time) : Reads :=
  { w := l.readW core cycle pts, p := l.readP, imm := fun z i => formImm (l.bind.bind (fun b => b.imm)) z i,
    round := .rne, sat := false, ftz := false }

/-- A result written to `d` unless nw, and shifted into the latches (R16, R39, R114). -/
def Thread.writeResult (th : Thread) (c : Ctx) (dist : Nat) (nw : Bool) (d : Opnd) (r : Res) : Thread :=
  match r with
  | .w v => ((if nw then th else th.result c dist d.toNat v).shift c dist v)
  | .p v =>
    ((if nw then th else (th.result c dist d.toNat (lo32 v)).result c dist (d.toNat + 1) (hi32 v)).shift c dist
      (hi32 v)).shift c dist (lo32 v)

/-- A result of a beacon lane's instruction (R235); a lane has no latches. -/
def Lane.writeResult (l : Lane) (nw : Bool) (d : Opnd) (r : Res) : Lane :=
  if nw then l
  else
    match r with
    | .w v => l.writeW d v
    | .p v => l.writeP d v

end Sys2Proof.Machine
end

