-- ==== Sys2Proof/Machine/Translate.lean ====
section
/-! DEFINITION. Page-table walks, TLBs and the checks on an access (R148, R149, R170, R238, R310 to R312, R325). -/

namespace Sys2Proof.Machine

/-- What a walk finds (R311): a leaf with its level, or the level of an absent entry and whether it is malformed. -/
inductive Walk where
  | leaf (t : Tlb) (level : Nat)
  | absent (level : Nat) (mal : Bool)
deriving DecidableEq, Repr

/-- The bits of an address that a leaf of a level leaves to the page (R311). -/
def levelBits (level : Nat) : Nat := 12 + 9 * (3 - level)

/-- Whether a valid entry is malformed at a level (R311). -/
def malformed (e level : Nat) : Bool :=
  let leaf := bit e 7
  let cont := bit e 60
  let pa := bits e 47 12
  let small := bits e 63 56 ≠ 0 || bits e 6 1 ≠ 0
  bits e 55 48 ≠ 0 || bits e 2 1 ≠ 0 || (leaf && decide (bits e 62 61 = 3)) || (leaf && decide (level = 0)) ||
    (!leaf && decide (level = 3)) || (cont && !(leaf && decide (level = 3))) ||
    (leaf && decide (level = 1) && decide (pa % 2 ^ 18 ≠ 0)) ||
    (leaf && decide (level = 2) && decide (pa % 2 ^ 9 ≠ 0)) || (cont && decide (pa % 2 ^ 4 ≠ 0)) || (!leaf && small)

/-- The translation of a leaf entry (R310). -/
def leafOf (e level va : Nat) : Tlb :=
  let n := if bit e 60 then 16 else levelBits level
  { vbase := va / 2 ^ n * 2 ^ n, bits := n, pbase := bits e 47 12 * 4096, u := bit e 6, x := bit e 5, w := bit e 4,
    r := bit e 3,
    mode := match bits e 62 61 with
      | 0 => .dir
      | 1 => .selfInv
      | _ => .uncached,
    sc := bit e 63, lease := if bits e 59 56 = 0 then 10 else 2 ^ bits e 59 56 }

/-- The physical address of a virtual one under a translation. -/
def Tlb.pa (t : Tlb) (va : Nat) : Nat := t.pbase + (va - t.vbase)

/-- Whether a translation covers a virtual address. -/
def Tlb.covers (t : Tlb) (va : Nat) : Bool := decide (t.vbase ≤ va) && decide (va < t.vbase + 2 ^ t.bits)

/-- Eight bytes of a page table, read at their home (R325); an address above HBM reads as zero. -/
def State.readEntry (s : State) (pa : Nat) : Nat := if hbmEnd ≤ pa then 0 else s.peekNat pa 8

/-- The entry that translates an address of a 64 KiB page (R311): its own, or when the sixteen differ any of them. -/
def State.contEntry (s : State) (i table va e : Nat) : Nat :=
  let first := table + 8 * (bits va 20 12 / 16 * 16)
  let all := (List.range 16).map (fun k => s.readEntry (first + 8 * k))
  if all.all (fun x => decide (x = e)) then e
  else
    let p := all.getD (Config.freeCont i (va / 2 ^ 16) % 16) e
    if bit p 0 && bit p 60 && !malformed p 3 then p else e

/-- A walk from a table at a level, with the levels still to go as fuel (R311, R325): every entry is read anew, none of the levels above
the leaf is kept (DESIGN CHOICE, log 13). -/
def State.walkFrom (s : State) (i va : Nat) : Nat → Nat → Nat → Walk
  | 0, level, _ => .absent level false
  | fuel + 1, level, table =>
    let e := s.readEntry (table + 8 * bits va (levelBits level + 8) (levelBits level))
    if !bit e 0 then .absent level false
    else if malformed e level then .absent level true
    else if bit e 7 then .leaf (leafOf (if bit e 60 then s.contEntry i table va e else e) level va) level
    else s.walkFrom i va fuel (level + 1) (bits e 47 12 * 4096)

/-- A walk of an isle's page table (R310). -/
def State.walk (s : State) (i va : Nat) : Walk := s.walkFrom i va 4 0 (bits (s.isle i).ptroot.toNat 47 12 * 4096)

/-- The tables' lines that a walk from a level reads (R311, R325). -/
def State.walkLines (s : State) (va : Nat) : Nat → Nat → Nat → List Nat
  | 0, _, _ => []
  | fuel + 1, level, table =>
    let pa := table + 8 * bits va (levelBits level + 8) (levelBits level)
    let e := s.readEntry pa
    lineOf pa :: (if bit e 0 && !malformed e level && !bit e 7 then s.walkLines va fuel (level + 1) (bits e 47 12 * 4096) else [])

/-- The lines that a walk reads at their homes while an L1 owns them: each is taken back, to S, in the order of arrival (R315, R325). -/
def State.recallTables (s : State) (i va : Nat) : State :=
  let owned := (s.walkLines va 4 0 (bits (s.isle i).ptroot.toNat 47 12 * 4096)).filter (fun n =>
    (s.ownerCopy n).isSome && !s.dutyAt n)
  { s with duties := s.duties ++ owned.map (fun n => Duty.recall (128 * n)) }

/-- The translations that a core holds for instruction fetch, or for data (R325). -/
def Core.tlbFor (c : Core) (fetch : Bool) : List Tlb := if fetch then c.itlb else c.tlb

/-- The translation that a core's TLB for fetch or for data holds. -/
def State.tlbFind (s : State) (fetch : Bool) (core va : Nat) : Option Tlb :=
  ((s.core core).tlbFor fetch).find? (fun t => t.covers va)

/-- The translation that a core's data TLB holds. -/
def State.tlbHit (s : State) (core va : Nat) : Option Tlb := s.tlbFind false core va

/-- The translation that a fetch or an access of a core uses (R325): the TLB's, or a walk's. -/
def State.translateFor (s : State) (fetch : Bool) (core i va : Nat) : Walk :=
  match s.tlbFind fetch core va with
  | some t =>
    match s.walk i va with
    | .leaf u level => if u = t then .leaf t level else if Config.freeTlb s.cycle core (va / 4096) then .leaf t 3
        else .leaf u level
    | .absent level mal => if Config.freeTlb s.cycle core (va / 4096) then .leaf t 3 else .absent level mal
  | none => s.walk i va

/-- The translation that a data access of a core uses (R325). -/
def State.translate (s : State) (core i va : Nat) : Walk := s.translateFor false core i va

/-- A translation put among others, in the place of those it overlaps. -/
def putTlb (t : Tlb) (l : List Tlb) : List Tlb := t :: l.filter (fun x => !x.covers t.vbase && !t.covers x.vbase)

/-- A core after a walk (R325): its leaf is installed in the TLB for fetch or for data, and no absent entry is; the walk has acquired
at package scope, from page tables that lie on no leased line (R342). -/
def State.walked (s : State) (fetch : Bool) (core : Nat) (t : Tlb) : State :=
  (s.onCore core (fun c => if fetch then { c with itlb := putTlb t c.itlb } else { c with tlb := putTlb t c.tlb })).dropLeased
    (clusterOf core)

/-- A core that has used a translation: one that its TLB does not hold has been walked for (R325). -/
def State.noteUse (s : State) (fetch : Bool) (core va : Nat) (t : Tlb) : State :=
  if s.tlbFind fetch core va = some t then s else (s.recallTables (s.isleNo core) va).walked fetch core t

/-- A core after a translation that was asked for, whatever becomes of the access (R325): a walk that finds no leaf acquires too. -/
def State.noteWalk (s : State) (fetch : Bool) (core va : Nat) : State :=
  match s.translateFor fetch core (s.isleNo core) va with
  | .leaf t _ => s.noteUse fetch core va t
  | .absent _ _ => (s.recallTables (s.isleNo core) va).dropLeased (clusterOf core)

/-- The address that was translated before a trap was found, and whether it was a fetch's (R149, R170, R377): PAGE, PROT and MACHINE
name a virtual space in their detail, FUTURE is of space 0. -/
def Raise.translated (r : Raise) : Option (Bool × Nat) :=
  if (r.cause = causePage ∨ r.cause = causeProt ∨ r.cause = causeMachine) ∧ [0, 3, 4, 5, 6].contains (bits r.detail 31 29) then
    some (bit r.detail 24, r.fault)
  else if r.cause = causeFuture then some (false, r.fault)
  else none

/-- A core after an access that trapped: what it translated was walked for (R325). -/
def State.trapWalk (s : State) (core : Nat) (r : Raise) : State :=
  match r.translated with
  | some (fetch, va) => s.noteWalk fetch core va
  | none => s

/-- The memory detail word (R170). -/
def memDetail (seg size : Nat) (wr fetch lvl : Bool) (walk cls op : Nat) (defer : Bool) (mac : Option Nat) : Nat :=
  seg * 2 ^ 29 + size * 2 ^ 26 + b2n wr * 2 ^ 25 + b2n fetch * 2 ^ 24 + b2n lvl * 2 ^ 23 + walk * 2 ^ 21 + cls * 2 ^ 18
    + op * 2 ^ 12 + b2n defer * 2 ^ 11 + (match mac with | some k => 32 + k % 32 | none => 0)

/-- Who makes an access: core, isle, whether in user mode, whether a beacon lane in M mode, the operation of an mcall, and the
allocations that its segments reach (R26). -/
structure Viewer where
  core : Nat
  isle : Nat
  user : Bool
  mmode : Bool
  segs : List (BitVec 128)
  mac : Option Nat
  bounds : Bounds
deriving DecidableEq, Repr

/-- An access to be checked: space, size in bytes, the permissions it needs, and its detail fields. -/
structure Want where
  seg : Nat
  n : Nat
  rd : Bool
  wr : Bool
  ex : Bool
  size : Nat
  cls : Nat
  op : Nat
deriving DecidableEq, Repr

/-- A formed address (R148): the address used, whether the access is inside its segment, and the SEG fault address. -/
structure Formed where
  addr : Nat
  inside : Bool
  fault : Nat
deriving DecidableEq, Repr

/-- A segment register's limit, base and bits (R22). -/
def segLimit (g : BitVec 128) : Nat := bits g.toNat 111 64
def segBase (g : BitVec 128) : Nat := bits g.toNat 47 0
def segS (g : BitVec 128) : Bool := bit g.toNat 115
def segX (g : BitVec 128) : Bool := bit g.toNat 114
def segW (g : BitVec 128) : Bool := bit g.toNat 113
def segR (g : BitVec 128) : Bool := bit g.toNat 112

/-- Segment register `k` of an accessor, as far as it reaches. -/
def Viewer.seg (v : Viewer) (k : Nat) : BitVec 128 := v.bounds.clip k (v.segs.getD k 0#128)

/-- The address of R148: `a` is the pair's value for space 0 and the W operand's for the others, `off` the bound
offset. Only the virtual addresses are reduced modulo 2^48; a negative sum of another space, which lea alone can show, is
one of 64 bits (log 108). -/
def formAddr (g : BitVec 128) (seg n : Nat) (a : Nat) (off : Int) : Formed :=
  if seg = 0 then
    let va := wrap 48 ((a % 2 ^ 48 : Nat) + off)
    { addr := va, inside := decide (segBase g ≤ va) && decide (va + n ≤ segBase g + segLimit g), fault := va }
  else
    let o : Int := (a : Int) + off
    { addr := wrap (if 3 ≤ seg ∧ seg ≤ 6 then 48 else 64) ((segBase g : Int) + o), inside := decide (0 ≤ o) && decide (o + n ≤ segLimit g),
      fault := wrap 48 o }

/-- An access that has passed its checks: the address used, the physical address (or SRAM offset), the translation. -/
structure Hit where
  addr : Nat
  pa : Nat
  page : Option Tlb
deriving DecidableEq, Repr

/-- The mode of an M-mode access (R238): HBM is directory-tracked, all above it uncached. -/
def mPage (pa : Nat) : Tlb :=
  { vbase := pa / 4096 * 4096, bits := 12, pbase := pa / 4096 * 4096, u := true, x := true, w := true, r := true,
    mode := if pa < hbmEnd then .dir else .uncached, sc := false, lease := 10 }

/-- The detail word of an access. -/
def Viewer.detail (v : Viewer) (w : Want) (lvl : Bool) (walk : Nat) : Nat :=
  memDetail w.seg w.size w.wr w.ex lvl walk w.cls w.op false v.mac

/-- Whether the S bit refuses an access (R149 step 1). -/
def Viewer.sRefuses (v : Viewer) (w : Want) : Bool := v.user && segS (v.seg w.seg)

/-- Steps 5 and 6 of R149 for a formed address in spaces 0 and 3 to 6. -/
def State.checkPage (s : State) (v : Viewer) (w : Want) (addr : Nat) : Except Raise Hit :=
  let g := v.seg w.seg
  let segOk := (!w.rd || segR g) && (!w.wr || segW g) && (!w.ex || segX g)
  if v.mmode then
    if segOk then .ok ⟨addr, addr, some (mPage addr)⟩ else .error ⟨causeProt, v.detail w true 0, addr⟩
  else
    match s.translateFor w.ex v.core v.isle addr with
    | .absent level _ => .error ⟨causePage, v.detail w false level, addr⟩
    | .leaf t _ =>
      if !segOk then .error ⟨causeProt, v.detail w true 0, addr⟩
      else
        let pageOk := (!w.rd || t.r) && (!w.wr || t.w) && (!w.ex || t.x) && (!v.user || t.u) &&
          s.inPartition v.isle (t.pa addr)
        if pageOk then .ok ⟨addr, t.pa addr, some t⟩ else .error ⟨causeProt, v.detail w false 0, addr⟩

/-- Steps 3 to 6 of R149 for a formed address. A PROT of spaces 1, 2 and 7, which have no virtual address, reports the address of R148
(DEDUCED, log 115). -/
def State.checkFormed (s : State) (v : Viewer) (w : Want) (f : Formed) : Except Raise Hit :=
  let g := v.seg w.seg
  if !f.inside then .error ⟨causeSeg, v.detail w false 0, f.fault⟩
  else if f.addr % w.n ≠ 0 then .error ⟨causeAlign, v.detail w false 0, f.addr⟩
  else if w.seg = 1 ∨ w.seg = 2 ∨ w.seg = 7 then
    if (!w.rd || segR g) && (!w.wr || segW g) then .ok ⟨f.addr, f.addr, none⟩
    else .error ⟨causeProt, v.detail w true 0, f.addr⟩
  else s.checkPage v w f.addr

/-- A core whose engine has taken translations for its own use (R325). -/
def State.notePages (s : State) (core : Nat) (l : List Tlb) : State :=
  l.foldl (fun (u : State) t => u.noteUse false core t.vbase t) s

/-- The core after a fetch or an access that passed its checks (R325). -/
def State.noteFor (s : State) (fetch : Bool) (v : Viewer) (h : Hit) : State :=
  match h.page with
  | some t => if v.mmode then s else s.noteUse fetch v.core h.addr t
  | none => s

/-- The core after an access that passed its checks (R325). -/
def State.noteHit (s : State) (v : Viewer) (h : Hit) : State := s.noteFor false v h

end Sys2Proof.Machine
end

