-- ==== Sys2Proof/Machine/Ops.lean ====
section
/-! DEFINITION. What every issued instruction does around its own effect: the window it opens, the checks before it,
taking a trap, going on to the next word, what the rest of the gang does (R32, R43 to R50, R142, R164 to R171, R185),
and the beacon lane's exceptions and returns (R239 to R241). -/

namespace Sys2Proof.Machine

/-! ### Words and their classes -/

/-- The class of an instruction's word (R38). -/
def clsOf (i : Instr) : Nat := bits (encode i).toNat 31 29

/-- The op field of an instruction's word, by class (R38, R170). -/
def opOf (i : Instr) : Nat :=
  match clsOf i with
  | 3 => bits (encode i).toNat 28 24
  | 4 => bits (encode i).toNat 28 23
  | 5 => bits (encode i).toNat 28 25
  | 6 => bits (encode i).toNat 28 23
  | _ => bits (encode i).toNat 28 22

/-- Whether an instruction is last-only (R48). -/
def lastOnly (i : Instr) : Bool :=
  match clsOf i with
  | 3 => decide (opOf i = 1) || decide (opOf i = 3) || decide (opOf i = 7)
  | 4 => true
  | 5 => decide (4 ≤ opOf i) && decide (opOf i ≤ 9)
  | 6 => true
  | _ => false

/-- The privileges of R68. -/
inductive Priv where
  | u | s | b
deriving DecidableEq, Repr

/-- The privilege an instruction needs (R65, R68). -/
def privOf (i : Instr) : Priv :=
  match i with
  | .segld _ _ => .s
  | .eret => .b
  | .qpop _ _ _ => .b
  | .qret _ => .s
  | .kgo _ _ => .b
  | .mload _ _ => .s
  | .ipi _ _ => .b
  | .wfi => .b
  | .preempt _ => .s
  | .csave _ _ => .s
  | .crestore _ _ => .s
  | .scgset _ _ => .s
  | .tlbinv _ _ => .s
  | .atp _ _ => .s
  | .tmove _ _ => .s
  | _ => .u

/-- Whether an imm hint may bind to an instruction (R51): M-class forms, I-class forms, and I-class shifts. -/
def immOk (i : Instr) (payload : BitVec 26) : Bool :=
  match clsOf i with
  | 2 =>
    decide (bits payload.toNat 25 22 = 0) &&
      (!(decide (6 ≤ bits (encode i).toNat 28 25) && decide (bits (encode i).toNat 28 25 ≤ 8)) ||
        decide (payload.toNat = 0))
  | 3 => decide (opOf i ≤ 5)
  | _ => false

/-- Whether the cache field of a mod hint applies to an instruction (R52). -/
def cacheApplies (i : Instr) : Bool :=
  match clsOf i with
  | 3 => decide (opOf i ≤ 4)
  | 4 => decide (opOf i = 0x1E) || decide (opOf i = 0x1F)
  | _ => false

/-- Whether a mod hint may bind to an instruction (R52). -/
def modOk (i : Instr) (m : ModBits) : Bool :=
  let plain := decide (m.round = .rne) && !m.sat && !m.ftz
  decide (clsOf i ≤ 4) && (plain || decide (clsOf i = 1)) && (decide (m.cache = 0) || cacheApplies i)

/-- Whether an fmt hint may bind to an instruction (R53). -/
def fmtOk (i : Instr) : Bool :=
  match i with
  | .mma _ p _ => decide (p = 104#7)
  | _ => false

/-- Whether the hints bound to an instruction make the compound ILLEGAL (R51 to R53). -/
def badBind (i : Instr) (b : Option Bind) : Bool :=
  match b with
  | none => false
  | some b =>
    (match b.imm with | some x => !immOk i x | none => false) ||
      (match b.mod with | some m => !modOk i m | none => false) ||
      (match b.fmt with | some _ => !fmtOk i | none => false) || b.bad

/-- The detail word that is the instruction's word (R166). -/
def wordOf (i : Instr) : Nat := (encode i).toNat

/-! ### Traps of threads -/

/-- The PC of a thread's instruction: the mcall's, or the compound's (R43, R59). -/
def Thread.pcOf (th : Thread) : Word :=
  match th.mac with
  | some m => m.pc
  | none =>
    match th.bind with
    | some b => b.start
    | none => th.pc

/-- Nothing of a hold window, mcall sequence, coverage or binding is left; every latch is invalid (R18, R45). -/
def Thread.cleared (th : Thread) : Thread :=
  { th with win := none, mac := none, cover := none, bind := none, lvalid := 0#8 }

/-- The detail word inside a mcall (R59): causes with no memory detail carry the operation's index. -/
def Thread.macDetail (th : Thread) (r : Raise) : Nat :=
  match th.mac with
  | some m => if r.cause = causeReg ∨ r.cause = causeLatch ∨ r.cause = causeIllegal then m.idx else r.detail
  | none => r.detail

/-- A thread trapped with given trap and resume PCs (R32, R171): its record is due unless it is a PREEMPT stop
(R248), its reservation and its latches are gone; a WATCHDOG that it passes over stays due (R168). `since` is the cycle in
which its gang issued, where that is known. -/
def Thread.trapWith (th : Thread) (r : Raise) (tpc rpc : Word) (since : Option Nat) : Thread :=
  { th.cleared with
    life := .trapped
    trap := some
      { cause := r.cause, tpc := tpc, rpc := rpc, fault := BitVec.ofNat 48 r.fault,
        detail := BitVec.ofNat 32 (th.macDetail r), win := th.win.map (fun w => w.pos),
        record := if r.cause = causePreempt then .never else .due, mark := 0, since := since }
    rsv := none, skip := false, lastIssue := none, stepDue := false,
    wdcount := if r.cause = causeSys then 0 else th.wdcount
    wdDue := th.wdDue && decide (r.cause ≠ causeWatchdog) }

/-- TAKING A TRAP: a precise trap of the instruction at hand (R32, R166, R171). -/
def Thread.takeTrap (th : Thread) (r : Raise) : Thread :=
  th.trapWith r th.pcOf (match th.win with | some w => w.first | none => th.pcOf) none

/-- A boundary trap (R32, R168): no instruction is named; its gang is that of the thread's last instruction (log 91). -/
def Thread.takeBoundary (th : Thread) (r : Raise) : Thread := th.trapWith r th.pcOf th.pcOf th.lastIssue

/-- RETURN from a trap (R171, R252): the thread is Ready at `pc`, outside any window, with no latch and no reservation,
its watchdog count and age at 0, and every result of an earlier instruction written. A WATCHDOG or PREEMPT that its trap passed
over stays due (R168). -/
def Thread.resume (th : Thread) (pc : Word) : Thread :=
  { th.cleared with
    life := .ready, trap := none, pc := pc, rsv := none, age := 0, wdcount := 0, lastIssue := none, shadows := [],
    skip := false, stepDue := false }

/-- A parked thread wakes (R34). -/
def Thread.wake (th : Thread) : Thread :=
  match th.life with
  | .parked _ => { th with life := .ready }
  | .frozen (some _) => { th with life := .frozen none }
  | _ => th

/-- Whether a thread is present in member sets (R196). -/
def Thread.present (th : Thread) : Bool :=
  match th.life with
  | .trapped => false
  | .exited => false
  | _ => true

/-! ### What an issued instruction comes to for a thread -/

/-- The end of an instruction's own effect for one thread: on to the next word, a taken transfer, a trap, not issued
after all, parked (`again`: it issues again when it wakes), retiring, waiting as a signer, or yielding. -/
inductive Eff where
  | next
  | jump (pc : Word)
  | trap (r : Raise)
  | stall
  | park (p : Park) (again : Bool)
  | leave
  | sign (cv dst flag : Nat)
  | skip
  /-- the thread is as the effect left it: an mcall that has begun -/
  | keep
  /-- on to the next word, at a progress point (R263) -/
  | progress
  /-- a trap that leaves what the effect did to the machine: a skipped serial number (R361) -/
  | trapOn (r : Raise)
  /-- on to the next word, whose issue waits for these flags (R188) -/
  | waitFlags (mask : BitVec 12)
deriving DecidableEq, Repr

/-- A hold window opens at the first instruction covered by a hold hint (R17, R47); so it does at a word that is no instruction, whose
trap then resumes at the hint (DESIGN CHOICE, log 102). -/
def Thread.openWin (th : Thread) (cycle : Nat) : Thread :=
  match th.cover with
  | some v =>
    if v.hold && decide (v.dists.length = 4) && th.win.isNone && th.mac.isNone then
      { th with win := some ⟨v.pc, 0, cycle⟩, lvalid := 0#8 }
    else th
  | none => th

/-- An instruction has completed (R11, R42 to R48, R263): the PC moves on, coverage, window and watchdog count follow.
`sched` is the hold bit of a sched hint at the next word, if one stands there. -/
def Thread.account (th : Thread) (cycle : Nat) (last : Bool) (next : Word) (taken : Bool) (sched : Option Bool) :
    Thread :=
  let left := match th.cover with
    | some v => v.dists.tail
    | none => []
  let cov := match th.cover with
    | some v => if taken || left.isEmpty then none else some { v with dists := left, wait := 0#12 }
    | none => none
  let yld := match th.cover with
    | some v => v.yld && (taken || left.isEmpty || sched.isSome)
    | none => false
  let win := match th.win with
    | some w =>
      let stay := match sched with
        | some h => h
        | none => cov.isSome
      if !taken && !last && decide (w.pos + 1 < 16) && stay then some { w with pos := w.pos + 1 } else none
    | none => none
  { th with pc := next, cover := cov, win := win, lvalid := if win.isSome then th.lvalid else 0#8,
            skip := th.skip || yld, lastIssue := some cycle, age := 0, wdcount := th.wdcount + 1, bind := none,
            waitMask := 0#12,
            stepDue := th.step && win.isNone,
            live := th.live.map (fun r => { r with active := false }) }

/-- An operation of a mcall has completed (R59): on to the next, or after the last past the mcall. -/
def Thread.macNext (th : Thread) (cycle : Nat) (m : Mac) (sched : Option Bool) : Thread :=
  if m.idx + 1 < m.len then { th with
    mac := some { m with idx := m.idx + 1 }, bind := none, lastIssue := some cycle, age := 0 }
  else { th with mac := none, lvalid := 0#8 }.account cycle false (m.pc + 1) false sched

/-- A thread parks (R34, R156, R263). -/
def Thread.parkAt (th : Thread) (p : Park) : Thread := { th with life := .parked p, rsv := none, wdcount := 0 }

/-- The thread after its instruction, apart from a trap or a stall. -/
def Thread.settle (th : Thread) (cycle : Nat) (i : Instr) (sched : Word → Option Bool) (e : Eff) : Thread :=
  match e with
  | .next =>
    match th.mac with
    | some m => th.macNext cycle m (sched (m.pc + 1))
    | none => th.account cycle (lastOnly i) (th.pc + 1) false (sched (th.pc + 1))
  | .jump pc => th.account cycle (lastOnly i) pc true (sched pc)
  | .trap r => th.takeTrap r
  | .stall => th
  | .park p true => { th with win := none, lvalid := 0#8, bind := none, pc := th.pcOf, age := 0 }.parkAt p
  | .park p false => (th.account cycle true (th.pc + 1) false (sched (th.pc + 1))).parkAt p
  | .leave => { th.account cycle true (th.pc + 1) false (sched (th.pc + 1)) with
      leaving := true, rsv := none, wdcount := 0, stepDue := false }
  | .sign cv dst flag => { th.account cycle true (th.pc + 1) false (sched (th.pc + 1)) with life := .issuing cv dst flag }
  | .skip => { th.account cycle true (th.pc + 1) false (sched (th.pc + 1)) with skip := true }
  | .trapOn r => th.takeTrap r
  | .keep => th
  | .progress => { th.account cycle true (th.pc + 1) false (sched (th.pc + 1)) with wdcount := 0 }
  | .waitFlags mask => { th.account cycle true (th.pc + 1) false (sched (th.pc + 1)) with waitMask := mask }

/-! ### Gangs -/

/-- The context of a thread of a crew. -/
def State.ctx (s : State) (core slot : Nat) (w : Crew) (gsize tid : Nat) : Ctx :=
  { core := core, slot := slot, uid := w.uid, tid := tid, gsize := gsize, cycle := s.cycle,
    born := (s.core core).born, pts := (s.core core).pts, nbase := w.nbase, grant := 8 * w.grant.regs, super := w.super,
    bounds := w.bounds }

/-- Who a thread is for the checks on its accesses. -/
def State.viewer (s : State) (c : Ctx) (th : Thread) : Viewer :=
  { core := c.core, isle := s.isleNo c.core, user := !c.super, mmode := false, segs := th.segs,
    mac := th.mac.map (fun m => m.idx), bounds := c.bounds }

/-- The cluster's copy that serves a fetch: a load of space 5 goes through the L1 (R161, R271). -/
def State.fetchCopy (s : State) (core : Nat) (h : Hit) : Option L1Line :=
  match h.page, s.copyOf (clusterOf core) (lineOf h.pa) with
  | some t, some x => if !t.sc && s.serves core t.mode x then some x else none
  | _, _ => none

/-- The four bytes that a fetch reads, and whether they are poisoned: from the cluster's L1, else as they stand at their home. -/
def State.fetchData (s : State) (core : Nat) (h : Hit) : Nat × Bool :=
  match s.fetchCopy core h with
  | some x => (getData x.data (h.pa % 128) 4, x.bad h.pa 4)
  | none => (s.peekNat h.pa 4, s.peekPoison h.pa 4)

/-- Where a thread's fetch at a PC goes, or the trap of the fetch (R11, R169). -/
def State.fetchHit (s : State) (v : Viewer) (pc : Word) : Except Raise Hit :=
  let g := v.seg 5
  let d (lvl : Bool) (walk : Nat) : Nat := memDetail 5 4 false true lvl walk 0 0 false none
  if v.user && segS g then .error ⟨causePriv, d false 0, (segBase g + 4 * pc.toNat) % 2 ^ 48⟩
  else if 4 * pc.toNat + 4 > segLimit g then .error ⟨causeSeg, d false 0, pc.toNat⟩
  else
    let want : Want := { seg := 5, n := 4, rd := false, wr := false, ex := true, size := 4, cls := 0, op := 0 }
    match s.checkPage { v with mac := none } want ((segBase g + 4 * pc.toNat) % 2 ^ 48) with
    | .error r => .error (if r.cause = causeProt ∧ segX g = false then { r with fault := pc.toNat } else r)
    | .ok h => if (s.fetchData v.core h).2 then .error ⟨causeMachine, d false 0, h.addr⟩ else .ok h

/-- The word that a thread fetches at a PC, or the trap of its fetch (R11). -/
def State.fetchWord (s : State) (v : Viewer) (pc : Word) : Except Raise Word :=
  match s.fetchHit v pc with
  | .error r => .error r
  | .ok h => .ok (BitVec.ofNat 32 (s.fetchData v.core h).1)

/-- The hold bit of a sched hint that stands at a PC (R47). -/
def State.schedAt (s : State) (v : Viewer) (pc : Word) : Option Bool :=
  match s.fetchWord v pc with
  | .error _ => none
  | .ok w =>
    match decodeThread w with
    | some (.sched _ hold _ _ _ _ _) => some hold
    | _ => none

/-- The hold bit of a sched hint at a PC, where it can matter: in a window, or under a yield. -/
def State.schedFor (s : State) (c : Ctx) (th : Thread) (pc : Word) : Option Bool :=
  if th.win.isSome || (th.cover.map (fun v => v.yld)).getD false then s.schedAt (s.viewer c th) pc else none

/-- Whether a word is an mcall's, well formed or not (R59). -/
def isMcall (i : Instr) : Bool :=
  match i with
  | .mcall _ _ _ => true
  | .illegalWord w => decide (bits w.toNat 31 25 = 90)
  | _ => false

/-- A thread about to trap on an instruction: an mcall in a hold window closes the window first (R48, R59). -/
def Thread.trapSite (th : Thread) (i : Instr) : Thread := if isMcall i then { th with win := none } else th

/-- The first trap before an instruction's own effect (R167): bound hints, privilege, what `pre` names (PRIV of an
access or control register, or ILLEGAL), then operands. -/
def firstTrap (c : Ctx) (i : Instr) (pre : Thread → Option Raise) (th : Thread) : Option Raise :=
  if badBind i th.bind then some ⟨causeIllegal, wordOf i, 0⟩
  else if privOf i = .b ∨ (privOf i = .s ∧ !c.super) then some ⟨causePriv, wordOf i, 0⟩
  else
    match pre th with
    | some r => some r
    | none => operandTrap c i.opnds th

/-- Where a thread in a hold window or an mcall sequence begins it again (R185): at the window's first hint or at the mcall. -/
def Thread.restart (th : Thread) : Option Word :=
  match th.mac with
  | some m => some m.pc
  | none => th.win.map (fun w => w.first)

/-- What the members of an issuing gang do when the window or mcall sequence closes for all of them (R142, R185): `back` is where
this one's began, `shut` tells that some member closed it, `bad` that some member trapped in it. A member whose window another one
closes has come to the window's end (R33). -/
def Thread.closeWith (th : Thread) (back : Option Word) (last shut bad : Bool) : Thread :=
  match th.life with
  | .ready =>
    if bad && !last then
      match back with
      | some pc => { th.cleared with pc := pc, stepDue := false }
      | none => th
    else if (shut || bad) && th.mac.isNone && th.win.isSome then { th with win := none, lvalid := 0#8, stepDue := th.step }
    else th
  | _ => th

/-- Whether a thread trapped. -/
def Thread.isTrapped (th : Thread) : Bool :=
  match th.life with
  | .trapped => true
  | _ => false

/-- Whether a thread trapped in a window or an mcall sequence (R185): as it was before an instruction, and after it. -/
def trappedIn (old new : Option Thread) : Bool :=
  match old, new with
  | some a, some b => a.restart.isSome && b.isTrapped
  | _, _ => false

/-- Whether a thread was in a window and is in it no more (R142): as it was before an instruction, and after it. -/
def leftWin (old new : Option Thread) : Bool :=
  match old, new with
  | some a, some b => a.win.isSome && b.win.isNone
  | _, _ => false

/-- The rest of the gang follows a member that closed the window or trapped (R142, R185), `old` being the threads before the
instruction. A member that had the mcall sequence's store or the window's last-only instruction is past it already. -/
def closeGang (cycle : Nat) (tids : List Nat) (last : Bool) (old ts : FMap Thread) : FMap Thread :=
  let was (t : Nat) : Option Thread := (old.find t).map (fun th => th.openWin cycle)
  let bad := tids.any (fun t => trappedIn (was t) (ts.find t))
  let shut := tids.any (fun t => leftWin (was t) (ts.find t))
  ts.mapVal (fun t th => if tids.contains t then th.closeWith ((was t).bind Thread.restart) last shut bad else th)

/-- One thread's part in an instruction that touches nothing but the thread. -/
def Thread.issue (c : Ctx) (i : Instr) (sched : Thread → Word → Option Bool) (pre : Thread → Option Raise)
    (f : Thread → Thread × Eff) (th : Thread) : Thread :=
  let th1 := th.openWin c.cycle
  match firstTrap c i pre th1 with
  | some r => (th1.trapSite i).takeTrap r
  | none =>
    match f th1 with
    | (_, .trap r) => (th1.trapSite i).takeTrap r
    | (_, .stall) => th
    | (th2, e) => th2.settle c.cycle i (sched th2) e

/-- An instruction of a gang that touches nothing but its threads (R9: it applies to each active thread). -/
def State.gangMap (s : State) (core slot : Nat) (tids : List Nat) (gsize : Nat) (i : Instr)
    (pre : Ctx → Thread → Option Raise) (f : Ctx → Thread → Thread × Eff) : State :=
  s.onCrew core slot (fun w =>
    { w with threads := closeGang s.cycle tids (lastOnly i) w.threads (w.threads.mapVal (fun t th =>
        if tids.contains t && decide (th.life = .ready) then
          th.issue (s.ctx core slot w gsize t) i (s.schedFor (s.ctx core slot w gsize t))
            (pre (s.ctx core slot w gsize t)) (f (s.ctx core slot w gsize t))
        else th)) })

/-- A thread traps; with ctl.dbgctl.fot a STEP or BRK trap freezes its crew (R262). -/
def State.trapThread (s : State) (core slot tid : Nat) (r : Raise) : State :=
  let s1 := s.onThread core slot tid (fun th => th.takeTrap r)
  if (s.core core).ctl.fot && (decide (r.cause = causeStep) || decide (r.cause = causeBrk)) then
    s1.onCrew core slot (fun w => if w.freeze = .none then { w with freeze := .wanted } else w)
  else s1

/-- The effect of an instruction for one thread: what it does to the state, and what it comes to. -/
abbrev Body := Ctx → State → Host.Outcome (State × Eff) Fault Refusal

/-- One thread's part in an instruction that touches shared state. A trap undoes all of it (R9, R115, R149) but its walks (R325); a thread that
does not issue after all, because those of its gang before it took what it waits for, ages (R181, log 92). -/
def State.issueOne (s : State) (core slot gsize : Nat) (i : Instr) (pre : State → Ctx → Thread → Option Raise)
    (body : Body) (tid : Nat) : Out :=
  match s.crew core slot with
  | none => .next s
  | some w =>
    match w.threads.find tid with
    | none => .next s
    | some th =>
      if th.life ≠ .ready then .next s
      else
        let c := s.ctx core slot w gsize tid
        let s1 := s.onThread core slot tid (fun t => t.openWin s.cycle)
        match firstTrap c i (pre s c) (th.openWin s.cycle) with
        | some r => .next ((s1.onThread core slot tid (fun t => t.trapSite i)).trapThread core slot tid r)
        | none =>
          match body c s1 with
          | .fault x => .fault x
          | .refused x => .refused x
          | .next (_, .trap r) =>
            .next (((s1.trapWalk core r).onThread core slot tid (fun t => t.trapSite i)).trapThread core slot tid r)
          | .next (s2, .trapOn r) => .next (s2.trapThread core slot tid r)
          | .next (_, .stall) => .next (s.onThread core slot tid (fun t => { t with age := t.age + 1 }))
          | .next (s2, e) => .next (s2.onThread core slot tid (fun t => t.settle s.cycle i (s.schedFor c t) e))

/-- The threads of a gang one at a time, in ascending tid. -/
def State.issueAll (core slot gsize : Nat) (i : Instr) (pre : State → Ctx → Thread → Option Raise) (body : Body) :
    List Nat → State → Out
  | [], s => .next s
  | t :: ts, s =>
    match s.issueOne core slot gsize i pre body t with
    | .next s1 => State.issueAll core slot gsize i pre body ts s1
    | .fault x => .fault x
    | .refused x => .refused x

/-- An instruction of a gang that touches shared state. -/
def State.gangFold (s : State) (core slot : Nat) (tids : List Nat) (gsize : Nat) (i : Instr)
    (pre : State → Ctx → Thread → Option Raise) (body : Body) : Out :=
  match State.issueAll core slot gsize i pre body tids s with
  | .next s1 =>
    .next (s1.onCrew core slot (fun w => { w with
      threads := closeGang s.cycle tids (lastOnly i) (((s.crew core slot).map (fun x => x.threads)).getD []) w.threads }))
  | .fault x => .fault x
  | .refused x => .refused x

/-! ### The beacon lane -/

/-- The number of a lane's mode in ctl.bstat (R239). -/
def LaneMode.code : LaneMode → Nat
  | .s => 1
  | .m => 2

/-- ctl.bstat (R239). -/
def Lane.bstat (l : Lane) : DWord :=
  BitVec.ofNat 64 (b2n l.exl * 64 + b2n l.pie * 32 + b2n l.ie * 16 + l.pmode.toNat * 4 + l.mode.code)

/-- The PC of a lane's instruction (R43). -/
def Lane.pcOf (l : Lane) : Word := match l.bind with | some b => b.start | none => l.pc

/-- Entry of the S-level handler (R240): an exception or an interrupt. -/
def Lane.enterS (l : Lane) (pc : Word) (cause detail fault : Nat) : Lane :=
  { l with bepc := BitVec.setWidth 64 pc, bcause := BitVec.ofNat 64 cause, bfault := BitVec.ofNat 64 fault,
           bdetail := BitVec.ofNat 64 detail, pie := l.ie, ie := false, pmode := 1#2, exl := true,
           pc := lo32 l.bvec, bind := none, rsv := none }

/-- Entry of the M-level handler (R240). -/
def Lane.enterM (l : Lane) (pc : Word) (cause : Nat) : Lane :=
  { l with mepc := BitVec.setWidth 64 pc, mcause := BitVec.ofNat 64 cause, mstat := l.bstat, mode := .m,
           pc := lo32 l.mvec, bind := none, rsv := none }

/-- TAKING A BEACON EXCEPTION (R240). In M mode the lane halts, the machine error is recorded and the reset of the
core's isle, or for core 0 of the package, is due (R408). -/
def State.beaconException (s : State) (core : Nat) (r : Raise) : State :=
  let l := (s.core core).lane
  match l.mode with
  | .s =>
    if l.exl then s.onLane core (fun l => l.enterM l.pcOf r.cause)
    else s.onLane core (fun l => l.enterS l.pcOf r.cause r.detail r.fault)
  | .m =>
    let s1 := s.onLane core (fun l => { l with wait := .halted, bind := none })
    let s2 := { s1 with board := { s1.board with
      machineErrors := s1.board.machineErrors ++ [(core, BitVec.ofNat 32 r.cause)] } }
    match s2.isleOfCore core with
    | some i => if core = 0 then s2 else s2.onIsle i (fun x => x.startReset true)
    | none => s2

/-- RETURN from a beacon handler (R241): from M level, or from S level when pmode is 1. -/
def Lane.eret (l : Lane) : Option Lane :=
  match l.mode with
  | .m =>
    let st := l.mstat.toNat
    some { l with
      pc := lo32 l.mepc, exl := bit st 6, pie := bit st 5, ie := bit st 4, pmode := BitVec.ofNat 2 (bits st 3 2),
      mode := if bits st 1 0 = 2 then .m else .s }
  | .s =>
    if l.pmode = 1#2 then some { l with pc := lo32 l.bepc, ie := l.pie, exl := false } else none

/-- What a lane's instruction comes to: on to the next word, a jump, an exception, or a wait. -/
inductive LaneEff where
  | next
  | jump (pc : Word)
  | exc (r : Raise)
  /-- the lane's PC has been set already, or it waits at its instruction -/
  | stay
deriving DecidableEq, Repr

/-- Who a lane is for the checks on its accesses (R238). -/
def State.laneViewer (s : State) (core : Nat) : Viewer :=
  { core := core, isle := s.isleNo core, user := false, mmode := decide ((s.core core).lane.mode = .m),
    segs := (s.core core).lane.segs, mac := none, bounds := Bounds.whole }

/-- The lane after its instruction. -/
def State.laneSettle (s : State) (core : Nat) (e : LaneEff) : State :=
  match e with
  | .next => s.onLane core (fun l => { l with pc := l.pc + 1, bind := none })
  | .jump pc => s.onLane core (fun l => { l with pc := pc, bind := none })
  | .exc r => s.beaconException core r
  | .stay => s

/-- A lane's core after an access that ended in an exception: outside M mode it was translated (R238, R325). -/
def State.laneWalk (s : State) (core : Nat) (r : Raise) : State :=
  if (s.core core).lane.mode = .m then s else s.trapWalk core r

/-- An instruction of a beacon lane (R236, R237): ILLEGAL where the lane does not execute it; an exception undoes its
effect (R240). -/
def State.laneRun (s : State) (core : Nat) (i : Instr)
    (body : Lane → State → Host.Outcome (State × LaneEff) Fault Refusal) : Out :=
  let l := (s.core core).lane
  if !i.onLane || badBind i l.bind then .next (s.beaconException core ⟨causeIllegal, wordOf i, 0⟩)
  else
    match body l s with
    | .fault x => .fault x
    | .refused x => .refused x
    | .next (_, .exc r) => .next ((s.laneWalk core r).beaconException core r)
    | .next (s1, e) => .next (s1.laneSettle core e)

/-! ### One meaning for threads and lanes -/

/-- No trap of its own before the operand checks. -/
def noTrap {α β : Type} (_ : α) (_ : β) : Option Raise := none

/-- As `noTrap`, for instructions that touch shared state. -/
def noTrapS (_ : State) (_ : Ctx) (_ : Thread) : Option Raise := none

/-- A thread's part in an instruction of the R, F and I classes (R114): the result written and shifted. -/
def regThread (dist : Nat) (nw : Bool) (d : Opnd) (f : Reads → Res) (c : Ctx) (th : Thread) : Thread × Eff :=
  (th.writeResult c dist nw d (f (th.reads c)), .next)

/-- An instruction of the R, F and I classes (R114, R115, R235). -/
def regOp (i : Instr) (dist : Nat) (nw : Bool) (d : Opnd) (f : Reads → Res) (s : State) : Out :=
  match s.acting with
  | .none => .next s
  | .gang core slot tids gsize => .next (s.gangMap core slot tids gsize i noTrap (regThread dist nw d f))
  | .lane core =>
    s.laneRun core i (fun l t =>
      .next (t.onLane core (fun _ => l.writeResult nw d (f (l.reads core (s.coreCycle core) (s.core core).pts))), .next))

/-- An instruction that touches only its threads, and that a lane does not execute. -/
def localOp (i : Instr) (f : Ctx → Thread → Thread × Eff) (s : State) : Out :=
  match s.acting with
  | .none => .next s
  | .gang core slot tids gsize => .next (s.gangMap core slot tids gsize i noTrap f)
  | .lane core => .next (s.beaconException core ⟨causeIllegal, wordOf i, 0⟩)

/-- An instruction that touches shared state, and that a lane does not execute. -/
def sharedOp (i : Instr) (pre : State → Ctx → Thread → Option Raise) (body : Body) (s : State) : Out :=
  match s.acting with
  | .none => .next s
  | .gang core slot tids gsize => s.gangFold core slot tids gsize i pre body
  | .lane core => .next (s.beaconException core ⟨causeIllegal, wordOf i, 0⟩)

/-- An instruction that touches shared state, for threads and for lanes. -/
def bothOp (i : Instr) (pre : State → Ctx → Thread → Option Raise) (body : Body)
    (lane : Nat → Lane → State → Host.Outcome (State × LaneEff) Fault Refusal) (s : State) : Out :=
  match s.acting with
  | .none => .next s
  | .gang core slot tids gsize => s.gangFold core slot tids gsize i pre body
  | .lane core => s.laneRun core i (lane core)

/-- An instruction that only a beacon lane executes: PRIV from every thread (R68). -/
def laneOp (i : Instr) (lane : Nat → Lane → State → Host.Outcome (State × LaneEff) Fault Refusal) (s : State) : Out :=
  match s.acting with
  | .none => .next s
  | .gang core slot tids gsize => .next (s.gangMap core slot tids gsize i noTrap (fun _ th => (th, .next)))
  | .lane core => s.laneRun core i (lane core)

end Sys2Proof.Machine
end

