-- ==== Sys2Proof/Machine/Coherence.lean ====
section
/-! DEFINITION. The data phase of threads' accesses (R150 to R164): their order, the L1, the homes and the messages
between them (R271 to R273, R305 to R324, R343 to R345), one act for each step of the opcode table. A step that is not
due leaves the machine as it is. -/

namespace Sys2Proof.Machine

/-! ### Order within a thread -/

/-- Whether two operations belong to one thread. -/
def MemOp.sameThread (a b : MemOp) : Bool :=
  decide (a.core = b.core) && decide (a.slot = b.slot) && decide (a.uid = b.uid) && decide (a.tid = b.tid)

/-- Whether an operation writes memory. -/
def OpKind.writes (k : OpKind) : Bool :=
  match k with
  | .st => true
  | .stx => true
  | .stRel => true
  | .atom _ _ _ => true
  | _ => false

/-- Whether an operation is a release, which waits for what comes before it (R343, R344). -/
def OpKind.releases (k : OpKind) : Bool :=
  match k with
  | .stRel => true
  | .fenceRel => true
  | .atom _ _ rel => rel
  | _ => false

/-- Whether an operation is one of an exclusive pair. -/
def OpKind.exclusive (k : OpKind) : Bool :=
  match k with
  | .ldx => true
  | .stx => true
  | _ => false

/-- Whether an operation has taken its value or its place in the coherence order. -/
def MemOp.done (o : MemOp) : Bool := o.value.isSome

/-- Whether two accesses touch a common byte (R162): of memory by its physical address, whatever the virtual spaces, or of one
SRAM. -/
def MemOp.touches (p o : MemOp) : Bool :=
  (if p.page.isSome then o.page.isSome else !o.page.isSome && decide (p.space = o.space)) && overlap p.addr p.n o.addr o.n

/-- Whether an earlier operation `p` of the thread holds `o` back (R156, R162, R335, R343, R345). -/
def MemOp.holds (p o : MemOp) : Bool :=
  let touch := p.touches o
  (touch && !p.done) || (o.kind.releases && (p.kind.loads || !p.done)) ||
    (decide (p.kind = .fenceRel) && o.kind.writes) || (p.kind.exclusive && o.kind.exclusive && !p.done)

/-- The bytes of the accumulator memory that a matrix operation reads or writes (R218): offset and length. -/
def MatOp.extent (m : MatOp) : Nat × Nat :=
  match m.kind with
  | .mma _ => (m.off, 65536)
  | .mmz => (m.off, 65536)
  | .accld _ _ _ _ => (m.off, 512)
  | .accst _ _ _ _ => (m.off, 512)

/-- Whether a matrix operation that copies is a thread's and holds back what comes after it (R162, R231, R343): an
access to its bytes, a release, a release fence. -/
def MatOp.holds (m : MatOp) (o : MemOp) : Bool :=
  let mine (pa tid : Nat) : Bool := decide (m.id < o.id) && decide (m.uid = o.uid) && decide (m.slot = o.slot) &&
    decide (tid = o.tid) && ((o.page.isSome && overlap pa 512 o.addr o.n) || o.kind.releases)
  match m.kind with
  | .accld _ pa _ tid => mine pa tid
  | .accst _ pa _ tid => mine pa tid
  | _ => false

/-- Whether an earlier access of its thread, pushes and copies included, comes before an operation (R162, R280, R346). -/
def State.ordered (s : State) (o : MemOp) : Bool :=
  s.ops.any (fun p => decide (p.id < o.id) && p.sameThread o && p.holds o) ||
    (o.kind.releases && s.pushes.any (fun p => o.pushes.contains p.id)) ||
    (decide (o.kind = .fenceAcq) && o.pushes.any (fun n => s.inFlight n)) || (s.core o.core).matQ.any (fun m => m.holds o) ||
    s.pushes.any (fun p => decide (p.id < o.id) && decide (p.core = o.core) && decide (p.slot = o.slot) && decide (p.uid = o.uid) &&
      decide (p.tid = o.tid) && !p.merged && p.data.isSome && o.page.isSome && overlap p.addr p.n o.addr o.n) ||
    (o.kind.writes && s.copies.any (fun p => decide (p.id < o.id) && decide (p.core = o.core) && decide (p.slot = o.slot) &&
      decide (p.uid = o.uid) && decide (p.tid = o.tid) && decide (o.space ≠ 2) && s.copyWrites p (decide (o.space = 1)) o.addr o.n))

/-- Whether an earlier copy of a thread than operation `id` holds back a read, or a write, of some bytes (R297, R335, R346): it is still
to write them, or a write waits while it reads them. -/
def State.copyHolds (s : State) (x : Copy) (id core slot uid tid : Nat) (pad wr : Bool) (addr n : Nat) : Bool :=
  decide (x.id < id) && decide (x.core = core) && decide (x.slot = slot) && decide (x.uid = uid) && decide (x.tid = tid) &&
    (s.copyWrites x pad addr n || (wr && x.unread && x.reads pad addr n))

/-- Whether a release fence of a thread before operation `id` holds back its writes (R335, R345). -/
def State.fencedBefore (s : State) (id core slot uid tid : Nat) : Bool :=
  s.ops.any (fun o => decide (o.id < id) && decide (o.core = core) && decide (o.slot = slot) && decide (o.uid = uid) &&
    decide (o.tid = tid) && decide (o.kind = .fenceRel))

/-- Whether an earlier access of a thread than operation `id` holds back a read, or a write, of some bytes (R162, R297): a memory
operation, a push, a matrix operation, a copy, or for a write a release fence (R335, R345). -/
def State.earlierHolds (s : State) (id core slot uid tid : Nat) (pad wr : Bool) (addr n : Nat) : Bool :=
  s.ops.any (fun o => decide (o.id < id) && decide (o.core = core) && decide (o.slot = slot) && decide (o.uid = uid) &&
    decide (o.tid = tid) && ((wr && decide (o.kind = .fenceRel)) ||
      (!o.done && (wr || o.kind.writes) && overlap o.addr o.n addr n && (if pad then decide (o.space = 1) else o.page.isSome)))) ||
  s.copies.any (fun x => s.copyHolds x id core slot uid tid pad wr addr n) ||
  (!pad && s.pushes.any (fun o => decide (o.id < id) && decide (o.core = core) && decide (o.slot = slot) && decide (o.uid = uid) &&
    decide (o.tid = tid) && !o.merged && overlap o.addr o.n addr n)) ||
  (!pad && (s.core core).matQ.any (fun m =>
    let mine (pa t : Nat) : Bool := decide (m.id < id) && decide (m.uid = uid) && decide (t = tid) && overlap pa 512 addr n
    match m.kind with
    | .accld _ pa _ t => wr && mine pa t
    | .accst _ pa _ t => mine pa t
    | _ => false))

/-- Whether an operation's request would demote a line whose owner holds it under a reservation (R156, R323). -/
def State.demoting (s : State) (o : MemOp) : Bool :=
  match o.page, s.lines.find (lineOf o.addr) with
  | some t, some h => decide (h.mode ≠ t.mode) && !h.demote && s.ownerReserved (lineOf o.addr)
  | _, _ => false

/-- Whether an operation cannot be performed yet: for the order of its thread, for a way at its home (R308), or for the recall of a
line that it demotes. -/
def State.blocked (s : State) (o : MemOp) : Bool :=
  s.ordered o || (o.page.isSome && !s.homeRoom (lineOf o.addr)) || s.demoting o

/-- The recall that a demotion waits for is started (R156, R323). -/
def State.startDemotion (s : State) (o : MemOp) : State :=
  if s.serving (lineOf o.addr) then s else s.onHome (lineOf o.addr) (fun h => { h with recalling := some (true, none) })

/-- Whether no earlier matrix operation touches the bytes of a space-2 access (R218). -/
def State.accReady (s : State) (o : MemOp) : Bool :=
  (s.core o.core).matQ.all (fun m => decide (o.id < m.ord) || !overlap m.extent.1 m.extent.2 o.addr o.n)

/-! ### Values, completion -/

/-- The pages whose accesses are performed at the bank (R321 to R323). -/
def State.bankPage (s : State) (t : Tlb) (line : Nat) : Bool := t.sc || s.atBank line t.mode

/-- The scope at which an operation acquires (R336), 0 where it does not. -/
def MemOp.acquires (o : MemOp) : Nat :=
  match o.kind with
  | .atom _ true _ => o.scope
  | .ld _ => o.scope
  | .ldx => o.scope
  | .ldAcq => o.scope
  | _ => 0

/-- The line of an operation, if it lies on a self-invalidating page. -/
def MemOp.leasedLine (o : MemOp) : Option Nat :=
  match o.page with
  | some t => if t.mode = .selfInv then some (lineOf o.addr) else none
  | none => none

/-- Whether an ldx whose value is taken holds its line (R156, R279): on a directory-tracked page in M or E in the L1, on any other
at the bank. -/
def State.reserves (s : State) (o : MemOp) : Bool :=
  match o.page with
  | some t => decide (t.mode ≠ .dir) || s.bankPage t (lineOf o.addr) ||
      ((s.copyOf (clusterOf o.core) (lineOf o.addr)).map L1Line.owned).getD false
  | none => true

/-- A value is taken for a load or an atomic, all its bytes at one time (R151), with the acquire that it is (R342); an ldx takes its
reservation, or hands it to the stx that follows (R156). -/
def State.takeValue (s : State) (o : MemOp) (v : Nat) (bad : Bool) : State :=
  let s1 := s.acquire (clusterOf o.core) o.acquires o.leasedLine
  let s2 := s1.onOp o.id (fun p => { p with value := some v, poisoned := bad, reply := none, held := false })
  match o.kind with
  | .ldx =>
    let stays := s2.reserves o
    if s2.ops.any (fun p => decide (o.id < p.id) && p.sameThread o && decide (p.kind = .stx) && decide (p.cmp = 2)) then
      { s2 with ops := s2.ops.map (fun p =>
          if decide (o.id < p.id) && p.sameThread o && decide (p.kind = .stx) && decide (p.cmp = 2) then
            { p with cmp := b2n (stays && decide (p.addr = o.addr) && decide (p.fault = o.fault) && decide (p.n = o.n)) }
          else p) }
    else if stays then s2.onUid o.core o.slot o.uid o.tid (fun t =>
        match t.life with
        | .ready => if t.leaving then t else { t with rsv := some ⟨o.addr, o.fault.toNat, o.n⟩ }
        | _ => t)
    else s2
  | _ => s2

/-- A flag of a thread falls by one (R28). -/
def Thread.dropFlag (th : Thread) (f : Nat) : Thread :=
  if f < 12 then { th with flags := setAt th.flags f (th.flags.getD f 0 - 1) } else th

/-- A flag of a thread rises by one (R28). -/
def Thread.raiseFlag (th : Thread) (f : Nat) : Thread :=
  if f < 12 then { th with flags := setAt th.flags f (th.flags.getD f 0 + 1) } else th

/-- An operation completes: its flag falls and it is over (R152, R153). -/
def State.completeOp (s : State) (o : MemOp) : State :=
  (s.onUid o.core o.slot o.uid o.tid (fun t => t.dropFlag o.flag)).dropOp o.id

/-- The registers that a load of a size writes, as a mask (R152). -/
def ldParts (z : LdSize) : Nat :=
  match z with
  | .d => 3
  | .q => 15
  | _ => 1

/-- Word `k` of what a load delivers (R152). -/
def OpKind.word (kind : OpKind) (v k : Nat) : Word :=
  match kind with
  | .ld .bs => BitVec.signExtend 32 (BitVec.ofNat 8 v)
  | .ld .hs => BitVec.signExtend 32 (BitVec.ofNat 16 v)
  | _ => BitVec.ofNat 32 (v >>> (32 * k))

/-- The register number that stands for the PC of a ret (R144). -/
def dstPc : Nat := 200

/-- One register written by returning data; a ret takes its return index and pops the stack (R144). -/
def Thread.deliver (th : Thread) (r : Nat) (v : Word) : Thread :=
  if r = dstPc then { th with pc := v, sp := th.sp + 4 } else th.putReg r v

/-- The registers of some parts written. -/
def Thread.deliverParts (th : Thread) (o : MemOp) (parts v : Nat) : Thread :=
  (List.range 4).foldl (fun t k => if bit parts k && bit o.parts k then t.deliver (o.dst + k) (o.kind.word v k) else t) th

/-- Whether a cluster's copy of a tracked line holds the bytes of a push that some receiver has not acknowledged: no load takes
them before every receiver has them, or none of the old bytes (R279, R338, R339). -/
def State.pushShut (s : State) (cl line : Nat) : Bool :=
  s.pushes.any (fun p => p.merged && !p.recv.isEmpty && !p.recv.contains cl && decide (lineOf p.addr = line) && p.data.isSome)

/-- A value of the cluster's L1 for a load, if it holds a copy that the load may use (R314, R317); an ldx needs the line in M or E
(R279). -/
def State.hitCopy (s : State) (o : MemOp) (t : Tlb) : Option L1Line :=
  match s.copyOf (clusterOf o.core) (lineOf o.addr) with
  | some x =>
    if !s.serves o.core t.mode x || (x.tracked && (s.pushShut (clusterOf o.core) (lineOf o.addr) ||
        (decide (o.kind = .ldx) && !x.owned))) then none
    else some x
  | none => none

/-- A load takes its value, all its bytes at once (R151), where it can: in an SRAM, in the L1, or at the bank of a page whose accesses are performed
there (R152, R161, R321, R322); a leased copy taken before its line was demoted serves until it expires (R323). -/
def State.captureLoad (s : State) (o : MemOp) : State :=
  if o.done || !o.kind.loads || s.ordered o then s
  else if s.demoting o then s.startDemotion o
  else if s.blocked o then s
  else
    match o.page with
    | none =>
      if o.space = 1 then
        s.takeValue o (s.readSpad (clusterOf o.core) o.addr o.n) (s.spadBad (clusterOf o.core) o.addr o.n)
      else if s.accReady o then s.takeValue o (s.readAcc o.core o.addr o.n) (s.accBad o.core o.addr o.n)
      else s
    | some t =>
      let s0 := s.touchHome (lineOf o.addr) t.mode
      if s0.bankPage t (lineOf o.addr) && (t.sc || decide (t.mode = .uncached) || (s0.hitCopy o t).isNone) then
        match s0.await (lineOf o.addr) t.mode false with
        | some s1 => s1
        | none =>
          match s0.readHome o.core t.mode t.lease o.addr o.n with
          | (s1, v, bad) => s1.takeValue o v bad
      else
        match s.hitCopy o t with
        | some x =>
          let s1 := match x.st with
            | .leased => s.advance o.core x.wts
            | _ => s
          s1.takeValue o (getData x.data (o.addr % 128) o.n) (x.bad o.addr o.n)
        | none => s

/-- LOAD_DATA_RETURN (R152, R154): the data of a load or an atomic arrives; the registers of `parts` are written, each
by itself; with the last the flag falls. Poisoned data writes nothing (R169, R344). -/
def State.loadReturn (s : State) (id parts : Nat) : State :=
  let s1 := match s.op id with
    | some o => s.captureLoad o
    | none => s
  match s1.op id with
  | none => s
  | some o =>
    match o.value with
    | none => s1
    | some v =>
      if o.kind = .st ∨ o.kind = .stx ∨ o.kind = .stRel ∨ o.kind = .fenceRel ∨ o.kind = .fenceAcq then s1
      else if o.poisoned then
        (s1.onUid o.core o.slot o.uid o.tid (fun t =>
          { t with deferred := t.deferred ++ [⟨o.pc, o.fault, o.detail ||| 0x800#32⟩] })).completeOp o
      else
        let s2 := s1.onUid o.core o.slot o.uid o.tid (fun t => t.deliverParts o parts v)
        let left := (List.range 4).foldl (fun m k => m + b2n (bit o.parts k && !bit parts k) * 2 ^ k) 0
        if left = 0 then s2.completeOp o else s2.onOp id (fun p => { p with parts := left })

/-! ### The L1 (R155, R271) -/

/-- A line leaves an L1 (R314, R317): an owner writes it back. -/
def State.evictCopy (s : State) (cl line : Nat) : State :=
  let own := decide ((s.ownerCopy line).map Prod.fst = some cl)
  let s1 := if own then s.flushOwner line false else (s.setCopy cl line none).refilterLine cl line
  s1.endClusterRsv cl line

/-- The order of eviction of a retention class (R155): stream, normal, keep. -/
def keepRank (k : Nat) : Nat := if k = 1 then 0 else if k = 3 then 2 else 1

/-- The lines of a set of an L1. -/
def State.l1Lines (s : State) (cl set : Nat) : List Nat :=
  ((s.cluster cl).l1.filter (fun x => decide (l1Set x.1 = set))).map Prod.fst

/-- The lines on their way to a set of an L1 that it does not hold: their fills pin ways (R271). -/
def State.fillsDue (s : State) (cl set : Nat) : List Nat :=
  s.ops.foldl (fun (l : List Nat) o =>
    match o.reply with
    | some r =>
      let n := lineOf o.addr
      if o.page.isSome && decide (clusterOf o.core = cl) && decide (l1Set n = set) && decide (r.kind ≠ .none) &&
          (decide (o.cache ≠ 2) || decide (r.kind = .e) || decide (r.kind = .m)) && (s.copyOf cl n).isNone then insertKey n l else l
    | none => l) []

/-- The ways of a line's set that hold, or wait for, another line. -/
def State.waysUsed (s : State) (cl line : Nat) : Nat :=
  ((s.l1Lines cl (l1Set line) ++ s.fillsDue cl (l1Set line)).filter (fun n => decide (n ≠ line))).length

/-- Whether a fill to a line's way is in flight (R271): an answer that the L1 will install, whether it holds the line or not. -/
def State.pinned (s : State) (cl line : Nat) : Bool :=
  s.ops.any (fun o =>
    match o.reply with
    | some r => o.page.isSome && decide (clusterOf o.core = cl) && decide (lineOf o.addr = line) && decide (r.kind ≠ .none) &&
        (decide (o.cache ≠ 2) || decide (r.kind = .e) || decide (r.kind = .m))
    | none => false)

/-- The lines of a set that may make room: those of the lowest class that are neither pinned nor reserved (R155, R271). -/
def State.l1Victims (s : State) (cl set : Nat) : List Nat :=
  let free := (s.l1Lines cl set).filter (fun n => !s.reservedIn cl n && !s.pinned cl n)
  let rank (n : Nat) : Nat := keepRank (((s.copyOf cl n).map (fun x => x.keep)).getD 0)
  let low := free.foldl (fun m n => min m (rank n)) 3
  free.filter (fun n => decide (rank n = low))

/-- Whether a line has a way in its set of an L1 or can be given one: not every way is pinned or reserved (R271, R277). -/
def State.canInstall (s : State) (cl line : Nat) : Bool :=
  (s.copyOf cl line).isSome || decide (s.waysUsed cl line < 16) || decide (s.l1Victims cl (l1Set line) ≠ [])

/-- A way made for a line in its set of an L1: another line leaves where all are used (R271). -/
def State.makeWay (s : State) (cl line : Nat) : State :=
  if (s.copyOf cl line).isSome || decide (s.waysUsed cl line < 16) then s
  else
    match s.l1Victims cl (l1Set line) with
    | [] => s
    | v => s.evictCopy cl (v.getD (Config.freeVictim s.cycle cl line % v.length) 0)

/-- A line installed in an L1, in the place of another where its set is full; nothing where no way can be had. -/
def State.install (s : State) (cl line : Nat) (x : L1Line) : State :=
  if s.canInstall cl line then (s.makeWay cl line).setCopy cl line (some x) else s

/-- The clusters that match a line, outside some. -/
def State.matching (s : State) (line : Nat) (exempt : List Nat) : List Nat :=
  (List.range Config.clusters).filter (fun a => !exempt.contains a && s.matchesLine a line)

/-- A line brought to an L1 for a fetch or a prefetch (R157, R161, R271), as a read request or a lease brings it (R314, R315, R318):
one act, with nothing but the recall of a reserved line where the home is not free (R156, R315; log 95). An access of a page whose
accesses are performed at the bank brings no line, but meets its home (R321 to R323). -/
def State.bringLine (s : State) (core pa : Nat) (t : Tlb) (keep : Nat) : State :=
  let line := lineOf pa
  let cl := clusterOf core
  if hbmEnd ≤ pa then s
  else
    match s.await line t.mode false with
    | some s1 => s1
    | none =>
    let s0 := s.touchHome line t.mode
    if s0.bankPage t line then (s0.readHome core t.mode t.lease pa 1).1
    else if ((s0.copyOf cl line).map (fun x => s0.serves core t.mode x)).getD false || decide (keep = 2) ||
        decide (s0.currentPoison line ≠ 0) || !s0.canInstall cl line then s0
    else
      let s1 := (s0.makeWay cl line).flushOwner line true
      let copy (st : L1State) (h : HomeLine) : L1Line :=
        { st := st, data := s1.lineData line, poison := 0, wts := h.wts, rts := h.rts, keep := keep, filled := s1.nextId - 1 }
      match t.mode, s1.lines.find line with
      | .selfInv, some h =>
        let r := Time.max h.rts (Time.max h.wts (s.core core).pts + BitVec.ofNat 24 t.lease)
        ((s1.onHome line (fun x => { x with rts := r })).setCopy cl line (some (copy .leased { h with rts := r }))).cancelLeases
          cl (some line)
      | _, some h =>
        let alone := h.owner.isNone && (s1.matching line [cl]).isEmpty
        let s2 := (s1.addFilter cl line).setCopy cl line (some (copy (if alone then .e else .s) h))
        if alone then (s2.onHome line (fun x => { x with owner := some cl })).dropPeers line else s2
      | _, none => s1

/-! ### Requests at a home (R315) -/

/-- A request of an operation is served at its line's home, which serves one request per line at a time (R315): the owner
is recalled, and for a write every matching cluster is invalidated. The answer tells whether the line is now the
request's. -/
def State.serve (s : State) (o : MemOp) (excl : Bool) (exempt : List Nat) : State × Bool :=
  let line := lineOf o.addr
  match s.lines.find line with
  | none => (s, false)
  | some h =>
    let other := s.ops.any (fun p => p.held && decide (p.id ≠ o.id) && p.page.isSome && decide (lineOf p.addr = line)) ||
      s.pushes.any (fun p => p.merged && !p.recv.isEmpty && decide (lineOf p.addr = line)) || (!o.held && s.dutyAt line)
    if h.recalling.isSome || !h.invals.isEmpty || other then (s, false)
    else
      match h.owner with
      | some a =>
        if exempt.contains a then (s, false)
        else ((s.onHome line (fun x => { x with recalling := some (excl, none) })).onOp o.id (fun p => { p with held := true }),
          false)
      | none =>
        let m := if excl && !o.held then s.matching line exempt else []
        if m.isEmpty then (s, true)
        else ((s.onHome line (fun x => { x with invals := m })).onOp o.id (fun p => { p with held := true }), false)

/-- An answer of a home put on its way, after those that the home has sent before (R306). -/
def State.sendReply (s : State) (o : MemOp) (r : Reply) : State :=
  s.fresh.2.onOp o.id (fun p => { p with held := false, reply := some { r with seq := s.fresh.1 } })

/-- The answer of a home to an L1 (R314): the line's data, for which the L1 pins a way (R271), and for E and M its ownership, which
goes before any copy of a peer that is not registered (R273); the filter names the L1. -/
def State.grantLine (s : State) (o : MemOp) (k : GrantKind) : State :=
  let line := lineOf o.addr
  let cl := clusterOf o.core
  let s1 := (s.makeWay cl line).addFilter cl line
  let own (u : State) : State := (u.onHome line (fun h => { h with owner := some cl })).dropPeers line
  let s2 := match k with
    | .e => own s1
    | .m => own s1
    | _ => s1
  s2.sendReply o { seq := 0, kind := k, data := s.lineData line, poison := s.linePoison line, wts := 0#24, rts := 0#24, peer := false }

/-- Whether an operation waits for a line of a directory-tracked page that is not handled at its bank. -/
def State.wantsLine (s : State) (o : MemOp) : Bool :=
  match o.page with
  | some t => decide (t.mode = .dir) && !s.bankPage t (lineOf o.addr) && !o.done && o.reply.isNone && !s.blocked o
  | none => false

/-- READ_REQUEST (R315): a read miss of a directory-tracked line is served at the home. A noalloc load takes its value without a grant
(R155), and so does one for which its L1 has no way. -/
def State.readRequest (s : State) (id : Nat) : State :=
  match s.op id with
  | none => s
  | some o =>
    let s0 := s.touchHome (lineOf o.addr) .dir
    let cl := clusterOf o.core
    if !(o.kind.loads && decide (o.kind ≠ .ldx) && s0.wantsLine o && (s.copyOf cl (lineOf o.addr)).isNone) then s
    else
      match s0.serve o false [cl] with
      | (s1, false) => s1
      | (s1, true) =>
        if o.cache = 2 || !s1.canInstall cl (lineOf o.addr) then
          s1.takeValue o (s1.mem.readNat o.addr o.n)
            (decide (s1.linePoison (lineOf o.addr) &&& granulesOf (o.addr % 128) o.n ≠ 0))
        else if (s1.matching (lineOf o.addr) [cl]).isEmpty && !o.held then s1.grantLine o .e
        else s1.grantLine o .s

/-- OWNERSHIP_REQUEST (R315): a store, an stx or an ldx asks for a directory-tracked line; a noalloc ldx too, whose reservation R156
keeps in the L1 where R155 has it allocate nothing (DEDUCED, log 44). -/
def State.ownershipRequest (s : State) (id : Nat) : State :=
  match s.op id with
  | none => s
  | some o =>
    let s0 := s.touchHome (lineOf o.addr) .dir
    let cl := clusterOf o.core
    let kind := match o.kind with
      | .st => decide (o.cache ≠ 2)
      | .stRel => decide (o.cache ≠ 2)
      | .stx => decide (o.cmp ≠ 0) && decide (o.cache ≠ 2)
      | .ldx => true
      | _ => false
    let owns := ((s.copyOf cl (lineOf o.addr)).map L1Line.owned).getD false
    if !(kind && s0.wantsLine o && !owns && s0.canInstall cl (lineOf o.addr)) then s
    else
      match s0.serve o true [cl] with
      | (s1, false) => s1
      | (s1, true) => s1.grantLine o .m

/-- Whether a message that a home sent to a cluster before place `seq` is still on its way (R306): the answers and push fills of one
slice arrive in the order in which they were sent. -/
def State.olderDue (s : State) (cl slice seq : Nat) : Bool :=
  s.ops.any (fun o =>
    match o.reply with
    | some r => o.page.isSome && decide (r.seq ≠ 0) && decide (r.seq < seq) && decide (clusterOf o.core = cl) &&
        decide (homeSlice o.addr = slice)
    | none => false) ||
  s.pushes.any (fun p => p.merged && p.recv.contains cl && decide (p.seq < seq) && decide (homeSlice p.addr = slice))

/-- A leased line that arrives is installed (R317): not in the place of a copy that holds a later write (R279, R306), and with the
noalloc policy only in the place of a copy that holds an earlier one, so that no thread of the cluster reads on from it (R155, R339). -/
def State.installLease (s : State) (cl line : Nat) (x : L1Line) (noalloc : Bool) : State :=
  match s.copyOf cl line with
  | some y =>
    if Time.before x.wts y.wts || (noalloc && !Time.before y.wts x.wts) then s
    else s.install cl line (if noalloc then { x with keep := y.keep } else x)
  | none => if noalloc then s else s.install cl line x

/-- A shared line that arrives is installed (R314): not in the place of a copy whose data the home sent later (R279, R306). -/
def State.installShared (s : State) (cl line : Nat) (x : L1Line) : State :=
  if ((s.copyOf cl line).map (fun y => decide (x.filled < y.filled))).getD false then s else s.install cl line x

/-- DATA_REPLY (R314, R317, R272): an L1 receives an answer, installs the line, and a load takes its value; an ldx on a
directory-tracked page takes it only with ownership (R279). A peer's data waits for its registration. -/
def State.dataReply (s : State) (id : Nat) : State :=
  match s.op id with
  | none => s
  | some o =>
    match o.reply with
    | none => s
    | some r =>
      let cl := clusterOf o.core
      let line := lineOf o.addr
      let copy (st : L1State) : L1Line :=
        { st := st, data := r.data, poison := r.poison, wts := r.wts, rts := r.rts, keep := o.cache, filled := r.seq }
      let own := decide (r.kind = .e) || decide (r.kind = .m)
      let lease := (o.page.map (fun t => decide (t.mode = .selfInv))).getD false
      if r.peer || (own && !s.canInstall cl line) || s.olderDue cl (homeSlice o.addr) r.seq then s
      else
        let s1 := match r.kind with
          | .s => if o.cache = 2 then s else s.installShared cl line (copy .s)
          | .e => s.install cl line (copy .e)
          | .m => s.install cl line (copy .m)
          | .leased => (s.installLease cl line (copy .leased) (decide (o.cache = 2))).advance o.core r.wts
          | .none => if lease then s.advance o.core r.wts else s
        let s2 := (s1.onOp id (fun p => { p with reply := none })).refilterLine cl line
        if o.kind.loads && (decide (o.kind ≠ .ldx) || own || lease) then
          s2.takeValue { o with reply := none } (getData r.data (o.addr % 128) o.n)
            (decide (r.poison &&& granulesOf (o.addr % 128) o.n ≠ 0))
        else s2

/-- Whether an answer of the home to a cluster about a line is still on its way (R306). -/
def State.replyDue (s : State) (cl line : Nat) : Bool :=
  s.ops.any (fun o =>
    match o.reply with
    | some r => !r.peer && o.page.isSome && decide (clusterOf o.core = cl) && decide (lineOf o.addr = line) &&
        decide (r.kind ≠ .none)
    | none => false)

/-- INVALIDATE (R314): an L1 invalidates its S copy and acknowledges. -/
def State.invalidateLine (s : State) (cl line : Nat) : State :=
  match s.lines.find line with
  | none => s
  | some h =>
    if !h.invals.contains cl || s.replyDue cl line then s
    else (((s.setCopy cl line none).refilterLine cl line).endClusterRsv cl line).onHome line
      (fun x => { x with invals := x.invals.filter (fun a => a != cl) })

/-- A recall answered (R314): data to the home; the owner keeps the line in S, or loses it. -/
def State.answerRecall (s : State) (cl line : Nat) (toI : Bool) : State :=
  let s1 := if toI then s.endClusterRsv cl line else s
  ((s1.flushOwner line (!toI))).onHome line (fun h => { h with recalling := none, owner := none })

/-- RECALL (R314, R156): an L1 answers a recall, but for a reserved line it may wait up to 64 cycles. -/
def State.recallLine (s : State) (cl line : Nat) : State :=
  match s.lines.find line with
  | none => s
  | some h =>
    match h.recalling with
    | none => s
    | some (toI, due) =>
      if h.owner ≠ some cl || s.replyDue cl line then s
      else if s.reservedIn cl line then
        match due with
        | none => s.onHome line (fun x => { x with recalling := some (toI, some (s.cycle + 64)) })
        | some d => if d ≤ s.cycle then (s.endClusterRsv cl line).answerRecall cl line toI else s
      else s.answerRecall cl line toI

/-- RECALL_DEFERRAL_EXPIRY (R156): the deferred recall takes the line, and the reservation ends. -/
def State.recallExpiry (s : State) (cl line : Nat) : State :=
  match s.lines.find line with
  | none => s
  | some h =>
    match h.recalling with
    | some (toI, some d) =>
      if h.owner = some cl ∧ d ≤ s.cycle then (s.endClusterRsv cl line).answerRecall cl line toI else s
    | _ => s

/-- WRITEBACK (R314, R315): an owner's line leaves its L1, its data goes to the L2; a recall it crosses is answered. -/
def State.writebackLine (s : State) (cl line : Nat) : State :=
  match s.lines.find line with
  | none => s
  | some h =>
    if (s.ownerCopy line).map Prod.fst = some cl ∧ h.owner = some cl ∧ s.reservedIn cl line = false then
      (s.flushOwner line false).endClusterRsv cl line
    else s

/-- The number of bits set in a filter. -/
def filterCount (f : Word) : Nat := (List.range 32).foldl (fun n i => n + b2n (bit f.toNat i)) 0

/-- SET_RECALL (R313): a saturated filter makes the L1 invalidate its lines of the set that are homed at the slice. -/
def State.setRecall (s : State) (cl set slice : Nat) : State :=
  if filterCount (FMap.get 0#32 s.filters (filterKey cl set slice)) ≤ 24 then s
  else
    let s1 := ((s.setLines cl set slice).filter (fun n => ((s.copyOf cl n).map L1Line.tracked).getD false)).foldl
      (fun (u : State) n => u.evictCopy cl n) s
    s1.refilter cl set slice

/-- FILTER_ACK (R313): the recomputed filter of a set reaches the home. -/
def State.filterAck (s : State) (cl set slice : Nat) : State := s.refilter cl set slice

/-! ### Peer forwarding (R272, R273) -/

/-- Whether a leased copy may still serve a cluster (R339, R342): no thread of it has acquired since the copy's data was sent, or that data
is the line's own. An older one, which R272 alone would forward, could show what R339 forbids (DESIGN CHOICE, log 110). -/
def State.freshLease (s : State) (cl line : Nat) (x : L1Line) : Bool :=
  decide ((s.cluster cl).acquired ≤ x.filled) || decide (x.data = s.lineData line)

/-- PEER_PROBE (R272): a load's miss asks the predicted peer; a probe that fails changes nothing. -/
def State.peerProbe (s : State) (id peer : Nat) : State :=
  match s.op id with
  | none => s
  | some o =>
    match o.page with
    | none => s
    | some t =>
      let line := lineOf o.addr
      let cl := clusterOf o.core
      if !o.kind.loads || o.done || o.reply.isSome || s.blocked o || decide (o.cache = 2) || decide (peer = cl) ||
          s.bankPage t line || o.held || (s.hitCopy o t).isSome || s.pushShut peer line || !s.canInstall cl line then s
      else
        match s.copyOf peer line with
        | none => s
        | some x =>
          let put (k : GrantKind) (peer : Bool) : State := (s.makeWay cl line).onOp id (fun p => { p with
            reply := some { seq := 0, kind := k, data := x.data, poison := x.poison, wts := x.wts, rts := x.rts, peer := peer } })
          match t.mode, x.st with
          | .dir, .s => put .s true
          | .dir, .leased => s
          | .dir, _ => if t.w then s else put .s true
          | .selfInv, .leased =>
            if Time.le (s.core o.core).pts x.rts && s.freshLease cl line x then put .leased false else s
          | _, _ => s

/-- PEER_FORWARD_REGISTRATION (R273, R315): the home, in N with no write to the line waiting, takes the requester into its filter, or
has the install discarded; the load keeps the forwarded data. A write ordered before has discarded it already. -/
def State.peerRegister (s : State) (id : Nat) : State :=
  match s.op id with
  | none => s
  | some o =>
    match o.reply with
    | none => s
    | some r =>
      if !r.peer then s
      else
        let line := lineOf o.addr
        let ok := match s.lines.find line with
          | some h => h.owner.isNone && !h.demote && !s.serving line
          | none => false
        let s1 := if ok then s.addFilter (clusterOf o.core) line else s
        s1.sendReply o { r with peer := false, kind := if ok then .s else .none }

/-! ### Leases (R316 to R320, R426) -/

/-- LEASE_READ (R318): the home extends rts and answers with data and lease. -/
def State.leaseRead (s : State) (id : Nat) : State :=
  match s.op id with
  | none => s
  | some o =>
    match o.page with
    | none => s
    | some t =>
      let line := lineOf o.addr
      let s0 := s.touchHome line .selfInv
      if decide (t.mode ≠ .selfInv) || !o.kind.loads || o.done || o.reply.isSome || s.blocked o || s0.bankPage t line ||
          (s.hitCopy o t).isSome then s
      else
        let s1 := s0.flushOwner line true
        match s1.lines.find line with
        | none => s
        | some h =>
          let r := Time.max h.rts (Time.max h.wts (s.core o.core).pts + BitVec.ofNat 24 t.lease)
          let cl := clusterOf o.core
          let may := s1.canInstall cl line
          ((if may && decide (o.cache ≠ 2) then s1.makeWay cl line else s1).onHome line (fun x => { x with rts := r })).sendReply o
            { seq := 0, kind := if may then .leased else .none, data := s1.lineData line, poison := s1.linePoison line,
              wts := h.wts, rts := r, peer := false }

/-- The value that a store writes, and whether it writes: an stx only under its reservation (R156). -/
def MemOp.stores (o : MemOp) : Bool :=
  match o.kind with
  | .stx => decide (o.cmp ≠ 0)
  | _ => true

/-- A store that has taken its place at the home: an stx's status is its value. -/
def State.markStored (s : State) (o : MemOp) : State :=
  s.onOp o.id (fun p => { p with value := some (b2n (!o.stores)), held := false })

/-- Whether an operation is a store, not an atomic or a conditional store. -/
def MemOp.plainStore (o : MemOp) : Bool :=
  match o.kind with
  | .st => true
  | .stRel => true
  | _ => false

/-- A write of a leased line takes its new time, `raised` where its access has raised the line, and the writer's copy the new data
(R317, R318). -/
def State.leaseMerge (s : State) (o : MemOp) (raised : Bool) (v : Nat) : State :=
  let line := lineOf o.addr
  let t := s.timeAfter raised o.core line
  ((s.mergeHome o.addr o.n v 0).stampWrite o.core line t).renewFor o.core line (s.core o.core).pts o.plainStore

/-- Whether the guard band holds the write of an operation (R320). -/
def State.guarded (s : State) (o : MemOp) : Bool :=
  match s.isleOfMem o.addr with
  | some i => s.guardHolds i (s.writeTime o.core (lineOf o.addr))
  | none => false

/-- Whether another write to the line is held by the guard band, or waits for the line (R315, R320). -/
def State.heldBefore (s : State) (o : MemOp) : Bool :=
  s.dutyAt (lineOf o.addr) || s.ops.any (fun p => p.held && decide (p.id ≠ o.id) && p.page.isSome && decide (lineOf p.addr = lineOf o.addr))

/-- LEASE_WRITE (R318, R320, R323): a store to a self-invalidating or a demoted line takes a time past every lease, or is
held. -/
def State.leaseWrite (s : State) (id : Nat) : State :=
  match s.op id with
  | none => s
  | some o =>
    match o.page with
    | none => s
    | some t =>
      let s1 := (s.touchHome (lineOf o.addr) t.mode).flushOwner (lineOf o.addr) false
      let kind := match o.kind with
        | .st => true
        | .stx => true
        | .stRel => true
        | _ => false
      if !s1.timedLine (lineOf o.addr) || !kind || o.done || s.blocked o || o.held || s.heldBefore o then s
      else if !o.stores then s.markStored o
      else if s1.guarded o then s1.onOp id (fun p => { p with held := true, heldSince := some s.cycle })
      else (s1.leaseMerge o (s.raises (lineOf o.addr)) o.data).markStored o

/-- SWEEP (R320): a swept cluster invalidates its leased lines and moves its pts forward. -/
def State.sweepFor (s : State) (id cl : Nat) : State :=
  match s.op id with
  | none => s
  | some o =>
    match o.page, s.isleOfMem o.addr with
    | some _, some i =>
      let n := s.writeTime o.core (lineOf o.addr)
      if s.timedLine (lineOf o.addr) && o.held && (s.sweepSet i n).contains cl && !o.swept.contains cl then
        (s.sweepCluster cl n).onOp id (fun p => { p with swept := cl :: p.swept })
      else s
    | _, _ => s

/-- The result of an atomic on a 4-byte word (R344): the new value, or nothing where it does not write. -/
def atomResult (f : AtomFn) (old v w : Word) : Option Word :=
  match f with
  | .add => some (old + v)
  | .sub => some (old - v)
  | .min => some (if v.slt old then v else old)
  | .max => some (if old.slt v then v else old)
  | .and => some (old &&& v)
  | .or => some (old ||| v)
  | .xor => some (old ^^^ v)
  | .exch => some v
  | .cas => if old = v then some w else none
  | .fadd => some (Fpu.fadd .rne false false old v)
  | .fmin => some (Fpu.fmin false old v)
  | .fmax => some (Fpu.fmax false old v)
  | .bfadd2 => some (Fpu.padd .bf16 .rne false false old v)

/-- Whether the word of an atomic is poisoned (R344). -/
def State.atomBad (s : State) (o : MemOp) : Bool :=
  decide (s.linePoison (lineOf o.addr) &&& granulesOf (o.addr % 128) 4 ≠ 0)

/-- What an atomic writes at its bank, if it writes (R340, R344). -/
def State.atomWrites (s : State) (o : MemOp) (f : AtomFn) : Option Word :=
  if s.atomBad o then none
  else atomResult f (BitVec.ofNat 32 (s.mem.readNat o.addr 4)) (BitVec.ofNat 32 o.data) (BitVec.ofNat 32 (o.data >>> 32))

/-- An atomic applied at its bank (R309, R318, R340, R344); one that does not write is a read only. -/
def State.applyAtom (s : State) (o : MemOp) (f : AtomFn) (leased raised : Bool) : State :=
  let s1 := match s.atomWrites o f, o.page with
    | some v, _ => if leased then s.leaseMerge o raised v.toNat else s.mergeHome o.addr 4 v.toNat 0
    | none, some t => if leased then s.stampRead o.core (lineOf o.addr) t.lease else s
    | none, none => s
  s1.takeValue o (s.mem.readNat o.addr 4) (s.atomBad o)

/-- ATOMIC_APPLY (R309): the bank's atomic unit applies an atomic. -/
def State.atomicApply (s : State) (id : Nat) : State :=
  match s.op id with
  | none => s
  | some o =>
    match o.kind, o.page with
    | .atom f _ _, some t =>
      let line := lineOf o.addr
      let s0 := s.touchHome line t.mode
      if !o.done && !s.ordered o && s.demoting o then s.startDemotion o
      else if o.done || s.blocked o then s
      else if s0.timedLine line then
        if o.held || s.heldBefore o then s
        else
          let s1 := s0.flushOwner line false
          if (s1.atomWrites o f).isSome && s1.guarded o then s1.onOp id (fun p => { p with held := true, heldSince := some s.cycle })
          else s1.applyAtom o f true (s.raises line)
      else
        match t.mode with
        | .uncached =>
          match s0.await line .uncached true with
          | some s1 => s1
          | none => ((s0.flushOwner line false).dropShared line []).applyAtom o f false false
        | _ =>
          match s0.serve o true [] with
          | (s1, false) => s1
          | (s1, true) => s1.applyAtom o f false false
    | _, _ => s

/-- HELD_WRITE_RELEASE (R320): once the sweep is done, a held write or atomic is performed. -/
def State.heldRelease (s : State) (id : Nat) : State :=
  match s.op id with
  | none => s
  | some o =>
    match o.page, s.isleOfMem o.addr with
    | some _, some i =>
      let n := s.writeTime o.core (lineOf o.addr)
      if s.timedLine (lineOf o.addr) && o.held && !o.done && (s.sweepSet i n).all (fun cl => o.swept.contains cl) then
        let o1 := { o with held := false }
        match o.kind with
        | .atom f _ _ => s.applyAtom o1 f true false
        | _ => (s.leaseMerge o1 false o.data).markStored o1
      else s
    | _, _ => s

/-- FLOOR_DELIVERY (R426, R319): a floor that has moved by 2^16 ticks reaches clusters and slices, those too whose mts is still at its
reset value. -/
def State.floorDelivery (s : State) (i : Nat) : State :=
  let f := s.floor i
  if (f - (s.isle i).floorSent).toNat < 2 ^ 16 then s
  else
    let s1 := (s.isleClusters i).foldl (fun (u : State) cl => u.onCluster cl (fun c =>
      { c with l1 := c.l1.keep (fun x => x.tracked || !Time.before x.rts f) })) s
    let s2 := { s1 with lines := s1.lines.mapVal (fun n (h : HomeLine) =>
      if h.mode = CMode.selfInv ∧ s1.isleOfMem (128 * n) = some i ∧ Time.before h.rts f = true then { h with wts := f, rts := f } else h) }
    s2.onIsle i (fun x => { x with
      floorSent := f, mts := (List.range 96).map (fun k => (k, atFloor f (FMap.get 0#24 x.mts k))) })

/-- PTS_TICK (R316): pts moves by one in a cycle that is a multiple of 1024. -/
def State.ptsTick (s : State) (core : Nat) : State :=
  if s.coreCycle core % 1024 = 0 then s.onCore core (fun c => { c with pts := c.pts + 1#24 }) else s

/-! ### Stores -/

/-- HOME_WRITE (R315, R321, R322, R155): a store performed at its home slice. -/
def State.homeWrite (s : State) (id : Nat) : State :=
  match s.op id with
  | none => s
  | some o =>
    match o.page with
    | none => s
    | some t =>
      let line := lineOf o.addr
      let cl := clusterOf o.core
      let s0 := s.touchHome line t.mode
      let kind := match o.kind with
        | .st => true
        | .stx => true
        | .stRel => true
        | _ => false
      if kind && !o.done && !s.ordered o && s.demoting o then s.startDemotion o
      else if !kind || o.done || s.blocked o || s0.timedLine line ||
          !(s0.bankPage t line || decide (o.cache = 2)) || o.reply.isSome then s
      else if !o.stores then s.markStored o
      else if s0.atBank line t.mode then
        match s0.await line t.mode true with
        | some s1 => s1
        | none => ((((s0.flushOwner line false).dropShared line []).mergeHome o.addr o.n o.data 0)).markStored o
      else
        let own := if o.cache = 2 then [cl] else []
        let s1 := match s0.lines.find line with
          | some h => if h.owner = some cl ∧ o.cache = 2 then s0.flushOwner line true else s0
          | none => s0
        match s1.serve o true own with
        | (s2, false) => s2
        | (s2, true) => (((s2.mergeHome o.addr o.n o.data 0).refreshCopy cl line).cancelReplies line []).markStored o

/-- A store performed in the cluster's L1, which owns the line (R153, R314). -/
def State.storeInL1 (s : State) (o : MemOp) (x : L1Line) : State :=
  let line := lineOf o.addr
  (s.setCopy (clusterOf o.core) line (some { x with
    st := .m, data := putData x.data (o.addr % 128) o.n o.data, poison := poisonAfter x.poison (o.addr % 128) o.n 0,
    keep := o.cache })).endRsv line

/-- A performed store is over: its flag falls; an stx writes its status (R153, R156). -/
def State.finishStore (s : State) (o : MemOp) (status : Nat) : State :=
  match o.kind with
  | .stx => (s.onUid o.core o.slot o.uid o.tid (fun t => t.putReg o.dst (BitVec.ofNat 32 status))).completeOp o
  | _ => s.completeOp o

/-- STORE_PERFORMED (R153): a store takes its place in the coherence order, in an SRAM or in the L1, or has taken it at
the home, and its flag falls. All its bytes are written in this one act, so that no load finds some of them without the others, .q
included (R151). A release fence is over once all before it is performed, an acquire fence once its waits have ended, and it acquires then
(R341, R342, R345). -/
def State.storePerformed (s : State) (id : Nat) : State :=
  match s.op id with
  | none => s
  | some o =>
    match o.kind with
    | .fenceRel => if s.blocked o then s else s.dropOp id
    | .fenceAcq => if s.blocked o then s else (s.acquire (clusterOf o.core) o.scope none).dropOp id
    | .st | .stRel | .stx =>
      match o.value with
      | some v => s.finishStore o v
      | none =>
        if s.blocked o then s
        else if !o.stores then s.finishStore o 1
        else
          match o.page with
          | none =>
            if o.space = 1 then (s.writeSpad (clusterOf o.core) o.addr o.n o.data).finishStore o 0
            else if s.accReady o then (s.writeAcc o.core o.addr o.n o.data).finishStore o 0
            else s
          | some t =>
            if t.mode ≠ .dir ∨ s.bankPage t (lineOf o.addr) ∨ o.cache = 2 then s
            else
              match s.copyOf (clusterOf o.core) (lineOf o.addr) with
              | some x =>
                if x.st = .m ∨ x.st = .e then (s.storeInL1 o x).finishStore o 0 else s
              | none => s
    | _ => s

end Sys2Proof.Machine
end

