-- ==== Sys2Proof/Machine/Memory.lean ====
section
/-! DEFINITION. The memory instructions at issue (R148 to R160, R343 to R345): forming and checking the address, what a
thread's accepted access becomes, and the beacon lane's accesses, each of which is one act (R237, R238). -/

namespace Sys2Proof.Machine

/-! ### The address -/

/-- The offset of a bound imm hint (R51, R148). -/
def immOffset (b : Option Bind) : Int :=
  match b.bind (fun x => x.imm) with
  | some p => signed 26 p.toNat
  | none => 0

/-- An access of an instruction: space, size in bytes and as a code, and the permissions it needs. -/
def wantOf (i : Instr) (seg n size : Nat) (rd wr : Bool) : Want :=
  { seg := seg, n := n, rd := rd, wr := wr, ex := false, size := size, cls := clsOf i, op := opOf i }

/-- The address of a thread's access (R148), in a segment as far as it reaches (R26). -/
def Thread.form (th : Thread) (c : Ctx) (w : Want) (a : Opnd) : Formed :=
  formAddr (c.bounds.clip w.seg (th.segs.getD w.seg 0#128)) w.seg w.n (if w.seg = 0 then (th.readP c a).toNat else (th.readW c a).toNat)
    (immOffset th.bind)

/-- The operand use of an address field. -/
def addrUse (seg : Nat) (a : Opnd) : OpndUse := ⟨if seg = 0 then .ps else .ws, a, true, false⟩

/-- The PRIV trap of a segment's S bit (R149, R166), which goes before REG and LATCH. -/
def accessPre (w : Want) (a : Opnd) (s : State) (c : Ctx) (th : Thread) : Option Raise :=
  let v := s.viewer c th
  if v.sRefuses w then
    some ⟨causePriv, v.detail w false 0, if (operandTrap c [addrUse w.seg a] th).isSome then 0 else (th.form c w a).addr⟩
  else none

/-- The uncached page of an io access that reaches HBM (log 21). -/
def ioPage (pa : Nat) : Tlb :=
  { vbase := pa / 4096 * 4096, bits := 12, pbase := pa / 4096 * 4096, u := true, x := false, w := true, r := true,
    mode := .uncached, sc := true, lease := 10 }

/-- Whether an access that passed its checks reaches a device (R405). -/
def Hit.device (h : Hit) (w : Want) : Bool := (decide (w.seg = 7) || h.page.isSome) && decide (hbmEnd ≤ h.pa)

/-- The page under which an access is performed; an access to HBM in M mode is directory-tracked through space 7 too (R238). -/
def Hit.pageFor (h : Hit) (mm : Bool) (w : Want) : Option Tlb :=
  if w.seg = 7 then some (if mm then mPage h.pa else ioPage h.pa) else h.page

/-! ### Threads: acceptance (R150) -/

/-- An effect on the state of a thread's instruction, with what it comes to. -/
abbrev Act1 := Host.Outcome (State × Eff) Fault Refusal

/-- An access of a thread checked under R149; `k` goes on with what passed. -/
def State.access (s : State) (c : Ctx) (w : Want) (a : Opnd) (k : Thread → Hit → State → Act1) : Act1 :=
  match s.thread c.core c.slot c.tid with
  | none => .next (s, .stall)
  | some th =>
    match s.checkFormed (s.viewer c th) w (th.form c w a) with
    | .error r => .next (s, .trap r)
    | .ok h => k th h (s.noteHit (s.viewer c th) h)

/-- The cache policy of a bound mod hint (R155). -/
def policyOf (b : Option Bind) : Nat :=
  match b.bind (fun b => b.mod) with
  | some m => m.cache
  | none => 0

/-- The cache policy of a thread's access. -/
def Thread.policy (th : Thread) : Nat := policyOf th.bind

/-- The accepted access as an operation in flight (R150). -/
def State.memOp (s : State) (c : Ctx) (th : Thread) (w : Want) (h : Hit) (kind : OpKind) (flag : BitVec 4)
    (dst parts data scope : Nat) : MemOp :=
  { id := 0, core := c.core, slot := c.slot, tid := c.tid, uid := c.uid, kind := kind, space := w.seg, addr := h.pa,
    n := w.n, fault := BitVec.ofNat 48 h.addr, page := h.pageFor false w, flag := flag.toNat, dst := dst, parts := parts,
    data := data, cmp := 0, cache := th.policy, scope := scope, pc := th.pcOf,
    detail := BitVec.ofNat 32 ((s.viewer c th).detail w false 0), value := none, poisoned := false, reply := none,
    held := false, heldSince := none, swept := [], pushes := [] }

/-- An operation put in flight: its flag rises; `all` and `mem` tell what waits for it at the thread's next issue. -/
def State.launch (s : State) (o : MemOp) (all mem : Bool) : State :=
  let s1 := s.fresh.2
  let id := s.fresh.1
  { s1 with ops := s1.ops ++ [{ o with id := id }] }.onThread o.core o.slot o.tid (fun t =>
    { t.raiseFlag o.flag with
      waitAll := if all then id :: t.waitAll.filter (fun k => s.inFlight k) else t.waitAll.filter (fun k => s.inFlight k)
      waitMem := if mem then id :: t.waitMem.filter (fun k => s.inFlight k) else t.waitMem.filter (fun k => s.inFlight k) })

/-- Whether the page of an access is an SC page, or the access an io access: the thread waits for it (R161, R163). -/
def waitsPage (o : MemOp) : Bool :=
  match o.page with
  | some t => t.sc
  | none => false

/-- A read accepted (R152): a device is read at once, by its own rule for the access (R151), all else in its data phase. -/
def State.startRead (s : State) (o : MemOp) (w : Want) (h : Hit) (mem : Bool) (e : Eff) : Act1 :=
  if h.device w then .next (s.launch { o with value := some (s.devRead false h.pa w.n), page := none } true mem, e)
  else .next (s.launch o (decide (o.flag = 15) || waitsPage o) mem, e)

/-- A write accepted (R153): a device is written at once, all else in its data phase. `ret`: it answers a value (R41). -/
def State.startWrite (s : State) (o : MemOp) (w : Want) (h : Hit) (ret : Bool) (e : Eff) : Act1 :=
  if h.device w then .next ((s.devWrite false h.pa w.n o.data).launch { o with value := some 0, page := none } true false, e)
  else .next (s.launch o ((ret && decide (o.flag = 15)) || waitsPage o) false, e)

/-! ### Beacon lanes -/

/-- An effect of a lane's instruction. -/
abbrev LaneAct := Host.Outcome (State × LaneEff) Fault Refusal

/-- The address of a lane's access (R148, R235), in a segment as far as it reaches. -/
def Lane.form (l : Lane) (core cycle : Nat) (pts : Time) (w : Want) (a : Opnd) : Formed :=
  formAddr (Bounds.whole.clip w.seg (l.segs.getD w.seg 0#128)) w.seg w.n
    (if w.seg = 0 then (l.readP a).toNat else (l.readW core cycle pts a).toNat) (immOffset l.bind)

/-- What a lane's access waits for: a queued matrix operation that reads or writes its bytes of the accumulator (R218), or the home
of its line (R156, R315). -/
def State.laneWait (s : State) (core : Nat) (w : Want) (h : Hit) : Option State :=
  if w.seg = 2 then
    if (s.core core).matQ.any (fun m => overlap m.extent.1 m.extent.2 h.pa w.n) then some s else none
  else
    match h.pageFor (s.laneViewer core).mmode w with
    | some t => if h.pa < hbmEnd then s.await (lineOf h.pa) t.mode w.wr else none
    | none => none

/-- A formed access of a lane checked under R149 (R238); a lane waits at its instruction until its access can be performed. -/
def State.laneCheck (s : State) (core : Nat) (w : Want) (f : Formed) (k : Hit → State → LaneAct) : LaneAct :=
  match s.checkFormed (s.laneViewer core) w f with
  | .error r => .next (s, .exc r)
  | .ok h =>
    match s.laneWait core w h with
    | some s1 => .next (s1, .stay)
    | none => k h (s.noteHit (s.laneViewer core) h)

/-- A lane's access from its operand. -/
def State.laneAccess (s : State) (core : Nat) (w : Want) (a : Opnd) (k : Hit → State → LaneAct) : LaneAct :=
  s.laneCheck core w (((s.core core).lane).form core (s.coreCycle core) (s.core core).pts w a) k

/-- A lane's read performed (R237): `k` takes the value; poison is a MACHINE exception, precise and so with defer 0 (R170; DEDUCED,
log 106). -/
def State.laneRead (s : State) (core : Nat) (w : Want) (h : Hit) (k : Nat → State → LaneAct) : LaneAct :=
  let v := s.laneViewer core
  let put (s1 : State) (x : Nat) (bad : Bool) : LaneAct :=
    if bad then .next (s1, .exc ⟨causeMachine, v.detail w false 0, h.addr⟩) else k x s1
  if w.seg = 1 then put s (s.readSpad (clusterOf core) h.pa w.n) (s.spadBad (clusterOf core) h.pa w.n)
  else if w.seg = 2 then put s (s.readAcc core h.pa w.n) (s.accBad core h.pa w.n)
  else if h.device w then k (s.devRead v.mmode h.pa w.n) s
  else
    match h.pageFor v.mmode w with
    | some t =>
      match s.readHome core t.mode t.lease h.pa w.n with
      | (s1, x, bad) => put s1 x bad
    | none => put s 0 false

/-- A lane's write performed (R237); `plain` for a store, not an stx (R317). -/
def State.laneWrite (s : State) (core : Nat) (plain : Bool) (w : Want) (h : Hit) (x : Nat) : State :=
  if w.seg = 1 then s.writeSpad (clusterOf core) h.pa w.n x
  else if w.seg = 2 then s.writeAcc core h.pa w.n x
  else if h.device w then s.devWrite (s.laneViewer core).mmode h.pa w.n x
  else
    match h.pageFor (s.laneViewer core).mmode w with
    | some t => s.writeHomeAs plain core t.mode h.pa w.n x 0 []
    | none => s

/-- A lane's write, then what its instruction comes to. -/
def State.laneStore (s : State) (core : Nat) (w : Want) (h : Hit) (x : Nat) (e : LaneEff) : LaneAct :=
  .next (s.laneWrite core true w h x, e)

/-- What a beacon lane's acquire at a scope does, its value taken from an access (R342). -/
def State.laneAcquire (s : State) (core scope : Nat) (h : Hit) : State :=
  let leased := match h.page with
    | some t => if t.mode = .selfInv then some (lineOf h.pa) else none
    | none => none
  s.acquire (clusterOf core) scope leased

/-! ### ld, st -/

/-- Bytes of a size of ld (R148). -/
def ldBytes (z : LdSize) : Nat :=
  match z with
  | .b => 1
  | .bs => 1
  | .h => 2
  | .hs => 2
  | .w => 4
  | .d => 8
  | .q => 16

/-- Bytes of a size of st (R148). -/
def stBytes (z : StSize) : Nat :=
  match z with
  | .b => 1
  | .h => 2
  | .w => 4
  | .d => 8
  | .q => 16

/-- Bytes of a size of ldx and stx (R148). -/
def xBytes (z : XSize) : Nat :=
  match z with
  | .w => 4
  | .d => 8

/-- The registers that ldx writes, as a mask. -/
def xParts (z : XSize) : Nat :=
  match z with
  | .w => 1
  | .d => 3

/-- The value that a beacon lane's load delivers to its destination (R235). -/
def Lane.takeLoad (l : Lane) (size : LdSize) (d : Opnd) (v : Nat) : Lane :=
  match size with
  | .d => l.writeP d (BitVec.ofNat 64 v)
  | .q =>
    (((l.writeW d (BitVec.ofNat 32 v)).writeW (d + 1) (BitVec.ofNat 32 (v >>> 32))).writeW (d + 2)
      (BitVec.ofNat 32 (v >>> 64))).writeW (d + 3) (BitVec.ofNat 32 (v >>> 96))
  | z => l.writeW d (OpKind.word (.ld z) v 0)

/-- LD (R152): load. -/
def execLd (seg : BitVec 3) (flag : BitVec 4) (d a : Opnd) (size : LdSize) (s : State) : Out :=
  let i := Instr.ld seg flag d a size
  let w := wantOf i seg.toNat (ldBytes size) size.code.toNat true false
  bothOp i (accessPre w a)
    (fun c s => s.access c w a (fun th h s1 =>
      s1.startRead (s.memOp c th w h (.ld size) flag d.toNat (ldParts size) 0 0) w h false .next))
    (fun core _ s => s.laneAccess core w a (fun h s1 => s1.laneRead core w h (fun v s2 =>
      .next (s2.onLane core (fun l => l.takeLoad size d v), .next)))) s

/-- The data of a store, read at issue (R153, R154). -/
def Thread.storeData (th : Thread) (c : Ctx) (size : StSize) (d : Opnd) : Nat :=
  match size with
  | .d => (th.readP c d).toNat
  | .q => (th.readQ c d).toNat
  | z => (th.readW c d).toNat % 2 ^ (8 * stBytes z)

/-- The data of a lane's store. -/
def Lane.storeData (l : Lane) (core cycle : Nat) (pts : Time) (size : StSize) (d : Opnd) : Nat :=
  match size with
  | .d => (l.readP d).toNat
  | .q => (l.readQ d).toNat
  | z => (l.readW core cycle pts d).toNat % 2 ^ (8 * stBytes z)

/-- ST (R153): store. -/
def execSt (seg : BitVec 3) (flag : BitVec 4) (d a : Opnd) (size : StSize) (s : State) : Out :=
  let i := Instr.st seg flag d a size
  let w := wantOf i seg.toNat (stBytes size) size.code.toNat false true
  bothOp i (accessPre w a)
    (fun c s => s.access c w a (fun th h s1 =>
      s1.startWrite (s.memOp c th w h .st flag 0 0 (th.storeData c size d) 0) w h false .next))
    (fun core l s => s.laneAccess core w a (fun h s1 =>
      s1.laneStore core w h (l.storeData core (s.coreCycle core) (s.core core).pts size d) .next)) s

/-! ### ldx, stx -/

/-- LDX (R156): load and reserve. -/
def execLdx (seg : BitVec 3) (flag : BitVec 4) (d a : Opnd) (size : XSize) (s : State) : Out :=
  let i := Instr.ldx seg flag d a size
  let w := wantOf i seg.toNat (xBytes size) size.code.toNat true false
  bothOp i (accessPre w a)
    (fun c s => s.access c w a (fun th h s1 =>
      (s1.onThread c.core c.slot c.tid (fun t => { t with rsv := none })).startRead
        (s.memOp c th w h .ldx flag d.toNat (xParts size) 0 0) w h false .next))
    (fun core _ s => s.laneAccess core w a (fun h s1 => s1.laneRead core w h (fun v s2 =>
      .next (s2.onLane core (fun l =>
        { l.takeLoad (if size = .d then .d else .w) d v with rsv := some ⟨h.pa, h.addr, w.n⟩ }), .next)))) s

/-- Whether an stx at issue finds its reservation: held by the thread (1), still to be taken by an earlier ldx (2), or
not (0). -/
def State.rsvState (s : State) (c : Ctx) (th : Thread) (h : Hit) (n : Nat) : Nat :=
  let due := s.ops.any (fun o => decide (o.core = c.core) && decide (o.slot = c.slot) && decide (o.uid = c.uid) &&
    decide (o.tid = c.tid) && decide (o.kind = .ldx) && !o.done)
  if due then 2 else if th.rsv = some ⟨h.pa, h.addr, n⟩ then 1 else 0

/-- STX (R156): conditional store; its status replaces d. -/
def execStx (seg : BitVec 3) (flag : BitVec 4) (d a : Opnd) (size : XSize) (s : State) : Out :=
  let i := Instr.stx seg flag d a size
  let w := wantOf i seg.toNat (xBytes size) size.code.toNat false true
  let st : StSize := if size = .d then .d else .w
  bothOp i (accessPre w a)
    (fun c s => s.access c w a (fun th h s1 =>
      let o := s.memOp c th w h .stx flag d.toNat 0 (th.storeData c st d) 0
      (s1.onThread c.core c.slot c.tid (fun t => { t with rsv := none })).startWrite
        { o with cmp := s.rsvState c th h w.n } w h true .next))
    (fun core l s => s.laneAccess core w a (fun h s1 =>
      let data := l.storeData core (s.coreCycle core) (s.core core).pts st d
      let status (s2 : State) (v : Word) : State := s2.onLane core (fun l =>
        if size = .d then { l.writeP d (hi32 (l.readP d) ++ v) with rsv := none } else { l.writeW d v with rsv := none })
      if l.rsv = some ⟨h.pa, h.addr, w.n⟩ then
        .next (status (s1.laneWrite core false w h data) 0#32, .next)
      else .next (status s1 1#32, .next))) s

/-! ### pf, lea, segq, segld -/

/-- A prefetch (R157): a checked address brings its line toward the L1, one in the code space toward fetch; any cause from PRIV
onward drops it. -/
def State.prefetch (s : State) (v : Viewer) (w : Want) (f : Formed) (keep : Nat) : State :=
  if v.sRefuses w then s
  else
    match s.checkFormed v w f with
    | .error r => if v.mmode then s else s.trapWalk v.core r
    | .ok h =>
      match h.page with
      | some t => (s.noteHit v h).bringLine v.core h.pa t keep
      | none => s

/-- The access that a prefetch checks: a read, in the code space too (R22, R149, R157, R310). -/
def pfWant (i : Instr) (seg : Nat) : Want := wantOf i seg 1 0 true false

/-- PF (R157): no architectural effect; its access checks raise nothing. -/
def execPf (seg : BitVec 3) (a : Opnd) (s : State) : Out :=
  let w := pfWant (.pf seg a) seg.toNat
  bothOp (.pf seg a) noTrapS
    (fun c s =>
      match s.thread c.core c.slot c.tid with
      | none => .next (s, .stall)
      | some th => .next (s.prefetch (s.viewer c th) w (th.form c w a) th.policy, .next))
    (fun core l s =>
      .next (s.prefetch (s.laneViewer core) w (l.form core (s.coreCycle core) (s.core core).pts w a) (policyOf l.bind), .next)) s

/-- LEA (R158): the formed address. Its PRIV trap has no memory detail: inside an mcall it carries the operation's index (R59). -/
def execLea (seg : BitVec 3) (d a : Opnd) (s : State) : Out :=
  let i := Instr.lea seg d a
  let w := wantOf i seg.toNat 1 0 false false
  bothOp i (fun s c th => if (s.viewer c th).sRefuses w then some ⟨causePriv, (th.mac.map (fun m => m.idx)).getD (wordOf i), 0⟩ else none)
    (fun c s =>
      match s.thread c.core c.slot c.tid with
      | none => .next (s, .stall)
      | some th =>
        let v := BitVec.ofNat 64 (th.form c w a).addr
        .next (s.onThread c.core c.slot c.tid (fun t =>
          (t.result c 4 d.toNat (lo32 v)).result c 4 (d.toNat + 1) (hi32 v)), .next))
    (fun core l s => .next (s.onLane core (fun _ =>
      l.writeP d (BitVec.ofNat 64 (l.form core (s.coreCycle core) (s.core core).pts w a).addr)), .next)) s

/-- Word `k` of a segment register (R22, R159). -/
def segWord (g : BitVec 128) (k : Nat) : Word := BitVec.extractLsb' (32 * k) 32 g

/-- SEGQ (R159): a word of a segment register. -/
def execSegq (seg : BitVec 3) (d : Opnd) (w : BitVec 2) (s : State) : Out :=
  bothOp (.segq seg d w) noTrapS
    (fun c s => .next (s.onThread c.core c.slot c.tid (fun t =>
      t.result c 4 d.toNat (segWord (t.segs.getD seg.toNat 0#128) w.toNat)), .next))
    (fun core l s => .next (s.onLane core (fun _ =>
      l.writeW d (segWord (l.segs.getD seg.toNat 0#128) w.toNat)), .next)) s

/-- SEGLD (R160, R22, R23): a segment register written, with its forced bits. What is written to seg.1 or seg.2 beyond the crew's
allocation stands in the register, and an access reaches the allocation alone (R26; DESIGN CHOICE, log 100). -/
def execSegld (seg : BitVec 3) (d : Opnd) (s : State) : Out :=
  bothOp (.segld seg d) noTrapS
    (fun c s => .next (s.onThread c.core c.slot c.tid (fun t =>
      { t with segs := setAt t.segs seg.toNat (forceSeg seg.toNat (t.readQ c d)) }), .next))
    (fun core l s => .next (s.onLane core (fun _ =>
      { l with segs := setAt l.segs seg.toNat (forceSeg seg.toNat (l.readQ d)) }), .next)) s

/-! ### ld.acq, st.rel -/

/-- LD_ACQ (R343): load with acquire ordering. -/
def execLdAcq (flag : BitVec 4) (p : Opnd) (dbl : Bool) (pair k : BitVec 5) (s : State) : Out :=
  let i := Instr.ldAcq flag p dbl pair k
  let a := pairReg pair
  let w := wantOf i 0 (if dbl then 8 else 4) (if dbl then 5 else 4) true false
  bothOp i (accessPre w a)
    (fun c s => s.access c w a (fun th h s1 =>
      s1.startRead (s.memOp c th w h .ldAcq flag p.toNat (if dbl then 3 else 1) 0 k.toNat) w h true .next))
    (fun core _ s => s.laneAccess core w a (fun h s1 => s1.laneRead core w h (fun v s2 =>
      .next ((s2.laneAcquire core k.toNat h).onLane core (fun l => l.takeLoad (if dbl then .d else .w) p v),
        .next)))) s

/-- Whether a scope, as a thread of a core names it, contains core `n` (R284, R330, R331). -/
def State.scopeHas (s : State) (core scope n : Nat) : Bool :=
  match scope with
  | 0 => false
  | 1 => decide (n = core)
  | 2 => decide (clusterOf n = clusterOf core)
  | 3 => decide (dieOfCore n = dieOfCore core)
  | 4 => true
  | 5 => true
  | k =>
    let g := FMap.get 0#384 (s.isle (s.isleNo core)).groups k
    decide (g = 0#384) || bit g.toNat n

/-- The earlier pushes of a thread that a scope covers (R284). -/
def State.coveredPushes (s : State) (c : Ctx) (scope : Nat) : List Nat :=
  (s.pushes.filter (fun p => decide (p.core = c.core) && decide (p.slot = c.slot) && decide (p.uid = c.uid) &&
    decide (p.tid = c.tid) && p.names.any (fun n => s.scopeHas c.core scope n))).map (fun p => p.id)

/-- The copying matrix operations of a thread that are still in the queue (R231, R345): every one, or only the loads. -/
def State.matWaits (s : State) (c : Ctx) (all : Bool) : List Nat :=
  ((s.core c.core).matQ.filter (fun m => decide (m.slot = c.slot) && decide (m.uid = c.uid) &&
    (match m.kind with
     | .accld _ _ _ tid => decide (tid = c.tid)
     | .accst _ _ _ tid => all && decide (tid = c.tid)
     | _ => false))).map (fun m => m.id)

/-- Whether no memory operation of a thread is in flight. -/
def State.drained (s : State) (c : Ctx) : Bool :=
  s.ops.all (fun o => !(decide (o.core = c.core) && decide (o.slot = c.slot) && decide (o.uid = c.uid) && decide (o.tid = c.tid)))

/-- Whether every earlier access of a thread has been performed, accld and accst included, and the pushes that a scope covers have
completed: what a release at the scope waits for (R284, R336, R347, R348). -/
def State.released (s : State) (c : Ctx) (scope : Nat) : Bool :=
  s.drained c && (s.matWaits c true).isEmpty && (s.coveredPushes c scope).isEmpty

/-- Whether every earlier access of a thread has been performed at package scope, its pushes too: what an S-class instruction that
performs the issuer's earlier accesses waits for (R327, R333). -/
def State.settled (s : State) (c : Ctx) : Bool :=
  s.released c 4 && s.pushes.all (fun p => !(decide (p.core = c.core) && decide (p.slot = c.slot) && decide (p.uid = c.uid) &&
    decide (p.tid = c.tid)) || p.merged)

/-- ST_REL (R343): store with release ordering. -/
def execStRel (flag : BitVec 4) (p : Opnd) (dbl : Bool) (pair k : BitVec 5) (s : State) : Out :=
  let i := Instr.stRel flag p dbl pair k
  let a := pairReg pair
  let w := wantOf i 0 (if dbl then 8 else 4) (if dbl then 5 else 4) false true
  let size : StSize := if dbl then .d else .w
  bothOp i (accessPre w a)
    (fun c s => s.access c w a (fun th h s1 =>
      let o := s.memOp c th w h .stRel flag 0 0 (th.storeData c size p) k.toNat
      s1.startWrite { o with pushes := s.coveredPushes c k.toNat } w h false .next))
    (fun core l s => s.laneAccess core w a (fun h s1 =>
      s1.laneStore core w h (l.storeData core (s.coreCycle core) (s.core core).pts size p) .next)) s

/-! ### The atoms -/

/-- Whether an ordering acquires (R344). -/
def ordAcq (o : AtomOrd) : Bool := decide (o = .acq) || decide (o = .ar)

/-- Whether an ordering releases (R344). -/
def ordRel (o : AtomOrd) : Bool := decide (o = .rel) || decide (o = .ar)

/-- A lane's atomic, applied at its home (R237, R309, R344). -/
def State.laneAtom (s : State) (core : Nat) (w : Want) (h : Hit) (f : AtomFn) (v e : Word)
    (k : Word → State → LaneAct) : LaneAct :=
  match h.pageFor (s.laneViewer core).mmode w with
  | none => .next (s, .stay)
  | some t =>
    if hbmEnd ≤ h.pa then
      let x := BitVec.ofNat 32 (s.devRead (s.laneViewer core).mmode h.pa 4)
      match atomResult f x v e with
      | some y => k x (s.devWrite (s.laneViewer core).mmode h.pa 4 y.toNat)
      | none => k x s
    else
      match s.readHome core t.mode t.lease h.pa 4 with
      | (s1, x, bad) =>
        if bad then .next (s, .exc ⟨causeMachine, (s.laneViewer core).detail w false 0, h.addr⟩)
        else
          match atomResult f (BitVec.ofNat 32 x) v e with
          | some y => k (BitVec.ofNat 32 x) (s.writeHomeAs false core t.mode h.pa 4 y.toNat 0 [])
          | none => k (BitVec.ofNat 32 x) s1

/-- An atomic of a device register for a thread (R405): outside the isle's memory no page reaches one; kept whole. -/
def State.startAtom (s : State) (o : MemOp) (w : Want) (h : Hit) (f : AtomFn) (mem : Bool) : Act1 :=
  if h.device w then
    let x := s.devRead false h.pa 4
    let s1 := match atomResult f (BitVec.ofNat 32 x) (BitVec.ofNat 32 o.data) (BitVec.ofNat 32 (o.data >>> 32)) with
      | some y => s.devWrite false h.pa 4 y.toNat
      | none => s
    .next (s1.launch { o with value := some x, page := none } true mem, .next)
  else .next (s.launch o (decide (o.flag = 15) || waitsPage o) mem, .next)

/-- The atom family (R344): `f` is the read-modify-write. -/
def atomOp (i : Instr) (f : AtomFn) (flag : BitVec 4) (p : Opnd) (ord : AtomOrd) (pair k : BitVec 5) (s : State) : Out :=
  let a := pairReg pair
  let w := wantOf i 0 4 4 true true
  bothOp i (accessPre w a)
    (fun c s => s.access c w a (fun th h s1 =>
      let data := if f = AtomFn.cas then (th.readP c p).toNat else (th.readW c p).toNat
      let o := s.memOp c th w h (.atom f (ordAcq ord) (ordRel ord)) flag p.toNat 1 data (if ordAcq ord then k.toNat else 0)
      s1.startAtom { o with pushes := if ordRel ord then s.coveredPushes c k.toNat else [] } w h f (ordAcq ord)))
    (fun core l s => s.laneAccess core w a (fun h s1 =>
      let x := l.readP p
      s1.laneAtom core w h f (lo32 x) (hi32 x) (fun v s2 =>
        let s3 := if ordAcq ord then s2.laneAcquire core k.toNat h else s2
        .next (s3.onLane core (fun l =>
          if f = AtomFn.cas then l.writeP p (hi32 x ++ v) else l.writeW p v), .next)))) s

/-- ATOM_ADD (R344). -/
def execAtomAdd (flag : BitVec 4) (p : Opnd) (ord : AtomOrd) (pair k : BitVec 5) (s : State) : Out :=
  atomOp (.atomAdd flag p ord pair k) .add flag p ord pair k s

/-- ATOM_SUB (R344). -/
def execAtomSub (flag : BitVec 4) (p : Opnd) (ord : AtomOrd) (pair k : BitVec 5) (s : State) : Out :=
  atomOp (.atomSub flag p ord pair k) .sub flag p ord pair k s

/-- ATOM_MIN (R344). -/
def execAtomMin (flag : BitVec 4) (p : Opnd) (ord : AtomOrd) (pair k : BitVec 5) (s : State) : Out :=
  atomOp (.atomMin flag p ord pair k) .min flag p ord pair k s

/-- ATOM_MAX (R344). -/
def execAtomMax (flag : BitVec 4) (p : Opnd) (ord : AtomOrd) (pair k : BitVec 5) (s : State) : Out :=
  atomOp (.atomMax flag p ord pair k) .max flag p ord pair k s

/-- ATOM_AND (R344). -/
def execAtomAnd (flag : BitVec 4) (p : Opnd) (ord : AtomOrd) (pair k : BitVec 5) (s : State) : Out :=
  atomOp (.atomAnd flag p ord pair k) .and flag p ord pair k s

/-- ATOM_OR (R344). -/
def execAtomOr (flag : BitVec 4) (p : Opnd) (ord : AtomOrd) (pair k : BitVec 5) (s : State) : Out :=
  atomOp (.atomOr flag p ord pair k) .or flag p ord pair k s

/-- ATOM_XOR (R344). -/
def execAtomXor (flag : BitVec 4) (p : Opnd) (ord : AtomOrd) (pair k : BitVec 5) (s : State) : Out :=
  atomOp (.atomXor flag p ord pair k) .xor flag p ord pair k s

/-- ATOM_EXCH (R344). -/
def execAtomExch (flag : BitVec 4) (p : Opnd) (ord : AtomOrd) (pair k : BitVec 5) (s : State) : Out :=
  atomOp (.atomExch flag p ord pair k) .exch flag p ord pair k s

/-- ATOM_CAS (R344). -/
def execAtomCas (flag : BitVec 4) (p : Opnd) (ord : AtomOrd) (pair k : BitVec 5) (s : State) : Out :=
  atomOp (.atomCas flag p ord pair k) .cas flag p ord pair k s

/-- ATOM_FADD (R344). -/
def execAtomFadd (flag : BitVec 4) (p : Opnd) (ord : AtomOrd) (pair k : BitVec 5) (s : State) : Out :=
  atomOp (.atomFadd flag p ord pair k) .fadd flag p ord pair k s

/-- ATOM_FMIN (R344). -/
def execAtomFmin (flag : BitVec 4) (p : Opnd) (ord : AtomOrd) (pair k : BitVec 5) (s : State) : Out :=
  atomOp (.atomFmin flag p ord pair k) .fmin flag p ord pair k s

/-- ATOM_FMAX (R344). -/
def execAtomFmax (flag : BitVec 4) (p : Opnd) (ord : AtomOrd) (pair k : BitVec 5) (s : State) : Out :=
  atomOp (.atomFmax flag p ord pair k) .fmax flag p ord pair k s

/-- ATOM_BFADD2 (R344). -/
def execAtomBfadd2 (flag : BitVec 4) (p : Opnd) (ord : AtomOrd) (pair k : BitVec 5) (s : State) : Out :=
  atomOp (.atomBfadd2 flag p ord pair k) .bfadd2 flag p ord pair k s

/-! ### fence -/

/-- The pseudo-operation of a fence (R345): of a release fence, which later stores and atomics wait for; of an acquire fence, which later
memory instructions wait for and which acquires once what it waits for is over. -/
def fenceOp (c : Ctx) (th : Thread) (kind : OpKind) (scope : Nat) (pushes : List Nat) : MemOp :=
  { id := 0, core := c.core, slot := c.slot, tid := c.tid, uid := c.uid, kind := kind, space := 8, addr := 0, n := 0,
    fault := 0#48, page := none, flag := 15, dst := 0, parts := 0, data := 0, cmp := 0, cache := 0, scope := scope,
    pc := th.pcOf, detail := 0#32, value := none, poisoned := false, reply := none, held := false,
    heldSince := none, swept := [], pushes := pushes }

/-- Earlier operations of the thread that an acquire fence waits for (R345): loads and atomics, for .sc every one. -/
def State.fenceWaits (s : State) (c : Ctx) (all : Bool) : List Nat :=
  (s.ops.filter (fun o => decide (o.core = c.core) && decide (o.slot = c.slot) && decide (o.uid = c.uid) &&
    decide (o.tid = c.tid) && (all || o.kind.loads || (match o.kind with | .atom _ _ _ => true | _ => false)))).map
      (fun o => o.id) ++ s.matWaits c all

/-- The thread's loads and atomics in flight acquire at a scope (R336, R342). -/
def State.fenceAcquires (s : State) (c : Ctx) (scope : Nat) : State :=
  { s with ops := s.ops.map (fun o =>
      if decide (o.core = c.core) && decide (o.slot = c.slot) && decide (o.uid = c.uid) && decide (o.tid = c.tid) then
        match o.kind with
        | .ld _ => { o with scope := max o.scope scope }
        | .ldx => { o with scope := max o.scope scope }
        | .ldAcq => { o with scope := max o.scope scope }
        | .atom f _ rel => { o with kind := .atom f true rel, scope := max o.scope scope }
        | _ => o
      else o) }

/-- FENCE (R345, R341): acquire sense, release sense, or both. -/
def execFence (ord : FenceOrd) (k : BitVec 5) (s : State) : Out :=
  let acq := decide (ord ≠ .rel)
  let rel := decide (ord ≠ .acq)
  bothOp (.fence ord k) noTrapS
    (fun c s =>
      match s.thread c.core c.slot c.tid with
      | none => .next (s, .stall)
      | some th =>
        let waits := s.fenceWaits c (decide (ord = .sc)) ++ (if ord = .sc then s.coveredPushes c k.toNat else [])
        let s1 := if rel then s.launch (fenceOp c th .fenceRel 0 (s.coveredPushes c k.toNat)) false false else s
        let s2 := if !acq then s1
          else if waits.isEmpty then s1.acquire (clusterOf c.core) k.toNat none
          else
            ((s1.fenceAcquires c k.toNat).onThread c.core c.slot c.tid (fun t => { t with waitMem := waits ++ t.waitMem })).launch
              (fenceOp c th .fenceAcq k.toNat waits) false true
        .next (s2, .next))
    (fun core _ s => .next (if acq then s.acquire (clusterOf core) k.toNat none else s, .next)) s

end Sys2Proof.Machine
end

