-- ==== Sys2Proof/Machine/Picker.lean ====
section
/-! DEFINITION. The picker (R180 to R187): which thread is ready, which gang issues, what it fetches; and the hint slot
(R42). -/

namespace Sys2Proof.Machine

/-! ### The next word of a thread -/

/-- An operand code of the control store with the parameters put in (R58). -/
def substCode (p0 p1 : Opnd) (c : Nat) : Nat :=
  match c with
  | 112 => p0.toNat
  | 113 => p1.toNat
  | 114 => p0.toNat + 1
  | 115 => p1.toNat + 1
  | _ => c

/-- The operand field of seven bits at `lo` substituted. -/
def substField (p0 p1 : Opnd) (lo w : Nat) : Nat := putBits w lo 7 (substCode p0 p1 (bits w (lo + 6) lo))

/-- A word of the control store with the parameters put in (R58); the b field of a cvt holds no operand. -/
def substitute (w : Word) (p0 p1 : Opnd) : Word :=
  let x := w.toNat
  let f := substField p0 p1
  BitVec.ofNat 32
    (match bits x 31 29 with
     | 0 => f 14 (f 7 (f 0 x))
     | 1 => if bits x 28 22 < 64 then f 14 (f 7 (f 0 x)) else f 14 (f 7 x)
     | 2 => f 17 (f 10 x)
     | 3 => f 10 (f 3 x)
     | _ => x)

/-- The word that a thread executes next, or the trap of its fetch (R11, R59). -/
def State.peekWord (s : State) (c : Ctx) (th : Thread) : Except Raise Word :=
  match th.mac with
  | some m => .ok (substitute (FMap.get 0#32 (s.core c.core).cstore (m.start + m.idx)) m.p0 m.p1)
  | none => s.fetchWord (s.viewer c th) th.pc

/-- The word after the instruction that begins at a PC: past its binding hints, malformed mod hints too, and its bound word
(R43, R52, R252); the fuel is the most hints a compound has. -/
def State.afterPc (s : State) (v : Viewer) : Nat → Word → Word
  | 0, pc => pc + 1
  | n + 1, pc =>
    match s.fetchWord v pc with
    | .error _ => pc + 1
    | .ok w =>
      match decodeThread w with
      | some (.imm _) => s.afterPc v n (pc + 1)
      | some (.mod _ _ _ _) => s.afterPc v n (pc + 1)
      | some (.fmt _) => s.afterPc v n (pc + 1)
      | none => if badMod w then s.afterPc v n (pc + 1) else pc + 1
      | some _ => pc + 1

/-- The instruction a word stands for: one that is not an instruction is itself (R69). -/
def wordInstr (w : Word) : Instr :=
  match decodeThread w with
  | some i => i
  | none => .illegalWord w

/-- The next instruction of a thread, if its fetch does not trap. -/
def State.peekInstr (s : State) (c : Ctx) (th : Thread) : Option Instr :=
  match s.peekWord c th with
  | .ok w => some (wordInstr w)
  | .error _ => none

/-- Whether an instruction is a hint. -/
def isHint (i : Instr) : Bool :=
  match i with
  | .sched _ _ _ _ _ _ _ => true
  | .imm _ => true
  | .live _ _ => true
  | .livescratch _ _ => true
  | .mod _ _ _ _ => true
  | .fmt _ => true
  | .illegalWord w => badMod w
  | _ => false

/-! ### Readiness (R180) -/

/-- The distance in force for a thread's next instruction (R44, R45). -/
def Thread.distance (th : Thread) : Nat :=
  match th.cover with
  | some v => v.dists.headD 0 + 1
  | none => 8

/-- The flags that a thread's next instruction waits for (R44, R45, R188). -/
def Thread.flagWait (th : Thread) : Nat :=
  (match th.cover with
   | some v => v.wait.toNat
   | none => 4095) ||| th.waitMask.toNat

/-- Whether flag `k` is idle (R28). -/
def Thread.idle (th : Thread) (k : Nat) : Bool := decide (th.flags.getD k 0 = 0)

/-- Whether every flag of a mask is idle. -/
def Thread.idleAll (th : Thread) (mask : Nat) : Bool := (List.range 12).all (fun k => !bit mask k || th.idle k)

/-- The flag that an instruction names: 15 for none (R41). -/
def flagOf (i : Instr) : Nat :=
  match clsOf i with
  | 3 => bits (encode i).toNat 20 17
  | 4 => if 0x30 ≤ opOf i ∧ opOf i ≤ 0x33 then 15 else bits (encode i).toNat 22 19
  | _ => 15

/-- Whether an instruction accesses memory: what an acquire holds back (R343); a collective does not (R209). -/
def touchesMemory (i : Instr) : Bool :=
  match clsOf i with
  | 3 => decide (opOf i ≤ 3)
  | 4 => decide (opOf i ≠ 6) && !(decide (0x30 ≤ opOf i) && decide (opOf i ≤ 0x33))
  | 5 => decide (4 ≤ opOf i) && decide (opOf i ≤ 6)
  | _ =>
    match i with
    | .mload _ _ => true
    | .csave _ _ => true
    | .crestore _ _ => true
    | .tdecl _ => true
    | _ => false

/-- Whether an instruction uses the lane's divide unit (R117). -/
def isDivide (i : Instr) : Bool :=
  match i with
  | .divu _ _ _ _ => true
  | .divs _ _ _ _ => true
  | .remu _ _ _ _ => true
  | .rems _ _ _ _ => true
  | .frcp _ _ _ => true
  | .frsq _ _ _ => true
  | .fsqrt _ _ _ => true
  | .fexp2 _ _ _ => true
  | .flog2 _ _ _ => true
  | .fsin _ _ _ => true
  | .fcos _ _ _ => true
  | _ => false

/-- Whether the latches that an instruction reads hold their values (R50). -/
def Thread.latchesReady (th : Thread) (cycle : Nat) (i : Instr) : Bool :=
  (i.opnds.map useLatches).flatten.all (fun k => !bit th.lvalid.toNat k || decide (th.ltime.getD k 0 ≤ cycle))

/-- Inside an mcall: no pending load is still to write a register that the operation names (R59). -/
def State.loadsReady (s : State) (c : Ctx) (uid : Nat) (i : Instr) : Bool :=
  let regs := (i.opnds.map useRegs).flatten
  s.ops.all (fun o => !(decide (o.core = c.core) && decide (o.slot = c.slot) && decide (o.uid = uid) &&
    decide (o.tid = c.tid) && (List.range 4).any (fun k => bit o.parts k && regs.contains (o.dst + k))))

/-- Whether a round of a crew in which an mma has been signed is open (R206, R223). -/
def Crew.mmaSigned (w : Crew) : Bool := w.cvs.any (fun x => x.2.isOpen && decide (x.2.op = 0) && decide (x.2.signed ≠ 0#32))

/-- Whether matrix operations and copies of a crew are outstanding, which an rrel waits for (R178): an mma is from its
first signature on. -/
def State.bulkBusy (s : State) (core uid : Nat) : Bool :=
  s.copies.any (fun o => decide (o.core = core) && decide (o.uid = uid)) ||
    (s.core core).matQ.any (fun o => decide (o.uid = uid)) || (s.core core).matWait.any (fun o => decide (o.uid = uid)) ||
    (s.core core).crews.any (fun w => decide (w.2.uid = uid) && w.2.mmaSigned)

/-- Whether an mcall of an entry point's range is in progress on a core (R60). -/
def State.mcallOpen (s : State) (core start len : Nat) : Bool :=
  (s.core core).crews.any (fun w => w.2.threads.any (fun t =>
    match t.2.mac with
    | some m => overlap m.start m.len start len
    | none => false))

/-- Whether a core's matrix queue is full (R217): it is while an mma waits to enter it, which goes ahead of every later entrant. -/
def State.matFull (s : State) (core : Nat) : Bool :=
  !(s.core core).matWait.isEmpty || decide (64 ≤ (s.core core).matQ.length)

/-- Whether a thread is ready, apart from what it will execute. -/
def Thread.free (th : Thread) (s : State) : Bool :=
  decide (th.life = .ready) && !th.leaving && decide (th.sysWait = .none) && th.waitAll.all (fun k => !s.inFlight k)

/-- Whether a thread stands at a boundary at which the move of its crew stops it (R386). -/
def State.moveStops (s : State) (core slot uid : Nat) (th : Thread) : Bool :=
  (s.core core).moves.any (fun m => decide (m.slot = slot) && decide (m.uid = uid)) && th.win.isNone && th.mac.isNone

/-- Whether a WATCHDOG trap is due to a thread (R168, R263). -/
def State.watchdogDue (s : State) (core : Nat) (th : Thread) : Bool :=
  let l := (s.core core).ctl.wdlimit.toNat
  th.wdDue || (decide (l ≠ 0) && decide (l < th.wdcount))

/-- Whether a boundary trap is due to a thread outside any window and mcall: it issues nothing before that (R33, R168, R169,
R256). -/
def State.trapDue (s : State) (core : Nat) (th : Thread) : Bool :=
  th.win.isNone && th.mac.isNone && (th.stepDue || th.stopDue || !th.deferred.isEmpty || s.watchdogDue core th)

/-- The chosen gang. -/
structure Gang where
  slot : Nat
  tids : List Nat
  gsize : Nat
deriving DecidableEq, Repr

/-- The divide units of the lanes of a gang taken for eight cycles (R117), by an instruction that then traps too (DESIGN CHOICE,
log 103). -/
def State.noteDivide (s : State) (core : Nat) (tids : List Nat) (i : Instr) : State :=
  if isDivide i then
    s.onCore core (fun c => { c with divFree := tids.foldl (fun m t => m.put (t % 32) (s.cycle + 8)) c.divFree })
  else s

/-- The thread and context that stand for a gang when its word is fetched: its members share PC and segment. -/
def State.gangHead (s : State) (core : Nat) (g : Gang) : Option (Ctx × Thread) :=
  match s.crew core g.slot, g.tids.head? with
  | some w, some t => (w.threads.find t).map (fun th => (s.ctx core g.slot w g.gsize t, th))
  | _, _ => none

/-- The machine after a fetch: the TLB for fetch keeps its translation (R325), the L1 the line of its word (R161, R271), and the
reader's pts follows a leased line (R317); a fetch that finds no page, or one that refuses it, has walked. -/
def State.fetched (s : State) (v : Viewer) (pc : Word) : State :=
  match s.fetchHit v pc with
  | .error r =>
    if v.mmode then s
    else if r.cause = causePage ∨ r.cause = causeProt ∨ r.cause = causeMachine then
      s.noteWalk true v.core ((segBase (v.seg 5) + 4 * pc.toNat) % 2 ^ 48)
    else s
  | .ok h =>
    match h.page with
    | none => s
    | some t =>
      let s1 := (s.noteFor true v h).bringLine v.core h.pa t 0
      match s1.fetchCopy v.core h with
      | some x => if x.tracked then s1 else s1.advance v.core x.wts
      | none => s1

/-- The machine after a gang's fetch; an operation of an mcall comes from the control store (R59). -/
def State.noteFetch (s : State) (c : Ctx) (th : Thread) : State :=
  if th.mac.isSome then s else s.fetched (s.viewer c th) th.pc

/-- A fetch that traps: every member of the gang takes the trap (R11, R149, R169). -/
def State.fetchTrap (s : State) (core : Nat) (g : Gang) (r : Raise) : State :=
  s.onCrew core g.slot (fun w => { w with threads := w.threads.mapVal (fun t th =>
    if g.tids.contains t && decide (th.life = .ready) then (th.openWin s.cycle).takeTrap r else th) })

end Sys2Proof.Machine
end

