-- ==== Sys2Proof/Machine/Barrier.lean ====
section
/-! DEFINITION. Grants (R175 to R179), waitf (R188) and named barriers (R189 to R193). -/

namespace Sys2Proof.Machine

/-! ### Resources of a core and a cluster -/

/-- Rows of threads of a crew (R173). -/
def Crew.rows (w : Crew) : Nat := ceilDiv w.size 32

/-- Register blocks of a crew, its grant included (R173). -/
def Crew.blocks (w : Crew) : Nat := w.rows * (w.nbase / 8) + w.rows * w.grant.regs

/-- End of a crew's scratchpad, in 4 KiB units. -/
def Crew.spadEnd (w : Crew) : Nat := w.spadBase + w.spadLen + w.grant.scratch

/-- End of a crew's accumulator range, in 4 KiB units. -/
def Crew.accEnd (w : Crew) : Nat := w.accBase + w.accLen + w.grant.acc

/-- The crews that occupy a core: those in its slots, and those that left one in this cycle (R174). -/
def Core.holders (c : Core) : FMap Crew := c.crews ++ c.returned

/-- Register blocks in use on a core. -/
def State.blocksUsed (s : State) (core : Nat) : Nat := (s.core core).holders.foldl (fun n w => n + w.2.blocks) 0

/-- Whether a range of accumulator units of a core is free. -/
def State.accFree (s : State) (core base len : Nat) : Bool :=
  decide (base + len ≤ 64) &&
    (s.core core).holders.all (fun w => !overlap w.2.accBase (w.2.accLen + w.2.grant.acc) base len)

/-- Whether a range of scratchpad units of a cluster is free. -/
def State.spadFree (s : State) (cluster base len : Nat) : Bool :=
  decide (base + len ≤ 256) && (coresOf cluster).all (fun k => (s.core k).holders.all (fun w =>
    !overlap w.2.spadBase (w.2.spadLen + w.2.grant.scratch) base len))

/-- The crews of a crew's squad that have not ended (R353). -/
def State.squadCrews (s : State) (core : Nat) (w : Crew) : Nat :=
  if w.kgo then 1
  else
    match (s.domain w.isle (dieOfCore core)).pieces.find w.piece with
    | some p => p.crews.length
    | none => 1

/-- The limit of segment register `k` of every thread of a crew set to its allocation, in 4 KiB units (R26). -/
def Crew.fitSeg (w : Crew) (k units : Nat) : Crew :=
  { w with threads := w.threads.mapVal (fun _ th =>
      { th with segs := setAt th.segs k (setLimit (th.segs.getD k 0#128) (4096 * units)) }) }

/-- The segments of a crew, and of the crews that share its accumulator, after its grant has changed (R26, R216): of an
allocation that has not changed no segment does (R23). -/
def State.fitCrew (s : State) (core slot : Nat) (spad acc : Bool) : State :=
  match s.crew core slot with
  | none => s
  | some w =>
    let units := w.accLen + w.grant.acc
    s.onCore core (fun c => { c with crews := c.crews.mapVal (fun k x =>
      if k = slot then
        let y := if spad then x.fitSeg 1 (w.spadLen + w.grant.scratch) else x
        if acc then y.fitSeg 2 units else y
      else if acc && decide (x.accOwner = w.uid) then { x.fitSeg 2 units with accLen := units }
      else x) })

/-! ### racq, rrel, waitf -/

/-- The fields of a request word (R175). -/
def reqRegs (w : Word) : Nat := bits w.toNat 18 16
def reqScratch (w : Word) : Nat := bits w.toNat 15 7
def reqAcc (w : Word) : Nat := bits w.toNat 6 0

/-- A grant's fields. -/
def reqGrant (w : Word) : Grant := { regs := reqRegs w, scratch := reqScratch w, acc := reqAcc w }

/-- Whether a crew holds no grant. -/
def Grant.isZero (g : Grant) : Bool := decide (g.regs = 0) && decide (g.scratch = 0) && decide (g.acc = 0)

/-- Whether a request can never be granted (R176, R216). -/
def State.hopeless (s : State) (core : Nat) (w : Crew) (r : Word) : Bool :=
  decide (512 < w.rows * reqRegs r + w.rows * (w.nbase / 8)) || decide (256 < w.spadEnd + reqScratch r) ||
    (decide (reqScratch r ≠ 0) && decide (1 < s.squadCrews core w)) || decide (64 < w.accEnd + reqAcc r) ||
    (decide (w.accOwner ≠ w.uid) && decide (reqAcc r ≠ 0))

/-- RACQ (R176). -/
def execRacq (a : Opnd) (s : State) : Out :=
  sharedOp (.racq a) noTrapS
    (fun c s =>
      match s.thread c.core c.slot c.tid, s.crew c.core c.slot with
      | some th, some w =>
        let r := th.readW c a
        let bad : Act1 := .next (s, .trap ⟨causeResource, r.toNat, 0⟩)
        if bits r.toNat 31 19 ≠ 0 ∨ 4 < reqRegs r ∨ 256 < reqScratch r ∨ 64 < reqAcc r then bad
        else if r = 0#32 then .next (s, .next)
        else if !w.grant.isZero then bad
        else
          match w.request with
          | some q => if q = r then .next (s, .park .grant false) else bad
          | none =>
            if s.hopeless c.core w r then bad
            else
              .next ((s.onCrew c.core c.slot (fun w => { w with request := some r })).onCore c.core (fun k =>
                { k with grantQ := k.grantQ ++ [c.slot] }), .park .grant false)
      | _, _ => .next (s, .stall)) s

/-- RACQ_GRANT (R177): the head of a core's grant queue is granted once all it asks for is free. -/
def execRacqGrant (core : Nat) (s : State) : Out :=
  match (s.core core).grantQ with
  | [] => .next s
  | slot :: rest =>
    match s.crew core slot with
    | none => .next (s.onCore core (fun c => { c with grantQ := rest }))
    | some w =>
      match w.request with
      | none => .next (s.onCore core (fun c => { c with grantQ := rest }))
      | some r =>
        if decide (s.blocksUsed core + w.rows * reqRegs r ≤ 512) &&
            (decide (reqAcc r = 0) || s.accFree core w.accEnd (reqAcc r)) &&
            (decide (reqScratch r = 0) || s.spadFree (clusterOf core) w.spadEnd (reqScratch r)) then
          let s1 := (s.onCore core (fun c => { c with grantQ := rest })).onCrew core slot (fun w =>
            { w with
              grant := reqGrant r, request := none
              threads := w.threads.mapVal (fun _ th =>
                let t1 := { th with regs := th.regs.filter (fun x => decide (x.1 < 64))
                                    shadows := th.shadows.filter (fun x => decide (x.reg < 64) || decide (96 ≤ x.reg)) }
                if t1.life = .parked .grant ∨ t1.life = .frozen (some .grant) then t1.wake else t1) })
          .next (s1.fitCrew core slot (decide (reqScratch r ≠ 0)) (decide (reqAcc r ≠ 0)))
        else .next s

/-- The forwarding entry that holds a permit of a cluster: the latest that names it. -/
def State.forwardOf (s : State) (cluster k : Nat) : Option Forward :=
  ((s.forwards.map Prod.snd).reverse).find? (fun (f : Forward) => decide (clusterOf f.oldCore = cluster) && f.permits.contains k)

/-- Forwarded permits dropped: those that `gone` names by their entry (R286). -/
def State.dropForwarded (s : State) (gone : Forward → Permit → Bool) : State :=
  { s with clusters := s.clusters.mapVal (fun cl c => { c with permits := c.permits.mapVal (fun k p =>
    if p.armed && p.fwd && ((s.forwardOf cl k).map (fun f => gone f p)).getD false then { p with armed := false } else p) }) }

/-- RREL (R178, R286): part or all of the grant returned, with the permits in it; it waits for the crew's copies and matrix
operations. -/
def execRrel (a : Opnd) (s : State) : Out :=
  sharedOp (.rrel a) noTrapS
    (fun c s =>
      match s.thread c.core c.slot c.tid, s.crew c.core c.slot with
      | some th, some w =>
        let r := th.readW c a
        if bits r.toNat 31 19 ≠ 0 ∨ w.grant.regs < reqRegs r ∨ w.grant.scratch < reqScratch r ∨ w.grant.acc < reqAcc r then
          .next (s, .trap ⟨causeResource, r.toNat, 0⟩)
        else if r = 0#32 then .next (s, .next)
        else if s.bulkBusy c.core c.uid then .next (s, .stall)
        else
          let g : Grant := { regs := w.grant.regs - reqRegs r, scratch := w.grant.scratch - reqScratch r,
                             acc := w.grant.acc - reqAcc r }
          let top := 64 + 8 * g.regs
          let s1 := s.onCrew c.core c.slot (fun w => { w with
            grant := g
            threads := w.threads.mapVal (fun _ t =>
              { t with regs := t.regs.filter (fun x => decide (x.1 < top)) }) })
          let s2 := { s1 with ops := s1.ops.map (fun (o : MemOp) =>
            if decide (o.core = c.core) && decide (o.slot = c.slot) && decide (o.uid = c.uid) then
              { o with parts := (List.range 4).foldl (fun m k =>
                  m + b2n (bit o.parts k && (decide (o.dst + k < top) || decide (96 ≤ o.dst + k))) * 2 ^ k) 0 }
            else o) }
          let s3 := s2.onCluster (clusterOf c.core) (fun k => { k with permits := k.permits.mapVal (fun _ p =>
            if p.armed && !p.fwd && decide (p.owner = crewId c.core c.slot) &&
                decide (16 * (w.spadBase + w.spadLen + g.scratch) < p.base + p.len + 1) then { p with armed := false } else p) })
          let s4 := s3.dropForwarded (fun f p => decide (f.uid = c.uid) && f.image.isNone &&
            decide (16 * (f.spad + w.spadLen + g.scratch) < p.base + p.len + 1))
          .next (s4.fitCrew c.core c.slot (decide (reqScratch r ≠ 0)) (decide (reqAcc r ≠ 0)), .next)
      | _, _ => .next (s, .stall)) s

/-- WAITF (R188): the next instruction waits for the flags. -/
def execWaitf (mask : BitVec 12) (s : State) : Out := localOp (.waitf mask) (fun _ th => (th, .waitFlags mask)) s

/-! ### Named barriers -/

/-- Barrier `b` of a core. -/
def State.barrier (s : State) (core b : Nat) : Barrier := FMap.get Barrier.blank (s.core core).bars b

/-- A barrier replaced. -/
def State.setBarrier (s : State) (core b : Nat) (x : Barrier) : State :=
  s.onCore core (fun c => { c with bars := c.bars.put b x })

/-- The park that a thread waits in, frozen or not. -/
def Thread.parkOf (th : Thread) : Option Park :=
  match th.life with
  | .parked p => some p
  | .frozen p => p
  | _ => none

/-- Whether a thread is parked on a barrier. -/
def onBarrier (b : Nat) (p : Option Park) : Bool :=
  match p with
  | some (.barrier k _) => decide (k = b)
  | _ => false

/-- A phase completes (R190): every thread parked on the barrier wakes. -/
def State.barComplete (s : State) (core b : Nat) : State :=
  let x := s.barrier core b
  (s.setBarrier core b { x with gen := x.gen + 1, arrived := 0 }).onCore core (fun c =>
    { c with crews := c.crews.mapVal (fun _ w => { w with threads := w.threads.mapVal (fun _ t =>
        if onBarrier b t.parkOf then t.wake else t) }) })

/-- One arrival at a barrier, without a record (R190, R191). -/
def State.barCount (s : State) (core b : Nat) : State :=
  let x := s.barrier core b
  let n := min (x.arrived + 1) 4095
  let s1 := s.setBarrier core b { x with arrived := n }
  if x.armed && decide (n = x.expected) then s1.barComplete core b else s1

/-- The first of a core's arrivals from its matrix unit takes effect, one in a cycle (R191, R232). -/
def State.matArrive (s : State) (core : Nat) : State :=
  match (s.core core).arrivals with
  | [] => s
  | b :: l => (s.onCore core (fun c => { c with arrivals := l })).barCount core b

/-- An arrival of a thread: it records the phase (R190). -/
def State.barArrive (s : State) (core slot tid b : Nat) : State :=
  let g := (s.barrier core b).gen
  (s.onThread core slot tid (fun t => { t with arrival := some (b, g) })).barCount core b

/-- A thread's wait (R190): it parks while the phase of its arrival, or the present one, has not completed. -/
def State.barWaitEff (s : State) (c : Ctx) (b : Nat) : State × Eff :=
  let g := (s.barrier c.core b).gen
  let target := match s.thread c.core c.slot c.tid with
    | some th =>
      match th.arrival with
      | some (k, t) => if k = b then t else g
      | none => g
    | none => g
  let s1 := s.onThread c.core c.slot c.tid (fun t => { t with arrival := none })
  (s1, if g = target then .park (.barrier b target) false else .progress)

/-- BAR_SET (R190). -/
def execBarSet (a : Opnd) (b : BitVec 7) (s : State) : Out :=
  sharedOp (.barSet a b) noTrapS
    (fun c s =>
      match s.thread c.core c.slot c.tid with
      | none => .next (s, .stall)
      | some th =>
        let n := bits (th.readW c a).toNat 11 0
        let x := s.barrier c.core b.toNat
        if n = 0 then
          .next (s.setBarrier c.core b.toNat { x with armed := false, expected := 0, arrived := 0 }, .progress)
        else
          let s1 := s.setBarrier c.core b.toNat { x with armed := true, expected := n }
          .next (if n ≤ x.arrived then s1.barComplete c.core b.toNat else s1, .progress)) s

/-- BAR_ARRIVE (R190). -/
def execBarArrive (b : BitVec 7) (s : State) : Out :=
  sharedOp (.barArrive b) noTrapS (fun c s => .next (s.barArrive c.core c.slot c.tid b.toNat, .progress)) s

/-- BAR_WAIT (R190). -/
def execBarWait (b : BitVec 7) (s : State) : Out :=
  sharedOp (.barWait b) noTrapS (fun c s => .next (s.barWaitEff c b.toNat)) s

/-- The arrivals of a gang's bar.sync, in ascending tid; a thread that traps on it makes none. -/
def State.gangArrive (s : State) (core slot : Nat) (i : Instr) (tids : List Nat) (b : Nat) : State :=
  tids.foldl (fun (u : State) t =>
    match u.thread core slot t with
    | some th => if badBind i th.bind then u else u.barArrive core slot t b
    | none => u) s

/-- BAR_SYNC (R190): every arrival of the gang, then every wait. -/
def execBarSync (b : BitVec 7) (s : State) : Out :=
  let i := Instr.barSync b
  let s1 := match s.acting with
    | .gang core slot tids _ => s.gangArrive core slot i tids b.toNat
    | _ => s
  sharedOp i noTrapS (fun c s => .next (s.barWaitEff c b.toNat)) s1

end Sys2Proof.Machine
end

