-- ==== Sys2Proof/Machine/Control.lean ====
section
/-! DEFINITION. Control transfers (R142 to R147), mcall (R59). -/

namespace Sys2Proof.Machine

/-- A branch or jump (R142, R143): `f` gives the target of a taken transfer from the operands and the branch's PC. -/
def branchOp (i : Instr) (f : Reads → Word → Option Word) (s : State) : Out :=
  match s.acting with
  | .none => .next s
  | .gang core slot tids gsize => .next (s.gangMap core slot tids gsize i noTrap (fun c th =>
      match f (th.reads c) th.pc with
      | some t => (th, .jump t)
      | none => (th, .next)))
  | .lane core => s.laneRun core i (fun l t =>
      match f (l.reads core (s.coreCycle core) (s.core core).pts) l.pc with
      | some x => .next (t, .jump x)
      | none => .next (t, .next))

/-- The target of a relative transfer (R66). -/
def relTarget {n : Nat} (pc : Word) (off : BitVec n) : Word := pc + BitVec.signExtend 32 off

/-- BR (R143): always taken. -/
def execBr (off : BitVec 25) (s : State) : Out := branchOp (.br off) (fun _ pc => some (relTarget pc off)) s

/-- BZ (R143): taken when a is zero. -/
def execBz (a : Opnd) (off : BitVec 18) (s : State) : Out :=
  branchOp (.bz a off) (fun r pc => if r.w a = 0#32 then some (relTarget pc off) else none) s

/-- BNZ (R143): taken when a is not zero. -/
def execBnz (a : Opnd) (off : BitVec 18) (s : State) : Out :=
  branchOp (.bnz a off) (fun r pc => if r.w a = 0#32 then none else some (relTarget pc off)) s

/-- JMP (R143): to the word index in a. -/
def execJmp (a : Opnd) (s : State) : Out := branchOp (.jmp a) (fun r _ => some (r.w a)) s

/-! ### The stack (R27, R144) -/

/-- The stack access of an instruction (R144, R170). -/
def stackWant (i : Instr) (wr : Bool) : Want := wantOf i 3 4 4 (!wr) wr

/-- The address of a stack access: `sp` and an offset (R148). -/
def stackForm (g : BitVec 128) (sp : Word) (off : Int) : Formed := formAddr g 3 4 sp.toNat off

/-- The PRIV trap of a stack access (R149). -/
def stackPre (w : Want) (off : Int) (s : State) (c : Ctx) (th : Thread) : Option Raise :=
  let v := s.viewer c th
  if v.sRefuses w then
    some ⟨causePriv, v.detail w false 0, (stackForm (v.seg 3) (th.seen c 109) off).addr⟩
  else none

/-- CALL and CALLR (R144): the return index is pushed, then the transfer is taken. -/
def callOp (i : Instr) (f : Reads → Word → Word) (s : State) : Out :=
  let w := stackWant i true
  bothOp i (stackPre w (-4))
    (fun c s =>
      match s.thread c.core c.slot c.tid with
      | none => .next (s, .stall)
      | some th =>
        let sp := th.seen c 109
        match s.checkFormed (s.viewer c th) w (stackForm (th.segs.getD 3 0#128) sp (-4)) with
        | .error r => .next (s, .trap r)
        | .ok h =>
          let s1 := (s.noteHit (s.viewer c th) h).onThread c.core c.slot c.tid (fun t => t.setReg 109 (sp - 4))
          s1.startWrite (s.memOp c th w h .st 15#4 0 0 (th.pc + 1).toNat 0) w h false (.jump (f (th.reads c) th.pc)))
    (fun core l s =>
      s.laneCheck core w (stackForm (l.segs.getD 3 0#128) l.sp (-4)) (fun h s1 =>
        (s1.onLane core (fun l => { l with sp := l.sp - 4 })).laneStore core w h (l.pc + 1).toNat
          (.jump (f (l.reads core (s.coreCycle core) (s.core core).pts) l.pc)))) s

/-- CALL (R144). -/
def execCall (off : BitVec 25) (s : State) : Out := callOp (.call off) (fun _ pc => relTarget pc off) s

/-- CALLR (R144). -/
def execCallr (a : Opnd) (s : State) : Out := callOp (.callr a) (fun r _ => r.w a) s

/-- RET (R144): the return index is popped; the thread goes on once it has arrived. -/
def execRet (s : State) : Out :=
  let i := Instr.ret
  let w := stackWant i false
  bothOp i (stackPre w 0)
    (fun c s =>
      match s.thread c.core c.slot c.tid with
      | none => .next (s, .stall)
      | some th =>
        match s.checkFormed (s.viewer c th) w (stackForm (th.segs.getD 3 0#128) (th.seen c 109) 0) with
        | .error r => .next (s, .trap r)
        | .ok h =>
          let s1 := (s.noteHit (s.viewer c th) h).onThread c.core c.slot c.tid (fun t => t.setReg 109 (th.seen c 109))
          s1.startRead (s.memOp c th w h (.ld .w) 15#4 dstPc 1 0 0) w h false (.jump th.pc))
    (fun core l s =>
      s.laneCheck core w (stackForm (l.segs.getD 3 0#128) l.sp 0) (fun h s1 =>
        s1.laneRead core w h (fun v s2 =>
          .next (s2.onLane core (fun l => { l with sp := l.sp + 4 }), .jump (BitVec.ofNat 32 v))))) s

/-! ### exit, yield, brk, mcall -/

/-- EXIT (R145): the thread issues nothing more and waits to retire. -/
def execExit (s : State) : Out := localOp .exit (fun _ th => (th, .leave)) s

/-- YIELD (R146): not eligible for the next pick; its age restarts. -/
def execYield (s : State) : Out := localOp .yield (fun _ th => (th, .skip)) s

/-- BRK (R147). -/
def execBrk (code : BitVec 18) (s : State) : Out :=
  sharedOp (.brk code) noTrapS (fun _ s => .next (s, .trap ⟨causeBrk, code.toNat, 0⟩)) s

/-- MCALL (R59): the microprogram's operations follow, one by one, on the same gang. The mcall itself takes one issue decision, and the
hold of R184 stands from there (DESIGN CHOICE, log 105). -/
def execMcall (p0 p1 : Opnd) (entry : BitVec 7) (s : State) : Out :=
  let i := Instr.mcall p0 p1 entry
  sharedOp i noTrapS
    (fun c s =>
      match s.thread c.core c.slot c.tid with
      | none => .next (s, .stall)
      | some th =>
        let e := FMap.get (0, 0) (s.core c.core).entries entry.toNat
        if th.win.isSome || decide (e.2 = 0) then .next (s, .trap ⟨causeIllegal, wordOf i, 0⟩)
        else
          .next (s.onThread c.core c.slot c.tid (fun t =>
            { t with mac := some { start := e.1, len := e.2, idx := 0, p0 := p0, p1 := p1, pc := t.pc, opened := s.cycle }
                     lvalid := 0#8, age := 0, lastIssue := some s.cycle }), .keep)) s

end Sys2Proof.Machine
end

