-- ==== Sys2Proof/Machine/Converge.lean ====
section
/-! DEFINITION. Rejoin-mask registers (R195 to R203), convergence registers and their collectives (R204 to R214). -/

namespace Sys2Proof.Machine

/-- The detail word of a COLLECTIVE trap (R197). -/
def collDetail (reason : Nat) (rm : Bool) (reg : Nat) : Nat := reason * 2 ^ 28 + b2n rm * 2 ^ 27 + reg

/-- Whether a member set is invalid in a crew (R195). -/
def invalidSet (size : Nat) (b m : Word) : Bool :=
  (maskMembers m.toNat).any (fun i => decide (size ≤ b.toNat + i))

/-- The members of a set that satisfy `p`, as a mask (R195, R196). -/
def Crew.memberMask (w : Crew) (base mask : Nat) (p : Option Thread → Bool) : Nat :=
  (maskMembers mask).foldl (fun x i => x + b2n (p (w.threads.find (base + i))) * 2 ^ i) 0

/-- Whether a member is absent (R196). -/
def isAbsent (t : Option Thread) : Bool :=
  match t with
  | some th => !th.present
  | none => true

/-- Whether a member has exited. -/
def hasExited (t : Option Thread) : Bool :=
  match t with
  | some th => decide (th.life = .exited)
  | none => true

/-- Rejoin-mask register `n` of a crew. -/
def Crew.rm (w : Crew) (n : Nat) : Rm := FMap.get Rm.blank w.rms n

/-- Convergence register `n` of a crew. -/
def Crew.cv (w : Crew) (n : Nat) : Cv := FMap.get Cv.blank w.cvs n

/-- Whether the threads of the gang disagree on base or mask (R200, R205). -/
def State.gangDiffers (s : State) (d a : Opnd) : Bool :=
  match s.acting with
  | .gang core slot tids gsize =>
    match s.crew core slot with
    | some w =>
      let vals := tids.filterMap (fun t => (w.threads.find t).map (fun th =>
        (th.readW (s.ctx core slot w gsize t) d, th.readW (s.ctx core slot w gsize t) a)))
      match vals with
      | [] => false
      | v :: l => l.any (fun x => decide (x ≠ v))
    | none => false
  | _ => false

/-! ### rmset, rjarrive, rjwait, rjdrop -/

/-- RMSET (R200). -/
def execRmset (d a : Opnd) (r : BitVec 3) (s : State) : Out :=
  let differs := s.gangDiffers d a
  let n := r.toNat
  let trap (s : State) (reason : Nat) : Act1 := .next (s, .trap ⟨causeCollective, collDetail reason true n, 0⟩)
  sharedOp (.rmset d a r) noTrapS
    (fun c s =>
      match s.thread c.core c.slot c.tid, s.crew c.core c.slot with
      | some th, some w =>
        let b := th.readW c d
        let m := th.readW c a
        let x := w.rm n
        if differs then trap s 6
        else if m ≠ 0#32 ∧ invalidSet w.size b m = true then trap s 5
        else if x.isOpen && (decide (m ≠ x.mask) || decide (b.toNat ≠ x.base)) then trap s 4
        else
          let y : Rm :=
            if x.isOpen then x
            else if m = 0#32 then { x with isSet := false, base := 0, mask := 0, pending := 0, dropped := 0 }
            else
              { x with
                isSet := true, isOpen := true, base := b.toNat, mask := m, dropped := 0
                pending := m &&& ~~~(BitVec.ofNat 32 (w.memberMask b.toNat m.toNat hasExited)), timer := 0, touched := true }
          let s1 := s.onCrew c.core c.slot (fun w => { w with rms := w.rms.put n y })
          .next (s1.onThread c.core c.slot c.tid (fun t => t.setReg d.toNat x.lost), .next)
      | _, _ => .next (s, .stall)) s

/-- What the three join instructions do. -/
inductive RjKind where
  | arrive | wait | drop
deriving DecidableEq, Repr

/-- The member index of a thread in an open join, if it has one (R201). -/
def Rm.index (x : Rm) (tid : Nat) : Option Nat :=
  if x.isOpen && decide (x.base ≤ tid) && decide (tid < x.base + 32) && bit x.mask.toNat (tid - x.base) then
    some (tid - x.base)
  else none

/-- RJARRIVE, RJWAIT and RJDROP (R201). -/
def rjOp (i : Instr) (kind : RjKind) (r : BitVec 3) (s : State) : Out :=
  let n := r.toNat
  sharedOp i noTrapS
    (fun c s =>
      match s.crew c.core c.slot with
      | none => .next (s, .stall)
      | some w =>
        let x := w.rm n
        match x.index c.tid with
        | none => .next (s, .progress)
        | some k =>
          let one : Word := BitVec.ofNat 32 (2 ^ k)
          let y : Rm := if bit x.pending.toNat k then { x with pending := x.pending &&& ~~~one, timer := 0, touched := true }
            else x
          let z : Rm := if kind = .drop then { y with dropped := y.dropped ||| one } else y
          let s1 := s.onCrew c.core c.slot (fun w => { w with rms := w.rms.put n z })
          .next (s1, if kind = .wait ∧ bit x.dropped.toNat k = false then .park (.rejoin n x.gen) false else .progress)) s

/-- RJARRIVE (R201). -/
def execRjarrive (r : BitVec 3) (s : State) : Out := rjOp (.rjarrive r) .arrive r s

/-- RJWAIT (R201). -/
def execRjwait (r : BitVec 3) (s : State) : Out := rjOp (.rjwait r) .wait r s

/-- RJDROP (R201). -/
def execRjdrop (r : BitVec 3) (s : State) : Out := rjOp (.rjdrop r) .drop r s

/-- Whether a thread has stopped for a freeze: a waiting signer issues nothing while its round stays open (log 23). -/
def Thread.frozenStill (th : Thread) : Bool :=
  match th.life with
  | .ready => th.leaving
  | .parked _ => false
  | _ => true

/-- Whether a crew is Frozen (R261, R262): every thread has stopped for its freeze. -/
def Crew.isFrozen (w : Crew) : Bool :=
  match w.freeze with
  | .none => false
  | .wanted => w.threads.all (fun t => t.2.frozenStill)
  | .done => true

/-- Whether a thread is parked in a join. -/
def onRejoin (n : Nat) (p : Option Park) : Bool :=
  match p with
  | some (.rejoin k _) => decide (k = n)
  | _ => false

/-- A join closes (R202): every waiter becomes Ready. -/
def Crew.closeRm (w : Crew) (n : Nat) (lost : Word) : Crew :=
  { w with
    rms := w.rms.put n { w.rm n with lost := lost, gen := (w.rm n).gen + 1, isOpen := false }
    threads := w.threads.mapVal (fun _ t => if onRejoin n t.parkOf then t.wake else t) }

/-- The pending members of a join that are present (R202). -/
def Crew.rmMissing (w : Crew) (n : Nat) : Word :=
  let x := w.rm n
  x.pending &&& ~~~(BitVec.ofNat 32 (w.memberMask x.base x.mask.toNat isAbsent))

/-- The end of a cycle for one join (R202): the timer, then completion. -/
def Crew.evalRm (w : Crew) (n : Nat) : Crew :=
  let x := w.rm n
  if !x.isOpen then w
  else
    let parked := w.threads.any (fun t => onRejoin n t.2.parkOf)
    let counts := parked && !x.touched && !w.isFrozen
    let y : Rm := { x with timer := if counts then x.timer + 1 else x.timer, touched := false }
    let w1 := { w with rms := w.rms.put n y }
    if w1.rmMissing n = 0#32 then w1.closeRm n 0#32 else w1

/-- The end of a cycle for every join of a crew. -/
def Crew.evalRms (w : Crew) : Crew := (FMap.keys w.rms).foldl (fun u n => Crew.evalRm u n) w

/-- Whether a join expires at the end of this cycle (R202). -/
def Crew.rmExpires (w : Crew) (n : Nat) : Bool :=
  let x := w.rm n
  x.isOpen && decide (w.patience ≤ x.timer) && decide (w.rmMissing n ≠ 0#32)

/-- JOIN_PATIENCE_EXPIRY (R202): the join is lost, its waiters go on. -/
def execJoinPatienceExpiry (core slot rm : Nat) (s : State) : Out :=
  .next (s.onCrew core slot (fun w => if w.rmExpires rm then w.closeRm rm (w.rmMissing rm) else w))

/-! ### cvset and signing -/

/-- CVSET (R205). -/
def execCvset (d a : Opnd) (cv : BitVec 4) (s : State) : Out :=
  let differs := s.gangDiffers d a
  let n := cv.toNat
  let trap (s : State) (reason : Nat) : Act1 := .next (s, .trap ⟨causeCollective, collDetail reason false n, 0⟩)
  sharedOp (.cvset d a cv) noTrapS
    (fun c s =>
      match s.thread c.core c.slot c.tid, s.crew c.core c.slot with
      | some th, some w =>
        let b := th.readW c d
        let m := th.readW c a
        let x := w.cv n
        let same := decide (m = x.mask) && decide (b.toNat = x.base)
        if differs then trap s 6
        else if m ≠ 0#32 ∧ invalidSet w.size b m = true then trap s 5
        else if x.isOpen && !same then trap s 4
        else
          let y : Cv :=
            if x.isOpen then x
            else if m = 0#32 then { x with isSet := false, base := 0, mask := 0, rsmv := false }
            else if !x.isSet || !same then { x with isSet := true, base := b.toNat, mask := m, rsmv := false }
            else x
          let s1 := s.onCrew c.core c.slot (fun w => { w with cvs := w.cvs.put n y })
          .next (s1.onThread c.core c.slot c.tid (fun t => t.setReg d.toNat x.excused), .next)
      | _, _ => .next (s, .stall)) s

/-- A thread signs (R206): COLLECTIVE, or its operands join the open round. -/
def State.sign (s : State) (c : Ctx) (th : Thread) (w : Crew) (n op sub : Nat) (p q : Word) (dst flag : Nat) : State × Eff :=
  let x := w.cv n
  let trap (reason : Nat) : State × Eff := (s, .trap ⟨causeCollective, collDetail reason false n, 0⟩)
  if !x.isSet then trap 1
  else if c.tid < x.base ∨ x.base + 31 < c.tid ∨ bit x.mask.toNat (c.tid - x.base) = false then trap 2
  else if x.isOpen && (decide (x.op ≠ op) || decide (x.sub ≠ sub)) then trap 3
  else
    let k := c.tid - x.base
    let arg : CvArg := { p := p, q := q, tpc := th.pcOf, rpc := match th.win with | some v => v.first | none => th.pcOf,
                         win := th.win.map (fun v => v.pos) }
    let y : Cv := { x with isOpen := true, op := op, sub := sub, signed := x.signed ||| BitVec.ofNat 32 (2 ^ k),
                           args := x.args.put k arg }
    (s.onCrew c.core c.slot (fun w => { w with cvs := w.cvs.put n y }), .sign n dst flag)

/-- A shuffle, vote, scan or reduction (R210): `reads` tells whether p is a source too. -/
def collectiveOp (i : Instr) (op sub : Nat) (reads : Bool) (p q : Opnd) (cv : BitVec 4) (s : State) : Out :=
  sharedOp i noTrapS
    (fun c s =>
      match s.thread c.core c.slot c.tid, s.crew c.core c.slot with
      | some th, some w =>
        .next (s.sign c th w cv.toNat op sub (if reads then th.readW c p else 0#32) (th.readW c q) p.toNat 15)
      | _, _ => .next (s, .stall)) s

/-- SHFL (R211). -/
def execShfl (m : ShflMode) (p q : Opnd) (cv : BitVec 4) (s : State) : Out :=
  collectiveOp (.shfl m p q cv) 0x30 m.code.toNat true p q cv s

/-- VOTE (R212). -/
def execVote (m : VoteMode) (p q : Opnd) (cv : BitVec 4) (s : State) : Out :=
  collectiveOp (.vote m p q cv) 0x31 m.code.toNat false p q cv s

/-- SCAN (R213). -/
def execScan (m : RedOp) (p q : Opnd) (cv : BitVec 4) (s : State) : Out :=
  collectiveOp (.scan m p q cv) 0x32 m.code.toNat false p q cv s

/-- RED (R213). -/
def execRed (m : RedOp) (p q : Opnd) (cv : BitVec 4) (s : State) : Out :=
  collectiveOp (.red m p q cv) 0x33 m.code.toNat false p q cv s

/-! ### The results of a round (R211 to R213) -/

/-- The value that member `i` receives from a shuffle (R211). -/
def shflResult (sub : Nat) (args : FMap CvArg) (i : Nat) : Word :=
  match args.find i with
  | none => 0#32
  | some a =>
    let v := a.p.toNat
    let j : Option Nat := match sub with
      | 0 => some v
      | 1 => if v ≤ i then some (i - v) else none
      | 2 => some (i + v)
      | _ => some (i ^^^ v)
    match j.bind (fun j => args.find j) with
    | some x => x.q
    | none => a.q

/-- The value that every signer receives from a vote (R212). -/
def voteResult (sub : Nat) (args : FMap CvArg) : Word :=
  match sub with
  | 0 => b2w (args.all (fun x => decide (x.2.q ≠ 0#32)))
  | 1 => b2w (args.any (fun x => decide (x.2.q ≠ 0#32)))
  | _ => args.foldl (fun m x => if x.2.q = 0#32 then m else m ||| BitVec.ofNat 32 (2 ^ x.1)) 0#32

/-- Values folded from the first on. -/
def foldWords (f : Word → Word → Word) : List Word → Word
  | [] => 0#32
  | x :: l => l.foldl f x

/-- The combination of a scan or reduction (R213). -/
def combine (sub : Nat) (l : List Word) : Word :=
  match sub with
  | 0 => l.foldl (· + ·) 0#32
  | 1 => l.foldl (· + ·) 0#32
  | 2 => toFp32 .rne false (FVal.sum false (l.map (fp32 false)))
  | 3 => foldWords (fun a b => if b.slt a then b else a) l
  | 4 => foldWords (fun a b => if b.ult a then b else a) l
  | 5 => foldWords (Fpu.fmin false) l
  | 6 => foldWords (fun a b => if a.slt b then b else a) l
  | 7 => foldWords (fun a b => if a.ult b then b else a) l
  | 8 => foldWords (Fpu.fmax false) l
  | 9 => foldWords (fun a b => a &&& b) l
  | _ => foldWords (fun a b => a ||| b) l

/-- A fold of fmin or fmax over one NaN alone gives the canonical NaN (R213). -/
def canonNan (sub : Nat) (v : Word) : Word :=
  if (sub = 5 ∨ sub = 8) ∧ Fpu.isNan v = true then 0x7FC00000#32 else v

/-- What member `i` of a completed round receives (R207, R211 to R213). -/
def roundResult (op sub : Nat) (args : FMap CvArg) (i : Nat) : Word :=
  match op with
  | 0x30 => shflResult sub args i
  | 0x31 => voteResult sub args
  | 0x32 => canonNan sub (combine sub ((args.filter (fun x => decide (x.1 ≤ i))).map (fun x => x.2.q)))
  | _ => canonNan sub (combine sub (args.map (fun x => x.2.q)))

/-- Whether an open round of a crew completes at the end of this cycle (R207, R209). -/
def Crew.cvDone (w : Crew) (n : Nat) : Bool :=
  let x := w.cv n
  x.isOpen && !w.isFrozen &&
    decide (x.mask &&& ~~~x.signed &&& ~~~(BitVec.ofNat 32 (w.memberMask x.base x.mask.toNat isAbsent)) = 0#32)

/-- The register after its round has completed (R207). -/
def Cv.closed (x : Cv) : Cv :=
  { x with excused := x.mask &&& ~~~x.signed, signed := 0#32, isOpen := false, gen := x.gen + 1, args := [] }

/-- Whether a thread waits as a signer of a register. -/
def Thread.signs (th : Thread) (n : Nat) : Option (Nat × Nat) :=
  match th.life with
  | .issuing k dst flag => if k = n then some (dst, flag) else none
  | _ => none

/-- A shuffle, vote, scan or reduction completes (R207): the results written, the signers Ready. A result whose register an rrel has
released meanwhile is written all the same: R178 drops only the data of a load (DESIGN CHOICE, log 98). -/
def Crew.closeCv (w : Crew) (n : Nat) : Crew :=
  let x := w.cv n
  { w with
    cvs := w.cvs.put n x.closed
    threads := w.threads.mapVal (fun t th =>
      match th.signs n with
      | some (dst, _) => { th.setReg dst (roundResult x.op x.sub x.args (t - x.base)) with life := .ready }
      | none => th) }

end Sys2Proof.Machine
end

