-- ==== Sys2Proof/Machine/Matrix.lean ====
section
/-! DEFINITION. The matrix unit (R215 to R233): tile handles, the format word, mma from its vote to its last k-step, mmz,
accld and accst, and the matrix queue. -/

namespace Sys2Proof.Machine

/-! ### Tile handles (R219, R220) -/

/-- The fields of a descriptor (R219). -/
def hBase (h : BitVec 128) : Nat := bits h.toNat 47 0
def hSpace (h : BitVec 128) : Nat := bits h.toNat 48 48
def hScale (h : BitVec 128) : Bool := bit h.toNat 49
def hStride (h : BitVec 128) : Nat := bits h.toNat 95 64
def hK (h : BitVec 128) : Nat := bits h.toNat 108 96
def hSh (h : BitVec 128) : Nat := bits h.toNat 113 109
def hSv (h : BitVec 128) : Bool := bit h.toNat 114

/-- Whether thdl refuses a descriptor (R220). -/
def badHandle (h : BitVec 128) : Bool :=
  decide (bits h.toNat 127 115 ≠ 0) || decide (bits h.toNat 63 50 ≠ 0) ||
    (hScale h && decide (bits h.toNat 114 96 ≠ 0)) || (!hScale h && (decide (hK h = 0) || decide (4096 < hK h)))

/-- The detail word of a FORMAT or SCALE trap (R224). -/
def fmtDetail (reason opnd index : Nat) : Nat := reason * 2 ^ 28 + opnd * 2 ^ 26 + index

/-- THDL (R220): a handle loaded. -/
def execThdl (p : Opnd) (h : BitVec 5) (s : State) : Out :=
  sharedOp (.thdl p h) noTrapS
    (fun c s =>
      match s.thread c.core c.slot c.tid with
      | none => .next (s, .stall)
      | some th =>
        let v := th.readQ c p
        if badHandle v then .next (s, .trap ⟨causeFormat, fmtDetail 7 0 h.toNat, 0⟩)
        else .next (s.onCrew c.core c.slot (fun w => { w with handles := w.handles.put h.toNat v }), .next)) s

/-- THFREE (R220): a handle emptied. -/
def execThfree (h : BitVec 5) (s : State) : Out :=
  sharedOp (.thfree h) noTrapS
    (fun c s => .next (s.onCrew c.core c.slot (fun w => { w with handles := w.handles.del h.toNat }), .next)) s

/-! ### The format word (R221, R222) -/

/-- The fields of a format word (R221). -/
def fInit (w : Word) : Bool := bit w.toNat 31
def fSat (w : Word) : Bool := bit w.toNat 30
def fLink (w : Word) : Bool := bit w.toNat 25
def fBar (w : Word) : Nat := bits w.toNat 24 18
def fB (w : Word) : Nat := bits w.toNat 17 15
def fA (w : Word) : Nat := bits w.toNat 14 12
def fAcc (w : Word) : Nat := bits w.toNat 11 8
def fHb (w : Word) : Nat := 16 + bits w.toNat 7 4
def fHa (w : Word) : Nat := bits w.toNat 3 0

/-- Whether a format code is FP8. -/
def isFp8 (f : Nat) : Bool := decide (f = 2) || decide (f = 3)

/-- Whether a format code is of an 8-bit integer. -/
def isInt8 (f : Nat) : Bool := decide (f = 4) || decide (f = 5)

/-- Whether a pairing is supported (R222). -/
def paired (a b : Nat) : Bool :=
  (decide (a = 0) && decide (b = 0)) || (decide (a = 1) && decide (b = 1)) || (isFp8 a && isFp8 b) ||
    (isInt8 a && isInt8 b) || (decide (a = 6) && decide (b = 6)) || (decide (a = 6) && isFp8 b) || (isFp8 a && decide (b = 6))

/-- The elements of K in a k-step (R222). -/
def stepOf (a b : Nat) : Nat := if a ≤ 1 then 32 else if a = 6 ∧ b = 6 then 128 else 64

/-- The bytes of `k` elements of a format (R219). -/
def fmtBytes (f k : Nat) : Nat := if f ≤ 1 then 2 * k else if f = 6 then k / 2 else k

/-! ### The checks of a round (R223, R224) -/

/-- The detail word of an access of the matrix unit. -/
def matDetail (seg : Nat) (wr : Bool) (op : Nat) : Nat := memDetail seg 0 wr false false 0 4 op false none

/-- Whether an extent lies inside its segment (R223). -/
def extentInside (segs : List (BitVec 128)) (h : BitVec 128) (n : Nat) : Bool :=
  if hSpace h = 0 then (formAddr (segs.getD 0 0#128) 0 n (hBase h) 0).inside
  else (formAddr (segs.getD 1 0#128) 1 n (hBase h) 0).inside

/-- The SEG check of an operand's handle (R223). -/
def segCheck (segs : List (BitVec 128)) (h : BitVec 128) (n : Nat) : Option Raise :=
  if extentInside segs h n then none else some ⟨causeSeg, matDetail (hSpace h) false 0, hBase h⟩

/-- The ALIGN check of a data handle (R223). -/
def alignCheck (h : BitVec 128) : Option Raise :=
  if hBase h % 16 ≠ 0 ∨ hStride h % 16 ≠ 0 then some ⟨causeAlign, matDetail (hSpace h) false 0, hBase h⟩ else none

/-- The check of a scale tile (R110, R224). -/
def scaleCheck (opnd num k : Nat) (h : Option (BitVec 128)) : Option Raise :=
  match h with
  | none => none
  | some h =>
    let bad (n : Nat) : Option Raise := some ⟨causeScale, fmtDetail n opnd num, hBase h⟩
    if hBase h % 512 ≠ 0 then bad 1
    else if hStride h % 512 ≠ 0 then bad 2
    else if hStride h ≠ 512 * (k / 128) then bad 3
    else none

/-- The first of several checks that raises a trap. -/
def firstOf : List (Option Raise) → Option Raise
  | [] => none
  | some r :: _ => some r
  | none :: l => firstOf l

/-- The scale handle of a four-bit operand. -/
def scaleOf (handles : FMap (BitVec 128)) (f : Nat) (h : BitVec 128) : Option (BitVec 128) :=
  if f = 6 then handles.find (hSh h) else none

/-- The check of a four-bit operand's scale handle (R223, reason 6). -/
def scaleLoaded (handles : FMap (BitVec 128)) (opnd f : Nat) (h : BitVec 128) : Option Raise :=
  if f = 6 then
    let ok := hSv h && ((handles.find (hSh h)).map hScale).getD false
    if ok then none else some ⟨causeFormat, fmtDetail 6 opnd (hSh h), 0⟩
  else none

/-- A data handle that is loaded, or the FORMAT trap (R223, reason 4). -/
def dataHandle (handles : FMap (BitVec 128)) (opnd n : Nat) : Except Raise (BitVec 128) :=
  match handles.find n with
  | some h => if hScale h then .error ⟨causeFormat, fmtDetail 4 opnd n, 0⟩ else .ok h
  | none => .error ⟨causeFormat, fmtDetail 4 opnd n, 0⟩

/-- The byte length of a data handle's extent (R223). -/
def dataExtent (f : Nat) (h : BitVec 128) : Nat := 127 * hStride h + fmtBytes f (hK h)

/-- The checks of R223 on a round's format word, with the segments of its lowest member; the answer is the work. -/
def mmaChecks (handles : FMap (BitVec 128)) (segs : List (BitVec 128)) (user : Bool) (cv start : Nat) (args : FMap CvArg)
    (signers : FMap CvArg) : Except Raise MmaWork :=
  let f : Word := match args with
    | [] => 0#32
    | x :: _ => x.2.p
  match args.find? (fun x => decide (x.2.p ≠ f)) with
  | some x => .error ⟨causeFormat, fmtDetail 1 0 x.1, 0⟩
  | none =>
    if bits f.toNat 29 26 ≠ 0 then .error ⟨causeFormat, fmtDetail 2 0 0, 0⟩
    else if !paired (fA f) (fB f) then .error ⟨causeFormat, fmtDetail 3 0 0, 0⟩
    else
      match dataHandle handles 1 (fHa f) with
      | .error r => .error r
      | .ok a =>
        match dataHandle handles 2 (fHb f) with
        | .error r => .error r
        | .ok b =>
          let st := stepOf (fA f) (fB f)
          let k := hK a
          let four := decide (fA f = 6) || decide (fB f = 6)
          if k ≠ hK b ∨ k % st ≠ 0 ∨ k < st ∨ (four = true ∧ k % 128 ≠ 0) then
            .error ⟨causeFormat, fmtDetail 5 0 0, 0⟩
          else
            let sa := scaleOf handles (fA f) a
            let sb := scaleOf handles (fB f) b
            let tile := fAcc f * 16384
            let scaleSeg (h : Option (BitVec 128)) : Option Raise := h.bind (fun x => segCheck segs x (hStride x))
            match firstOf [scaleLoaded handles 1 (fA f) a, scaleLoaded handles 2 (fB f) b,
                if segLimit (segs.getD 2 0#128) < tile + 65536 then some ⟨causeSeg, matDetail 2 false 0, tile⟩ else none,
                segCheck segs a (dataExtent (fA f) a), scaleSeg sa, segCheck segs b (dataExtent (fB f) b), scaleSeg sb,
                alignCheck a, alignCheck b, scaleCheck 1 (hSh a) k sa, scaleCheck 2 (hSh b) k sb] with
            | some r => .error r
            | none =>
              .ok { cv := cv, fmt := f, a := a, b := b, sa := sa, sb := sb, start := start, step := start, fetched := start,
                    got := [], signers := signers, segs := segs, user := user }

/-! ### Signing and the round (R207, R223, R227) -/

/-- MMA (R223): the thread signs, and its flag counts the operation. -/
def execMma (flag : BitVec 4) (p : Opnd) (cv : BitVec 4) (s : State) : Out :=
  sharedOp (.mma flag p cv) noTrapS
    (fun c s =>
      match s.thread c.core c.slot c.tid, s.crew c.core c.slot with
      | some th, some w =>
        let f : Word := match th.bind.bind (fun b => b.fmt) with
          | some x => BitVec.setWidth 32 x
          | none => th.readW c p
        match s.sign c th w cv.toNat 0 0 f 0#32 127 flag.toNat with
        | (s1, .sign n d k) => .next (s1.onThread c.core c.slot c.tid (fun t => t.raiseFlag flag.toNat), .sign n d k)
        | x => .next x
      | _, _ => .next (s, .stall)) s

/-- A signer takes the trap of its mma at the instruction (R223, R228): its flag falls. -/
def Thread.trapSigner (th : Thread) (r : Raise) (a : CvArg) (flag : Nat) : Thread :=
  ({ th with win := a.win.map (fun p => ⟨a.rpc, p, 0⟩) }.trapWith r a.tpc a.rpc th.lastIssue).dropFlag flag

/-- The flag that a waiting signer named. -/
def Thread.signFlag (th : Thread) : Nat :=
  match th.life with
  | .issuing _ _ f => f
  | _ => 15

/-- The end of a round of mma (R207, R223): a failed check traps every signer; else the operation waits to enter the
queue, and its signers for its acceptance. -/
def State.closeMma (s : State) (core slot n : Nat) : Out :=
  match s.crew core slot with
  | none => .next s
  | some w =>
    let x := w.cv n
    let tids := x.args.map (fun (a : Nat × CvArg) => (x.base + a.1, a.2))
    let low : Option Thread := (tids.head?).bind (fun a => w.threads.find a.1)
    let segs := (low.map (fun t => w.bounds.clipAll t.segs)).getD []
    let start := if x.rsmv then x.rsm else 0
    match mmaChecks w.handles segs (!w.super) n start x.args tids with
    | .error r =>
      .next (s.onCrew core slot (fun w => { w with
        cvs := w.cvs.put n x.closed
        threads := w.threads.mapVal (fun t th =>
          match th.signs n, (FMap.find tids t) with
          | some (_, f), some a => th.trapSigner r a f
          | _, _ => th) }))
    | .ok u =>
      let off := segBase (segs.getD 2 0#128) + fAcc u.fmt * 16384
      let id := s.fresh.1
      let flags := (w.threads.filterMap (fun t => (t.2.signs n).map (fun y => (t.1, y.2))))
      let op : MatOp := { id := id, ord := 0, slot := slot, uid := w.uid, off := off, kind := .mma u, flags := flags,
                          accepted := false, pc := 0#32, detail := 0#32 }
      let s1 := s.fresh.2.onCrew core slot (fun w => { w with
        cvs := w.cvs.put n { x.closed with rsmv := false }
        threads := w.threads.mapVal (fun _ th =>
          match th.signs n with
          | some _ => { th with life := .ready, waitAll := id :: th.waitAll }
          | none => th) })
      .next (s1.onCore core (fun c => { c with matWait := c.matWait ++ [op] }))

/-- MMA_ENTER_QUEUE (R217): a completed round's operation enters the queue when there is room. -/
def execMmaEnterQueue (core : Nat) (s : State) : Out :=
  match (s.core core).matWait with
  | [] => .next s
  | m :: rest =>
    if 64 ≤ (s.core core).matQ.length then .next s
    else .next (s.fresh.2.onCore core (fun c =>
      { c with matWait := rest, matQ := c.matQ ++ [{ m with ord := s.fresh.1 }] }))

/-! ### Operand reads (R226, R228) -/

/-- The key of an arrived line: space 0 or 1 and the line. -/
def gotKey (space a : Nat) : Nat := 2 * (a / 128) + space

/-- The address of an operand's byte in its space: absolute in the scratchpad. -/
def MmaWork.addrOf (u : MmaWork) (h : BitVec 128) (o : Nat) : Nat :=
  if hSpace h = 0 then hBase h + o else segBase (u.segs.getD 1 0#128) + hBase h + o

/-- The k-step's elements of K. -/
def MmaWork.ks (u : MmaWork) : Nat := stepOf (fA u.fmt) (fB u.fmt)

/-- The number of k-steps. -/
def MmaWork.steps (u : MmaWork) : Nat := hK u.a / u.ks

/-- A byte range cut at line boundaries; at most two lines. -/
def cutLine (a n : Nat) : List (Nat × Nat) :=
  let r := 128 - a % 128
  if n ≤ r then [(a, n)] else [(a, r), (a + r, n - r)]

/-- The pieces of a data operand that a k-step reads: space, address, bytes, ascending. -/
def MmaWork.dataPieces (u : MmaWork) (f : Nat) (h : BitVec 128) (j : Nat) : List (Nat × Nat × Nat) :=
  ((List.range 128).map (fun i =>
    (cutLine (u.addrOf h (hStride h * i + fmtBytes f (j * u.ks))) (fmtBytes f u.ks)).map
      (fun x => (hSpace h, x.1, x.2)))).flatten

/-- The blocks of 32 elements of a k-step. -/
def MmaWork.blocks (u : MmaWork) (j : Nat) : List Nat := (List.range (u.ks / 32)).map (fun b => j * u.ks / 32 + b)

/-- The scale lines of an operand that a k-step reads (R109). -/
def MmaWork.scalePieces (u : MmaWork) (h : Option (BitVec 128)) (j : Nat) : List (Nat × Nat × Nat) :=
  match h with
  | none => []
  | some h => ((u.blocks j).map (fun b => (cutLine (u.addrOf h (128 * b)) 128).map (fun x => (hSpace h, x.1, x.2)))).flatten

/-- All that a k-step reads, in the order of R228. -/
def MmaWork.pieces (u : MmaWork) (j : Nat) : List (Nat × Nat × Nat) :=
  u.dataPieces (fA u.fmt) u.a j ++ u.scalePieces u.sa j ++ u.dataPieces (fB u.fmt) u.b j ++ u.scalePieces u.sb j

/-- The accessor of an operation's operand reads. -/
def State.mmaViewer (s : State) (core : Nat) (u : MmaWork) : Viewer :=
  { core := core, isle := s.isleNo core, user := u.user, mmode := false, segs := u.segs, mac := none, bounds := Bounds.whole }

/-- The parts of a line that `n` bytes at offset `o` touch: granules of a line of memory (R324), words of the scratchpad
(R270). -/
def partsOf (space o n : Nat) : Nat :=
  if space = 1 then (List.range 32).foldl (fun q i => q + b2n (overlap o n (4 * i) 4) * 2 ^ i) 0 else granulesOf o n

/-- One piece read (R226): a line that has arrived already is not read again; the fault is that of R228. -/
def State.fetchPiece (s : State) (core : Nat) (u : MmaWork) (x : Nat × Nat × Nat) : Except Raise (State × MmaWork) :=
  match x with
  | (sp, a, n) =>
    let key := gotKey sp a
    let machine (f : Nat) : Raise := ⟨causeMachine, matDetail sp false 0, f⟩
    match u.got.find key with
    | some (_, p, _) => if p &&& partsOf sp (a % 128) n ≠ 0 then .error (machine (a / 128 * 128)) else .ok (s, u)
    | none =>
      if sp = 1 then
        if !segR (u.segs.getD 1 0#128) then
          .error ⟨causeProt, memDetail 1 0 false false true 0 4 0 false none, a / 128 * 128⟩
        else
          let cl := clusterOf core
          let l := a / 128 * 128
          let p := (List.range 32).foldl (fun q i => q + b2n (s.spadBad cl (l + 4 * i) 4) * 2 ^ i) 0
          if p &&& partsOf sp (a % 128) n ≠ 0 then .error (machine l)
          else .ok (s, { u with got := u.got.put key (s.readSpad cl l 128, p, none) })
      else
        let w : Want := { seg := 0, n := 128, rd := true, wr := false, ex := false, size := 0, cls := 4, op := 0 }
        match s.checkPage (s.mmaViewer core u) w (a / 128 * 128) with
        | .error r => .error r
        | .ok h =>
          let line := lineOf h.pa
          let t := (h.page.getD (mPage h.pa))
          match (s.noteHit (s.mmaViewer core u) h).readHome core t.mode t.lease (128 * line) 128 with
          | (s1, d, _) =>
            let p := s1.linePoison line
            if p &&& granulesOf (a % 128) n ≠ 0 then .error (machine (a / 128 * 128))
            else .ok (s1.onHome line (fun x => { x with pins := x.pins + 1 }),
              { u with got := u.got.put key (d, p, some line) })

/-- What a piece waits for at the home of its line, if it is still to be read (R156, R308, R315). -/
def State.pieceWaits (s : State) (core : Nat) (u : MmaWork) (x : Nat × Nat × Nat) : Option State :=
  if x.1 = 1 ∨ (u.got.find (gotKey x.1 x.2.1)).isSome then none
  else
    let w : Want := { seg := 0, n := 128, rd := true, wr := false, ex := false, size := 0, cls := 4, op := 0 }
    match s.checkPage (s.mmaViewer core u) w (x.2.1 / 128 * 128) with
    | .error _ => none
    | .ok h => s.await (lineOf h.pa) (h.page.getD (mPage h.pa)).mode false

/-- Pieces read one after another, to the first fault or the first that waits; whether all have been read. -/
def State.fetchPieces (core : Nat) : List (Nat × Nat × Nat) → State → MmaWork → Except Raise (State × MmaWork × Bool)
  | [], s, u => .ok (s, u, true)
  | x :: l, s, u =>
    match s.pieceWaits core u x with
    | some s1 => .ok (s1, u, false)
    | none =>
      match s.fetchPiece core u x with
      | .error r => .error r
      | .ok (s1, u1) => State.fetchPieces core l s1 u1

/-- Lines no longer used: their pins fall (R226). -/
def State.unpin (s : State) (got : FMap (Nat × Nat × Option Nat)) : State :=
  got.foldl (fun (t : State) x =>
    match x.2.2.2 with
    | some line => t.onHome line (fun h => { h with pins := h.pins - 1 })
    | none => t) s

/-- Whether an earlier store of a thread than operation `id` is still to be performed (R162, R280). -/
def State.storePending (s : State) (id core slot uid tid : Nat) : Bool :=
  s.ops.any (fun o => decide (o.id < id) && decide (o.core = core) && decide (o.slot = slot) && decide (o.uid = uid) &&
    decide (o.tid = tid) && o.kind.writes && !o.done) ||
  s.pushes.any (fun o => decide (o.id < id) && decide (o.core = core) && decide (o.slot = slot) && decide (o.uid = uid) &&
    decide (o.tid = tid) && o.data.isSome && !o.merged)

/-- Whether a matrix operation may act: the earlier space-2 accesses to its bytes have been performed (R218), and its threads' own
accesses to memory that R162, R345 and R347 put before it. -/
def State.matReady (s : State) (core : Nat) (m : MatOp) : Bool :=
  s.ops.all (fun o => !(decide (o.core = core) && decide (o.space = 2) && decide (o.id < m.ord) && !o.done &&
    overlap m.extent.1 m.extent.2 o.addr o.n)) &&
  (match m.kind with
   | .mma u => u.signers.all (fun x => !s.storePending m.id core m.slot m.uid x.1)
   | .mmz => true
   | .accld _ pa _ tid => !s.earlierHolds m.id core m.slot m.uid tid false false pa 512
   | .accst _ pa _ tid => !s.earlierHolds m.id core m.slot m.uid tid false true pa 512)

/-- The head of a core's queue replaced. -/
def State.setHead (s : State) (core : Nat) (m : MatOp) : State :=
  s.onCore core (fun c => { c with matQ := m :: c.matQ.tail })

/-- The head of the queue is over: its flags fall. -/
def State.endHead (s : State) (core : Nat) (m : MatOp) : State :=
  m.flags.foldl (fun (t : State) x => t.onUid core m.slot m.uid x.1 (fun th => th.dropFlag x.2))
    (s.onCore core (fun c => { c with matQ := c.matQ.tail }))

/-- The head of the queue, when it is an mma that may act. -/
def State.headMma (s : State) (core : Nat) : Option (MatOp × MmaWork) :=
  match (s.core core).matQ with
  | [] => none
  | m :: _ =>
    match m.kind with
    | .mma u => if s.matReady core m then some (m, u) else none
    | _ => none

/-- The signers of an accepted operation go on (R227). -/
def State.acceptMma (s : State) (core : Nat) (m : MatOp) (u : MmaWork) : State :=
  u.signers.foldl (fun (t : State) x =>
    t.onUid core m.slot m.uid x.1 (fun th => { th with waitAll := th.waitAll.filter (fun k => k != m.id) })) s

/-- MMA_OPERAND_ARRIVAL (R226, R227): the operands of the next k-step arrive; with those of the last the operation is
accepted. -/
def execMmaOperandArrival (core : Nat) (s : State) : Out :=
  match s.headMma core with
  | none => .next s
  | some (m, u) =>
    if u.steps ≤ u.fetched then .next s
    else
      match State.fetchPieces core (u.pieces u.fetched) s u with
      | .error _ => .next s
      | .ok (s1, u1, false) => .next (s1.setHead core { m with kind := .mma u1 })
      | .ok (s1, u1, true) =>
        let last := decide (u.fetched + 1 = u.steps)
        let s2 := s1.setHead core { m with kind := .mma { u1 with fetched := u.fetched + 1 }, accepted := last }
        .next (if last then s2.acceptMma core m u else s2)

/-- MMA_OPERAND_FAULT (R228): the k-step that faults is the next to be written; rsm names it, and every signer takes the
trap at the mma. -/
def execMmaOperandFault (core : Nat) (s : State) : Out :=
  match s.headMma core with
  | none => .next s
  | some (m, u) =>
    if u.steps ≤ u.fetched ∨ u.step < u.fetched then .next s
    else
      match State.fetchPieces core (u.pieces u.fetched) s u with
      | .ok _ => .next s
      | .error r =>
        let s1 := (s.unpin u.got).onCore core (fun c => { c with matQ := c.matQ.tail })
        .next (match s1.crew core m.slot with
          | some w =>
            if w.uid = m.uid then
              s1.onCrew core m.slot (fun w => { w with
                cvs := w.cvs.put u.cv { w.cv u.cv with rsm := u.step, rsmv := true }
                threads := w.threads.mapVal (fun t th =>
                  match u.signers.find t with
                  | some a =>
                    let f := ((m.flags.find? (fun x => decide (x.1 = t))).map (fun x => x.2)).getD 15
                    if th.life = .ready then th.trapSigner r a f else th.dropFlag f
                  | none => th) })
            else s1
          | none => s1)

/-! ### Arithmetic (R225) -/

/-- `n` bytes of an operand that has arrived, `n` at most 128. -/
def MmaWork.chunk (u : MmaWork) (space a n : Nat) : Nat :=
  (cutLine a n).foldr (fun x v =>
    match u.got.find (gotKey space x.1) with
    | some (d, _, _) => getData d (x.1 % 128) x.2 + v * 2 ^ (8 * x.2)
    | none => v * 2 ^ (8 * x.2)) 0

/-- The scale byte of a row and a block (R109). -/
def MmaWork.scaleByte (u : MmaWork) (h : Option (BitVec 128)) (row block : Nat) : Nat :=
  match h with
  | none => 0
  | some h => u.chunk (hSpace h) (u.addrOf h (128 * block + 4 * (row % 32) + row / 32)) 1

/-- Element `k` of a vector's bytes, as a float value (R225). -/
def elemVal (f : Nat) (v k : Nat) (scale : Nat → Nat) : FVal :=
  match f with
  | 0 => FVal.decode .bf16 ((v >>> (16 * k)) % 2 ^ 16)
  | 1 => FVal.decode .f16 ((v >>> (16 * k)) % 2 ^ 16)
  | 2 => FVal.decode .e4m3 ((v >>> (8 * k)) % 256)
  | 3 => FVal.decode .e5m2 ((v >>> (8 * k)) % 256)
  | _ => codeValue (scale k) ((v >>> (4 * k)) % 16)

/-- Element `k` of a vector's bytes, as an integer (R225). -/
def elemInt (f : Nat) (v k : Nat) : Int :=
  if f = 4 then signed 8 (v >>> (8 * k)) else (((v >>> (8 * k)) % 256 : Nat) : Int)

/-- The bytes of vector `i` of an operand in a k-step. -/
def MmaWork.vector (u : MmaWork) (f : Nat) (h : BitVec 128) (j i : Nat) : Nat :=
  u.chunk (hSpace h) (u.addrOf h (hStride h * i + fmtBytes f (j * u.ks))) (fmtBytes f u.ks)

/-- The float elements of vector `i` of an operand in a k-step. -/
def MmaWork.floats (u : MmaWork) (f : Nat) (h : BitVec 128) (sc : Option (BitVec 128)) (j i : Nat) : List FVal :=
  let v := u.vector f h j i
  (List.range u.ks).map (fun k => elemVal f v k (fun k => u.scaleByte sc i ((j * u.ks + k) / 32)))

/-- The integer elements of vector `i` of an operand in a k-step. -/
def MmaWork.ints (u : MmaWork) (f : Nat) (h : BitVec 128) (j i : Nat) : List Int :=
  let v := u.vector f h j i
  (List.range u.ks).map (fun k => elemInt f v k)

/-- Accumulate of a float pairing (R225). -/
def accFloat (sat : Bool) (a : Word) (x y : List FVal) : Word :=
  toFp32 .rne sat (FVal.sum false (fp32 false a :: List.zipWith FVal.mul x y))

/-- Accumulate of an integer pairing (R225). -/
def accInt (sat : Bool) (a : Word) (x y : List Int) : Word :=
  let v := a.toInt + (List.zipWith (fun p q => p * q) x y).foldl (· + ·) 0
  wordOfInt (if sat then clampInt v (-(2 ^ 31 : Nat)) ((2 ^ 31 - 1 : Nat)) else v)

/-- Word `k` of a number. -/
def wordAt (x k : Nat) : Word := BitVec.ofNat 32 (x >>> (32 * k))

/-- A number from its words, the first lowest. -/
def ofWords : List Word → Nat
  | [] => 0
  | w :: l => w.toNat + 2 ^ 32 * ofWords l

/-- One row of the tile after a k-step (R225). -/
def MmaWork.rowAfter (u : MmaWork) (j i old : Nat) (cols : List (List FVal)) (icols : List (List Int)) : Nat :=
  if isInt8 (fA u.fmt) then
    let x := u.ints (fA u.fmt) u.a j i
    ofWords ((List.range 128).map (fun n => accInt (fSat u.fmt) (wordAt old n) x (icols.getD n [])))
  else
    let x := u.floats (fA u.fmt) u.a u.sa j i
    ofWords ((List.range 128).map (fun n => accFloat (fSat u.fmt) (wordAt old n) x (cols.getD n [])))

/-- A row of 512 bytes of the accumulator memory replaced; poisoned words stay so (log 22). -/
def State.putRow (s : State) (core off v : Nat) : State :=
  s.onCore core (fun c => { c with acc := c.acc.writeNat off 512 v })

/-- One k-step written into the tile (R225, R228). -/
def State.kstep (s : State) (core : Nat) (m : MatOp) (u : MmaWork) : State :=
  let zero := fInit u.fmt && decide (u.step = 0)
  let s0 := if zero then s.writeAcc core m.off 65536 0 else s
  let int := isInt8 (fA u.fmt)
  let cols := if int then [] else (List.range 128).map (fun n => u.floats (fB u.fmt) u.b u.sb u.step n)
  let icols := if int then (List.range 128).map (fun n => u.ints (fB u.fmt) u.b u.step n) else []
  (List.range 128).foldl (fun (t : State) i =>
    t.putRow core (m.off + 512 * i) (u.rowAfter u.step i (t.readAcc core (m.off + 512 * i) 512) cols icols)) s0

/-- The end of an mma (R227, R232): pins and flags fall, and a linked one arrives at its barrier. -/
def State.endMma (s : State) (core : Nat) (m : MatOp) (u : MmaWork) : State :=
  let s1 := ((s.unpin u.got).endHead core m).acceptMma core m u
  if fLink u.fmt then s1.onCore core (fun c => { c with arrivals := c.arrivals ++ [fBar u.fmt] }) else s1

/-- The lines that k-steps from the `j`-th on use, fetched already or not (R226). -/
def MmaWork.keepFrom (u : MmaWork) (j : Nat) : List Nat :=
  (((List.range u.steps).filter (fun n => decide (j ≤ n))).map
    (fun n => (u.pieces n).map (fun x => gotKey x.1 x.2.1))).flatten

/-- MMA_KSTEP (R225): one k-step whose operands have arrived is written; after the last the operation is over. An
operation that resumes past its last k-step is over at once (R228). -/
def execMmaKstep (core : Nat) (s : State) : Out :=
  match s.headMma core with
  | none => .next s
  | some (m, u) =>
    if u.steps ≤ u.step then .next (s.endMma core m u)
    else if u.fetched ≤ u.step then .next s
    else
      let s1 := s.kstep core m u
      if u.step + 1 = u.steps then .next (s1.endMma core m u)
      else
        let keep := u.keepFrom (u.step + 1)
        let u1 := { u with step := u.step + 1, got := u.got.filter (fun x => keep.contains x.1) }
        .next ((s1.unpin (u.got.filter (fun x => !keep.contains x.1))).setHead core { m with kind := .mma u1 })

/-! ### mmz, accld, accst (R230, R231) -/

/-- A matrix operation of a thread enters the queue (R217): its flag rises; `wait`: the thread waits for its end. -/
def State.launchMat (s : State) (c : Ctx) (th : Thread) (kind : MatKind) (off flag : Nat) (detail : Nat) (wait : Bool) :
    State :=
  let id := s.fresh.1
  let m : MatOp := { id := id, ord := id, slot := c.slot, uid := c.uid, off := off, kind := kind,
                     flags := [(c.tid, flag)], accepted := true, pc := th.pcOf, detail := BitVec.ofNat 32 detail }
  (s.fresh.2.onCore c.core (fun k => { k with matQ := k.matQ ++ [m] })).onThread c.core c.slot c.tid (fun t =>
    { t.raiseFlag flag with waitAll := if wait then id :: t.waitAll else t.waitAll })

/-- MMZ (R230). -/
def execMmz (flag : BitVec 4) (p : Opnd) (s : State) : Out :=
  sharedOp (.mmz flag p) noTrapS
    (fun c s =>
      match s.thread c.core c.slot c.tid with
      | none => .next (s, .stall)
      | some th =>
        let t := (th.readW c p).toNat
        let g := c.bounds.clip 2 (th.segs.getD 2 0#128)
        let off := segBase g + t
        if segLimit g < t + 65536 then .next (s, .trap ⟨causeSeg, matDetail 2 false 1, t⟩)
        else if t % 16384 ≠ 0 then .next (s, .trap ⟨causeAlign, matDetail 2 false 1, t⟩)
        else if s.matFull c.core then .next (s, .stall)
        else .next (s.launchMat c th .mmz off flag.toNat (matDetail 2 false 1) false, .next)) s

/-- The access of accld and accst to global memory (R231). -/
def accWant (wr : Bool) : Want :=
  { seg := 0, n := 512, rd := !wr, wr := wr, ex := false, size := 0, cls := 4, op := if wr then 3 else 2 }

/-- ACCLD and ACCST at issue (R231): the checks in the order of R149, the global side first at each step. -/
def accOp (i : Instr) (wr : Bool) (flag : BitVec 4) (p q : Opnd) (s : State) : Out :=
  let w := accWant wr
  sharedOp i (accessPre w p)
    (fun c s =>
      match s.thread c.core c.slot c.tid with
      | none => .next (s, .stall)
      | some th =>
        let v := s.viewer c th
        let f := formAddr (v.seg 0) 0 512 (th.readP c p).toNat 0
        let o := (th.readW c q).toNat
        let g := v.seg 2
        let off := segBase g + o
        let accSide (cause : Nat) : Act1 := .next (s, .trap ⟨cause, matDetail 2 wr w.op, o⟩)
        if !f.inside then .next (s, .trap ⟨causeSeg, matDetail 0 wr w.op, f.addr⟩)
        else if segLimit g < o + 512 then accSide causeSeg
        else if f.addr % 512 ≠ 0 then .next (s, .trap ⟨causeAlign, matDetail 0 wr w.op, f.addr⟩)
        else if o % 512 ≠ 0 then accSide causeAlign
        else
          match s.checkPage v w f.addr with
          | .error r => .next (s, .trap r)
          | .ok h =>
            if s.matFull c.core then .next (s, .stall)
            else
              let t := h.page.getD (mPage h.pa)
              let k : MatKind := if wr then .accst f.addr h.pa t c.tid else .accld f.addr h.pa t c.tid
              .next ((s.noteHit v h).launchMat c th k off flag.toNat (matDetail 0 wr w.op) t.sc, .next)) s

/-- ACCLD (R231). -/
def execAccld (flag : BitVec 4) (p q : Opnd) (s : State) : Out := accOp (.accld flag p q) false flag p q s

/-- ACCST (R231). -/
def execAccst (flag : BitVec 4) (p q : Opnd) (s : State) : Out := accOp (.accst flag p q) true flag p q s

/-- The head of the queue, when it is not an mma and may act. -/
def State.headOther (s : State) (core : Nat) : Option MatOp :=
  match (s.core core).matQ with
  | [] => none
  | m :: _ => if s.matReady core m then some m else none

/-- MMZ_EXECUTE (R230): the tile is zeroed. -/
def execMmzExecute (core : Nat) (s : State) : Out :=
  match s.headOther core with
  | none => .next s
  | some m =>
    match m.kind with
    | .mmz => .next ((s.writeAcc core m.off 65536 0).endHead core m)
    | _ => .next s

/-- What the four lines of an accld or accst wait for at their homes (R156, R308, R315). -/
def State.rowWaits (s : State) (t : Tlb) (pa : Nat) (wr : Bool) : Option State :=
  s.awaitLines ((List.range 4).map (fun k => (lineOf (pa + 128 * k), t.mode))) wr

/-- Lines read at their homes, the lowest address in the low bits, with whether any is poisoned. -/
def State.readLines (core : Nat) (t : Tlb) (pa : Nat) : Nat → State → State × Nat × Bool
  | 0, s => (s, 0, false)
  | n + 1, s =>
    match s.readHome core t.mode t.lease pa 128 with
    | (s1, d, bad) =>
      match State.readLines core t (pa + 128) n s1 with
      | (s2, e, worse) => (s2, d + e * 2 ^ 1024, bad || worse)

/-- ACCLD_EXECUTE (R231): 512 bytes copied into the accumulator memory; poisoned data gives a deferred MACHINE trap. -/
def execAccldExecute (core : Nat) (s : State) : Out :=
  match s.headOther core with
  | none => .next s
  | some m =>
    match m.kind with
    | .accld va pa t tid =>
      match s.rowWaits t pa false with
      | some s1 => .next s1
      | none => .next (match State.readLines core t pa 4 s with
        | (s1, d, bad) =>
          if bad then
            (s1.onUid core m.slot m.uid tid (fun th =>
              { th with deferred := th.deferred ++ [⟨m.pc, BitVec.ofNat 48 va, m.detail ||| 0x800#32⟩] })).endHead core m
          else (s1.writeAcc core m.off 512 d).endHead core m)
    | _ => .next s

/-- ACCST_EXECUTE (R231): 512 bytes of the accumulator memory written to global memory; poison goes with them. -/
def execAccstExecute (core : Nat) (s : State) : Out :=
  match s.headOther core with
  | none => .next s
  | some m =>
    match m.kind with
    | .accst _ pa t _ =>
      let line (u : State) (k : Nat) : State :=
        let off := m.off + 128 * k
        let bad := (List.range 4).foldl (fun q i => q + b2n (u.accBad core (off + 32 * i) 32) * 2 ^ i) 0
        u.writeHome core t.mode (pa + 128 * k) 128 (u.readAcc core off 128) bad []
      match s.rowWaits t pa true with
      | some s1 => .next s1
      | none => .next (((List.range 4).foldl line s).endHead core m)
    | _ => .next s

end Sys2Proof.Machine
end

