-- ==== Sys2Proof/Machine/Crews.lean ====
section
/-! DEFINITION. Crews and tasks as wholes: placement (R14, R24, R25, R35, R174), the end of a crew (R36), tasks, their
control blocks and references (R352 to R371), what stops and ends them (R379, R383). -/

namespace Sys2Proof.Machine

/-! ### Shapes and entries (R87, R352) -/

/-- The fields of a crew shape word (R87). -/
def shSuper (w : Word) : Bool := bit w.toNat 31
def shStep (w : Word) : Bool := bit w.toNat 30
def shRegs (w : Word) : Nat := 8 * (bits w.toNat 29 27 + 1)
def shThreads (w : Word) : Nat := bits w.toNat 26 17 + 1
def shScratch (w : Word) : Nat := bits w.toNat 16 8
def shAcc (w : Word) : Nat := bits w.toNat 7 0

/-- The options of a task entry (R352). -/
def Entry.cls (e : Entry) : Nat := bits e.options 1 0
def Entry.crews (e : Entry) : Nat := bits e.options 3 2 + 1
def Entry.join (e : Entry) : Bool := bit e.options 4

/-- The entry that 32 bytes hold (R352). -/
def entryOf (x : Nat) : Entry :=
  { pc := BitVec.ofNat 32 x, shape := BitVec.ofNat 32 (x >>> 32), lo := bits x 95 64, hi := bits x 127 96,
    grain := bits x 159 128, options := bits x 175 160, argp := bits x 223 176, cell := bits x 239 224, decl := bits x 255 240 }

/-- The 32 bytes of an entry (R352). -/
def Entry.bytes (e : Entry) : Nat :=
  e.pc.toNat + e.shape.toNat * 2 ^ 32 + e.lo * 2 ^ 64 + e.hi * 2 ^ 96 + e.grain * 2 ^ 128 + e.options * 2 ^ 160 +
    e.argp * 2 ^ 176 + e.cell * 2 ^ 224 + e.decl * 2 ^ 240

/-- The address of an entry's cell (R352). -/
def Entry.cellVa (e : Entry) : Nat := wrap 48 ((e.argp : Int) + 32 * signed 16 e.cell)

/-- The address of an entry's descriptor of declared ranges (R352). -/
def Entry.declVa (e : Entry) : Nat := wrap 48 ((e.argp : Int) + 64 * signed 16 e.decl)

/-! ### Tasks (R354, R355) -/

/-- The isle and die of a task id (R354). -/
def taskIsle (id : Word) : Nat := bits id.toNat 30 27
def taskDie (id : Word) : Nat := bits id.toNat 31 31

/-- A task by its id. -/
def State.task (s : State) (id : Word) : Option Task :=
  (s.domain (taskIsle id) (taskDie id)).tasks.find? (fun t => decide (t.id = id))

/-- The units of an isle's task area, and the address of one (R355, R407). -/
def State.areaUnits (s : State) (i : Nat) : Nat := bits (s.isle i).tarea.toNat 63 48 * 4096
def State.unitPa (s : State) (i u : Nat) : Nat := bits (s.isle i).tarea.toNat 47 12 * 4096 + 256 * u

/-- The first free unit of an isle's task area. -/
def State.freeUnit (s : State) (i : Nat) : Option Nat :=
  let used := (s.isle i).areaUsed
  (List.range (min (s.areaUnits i) (used.length + 1))).find? (fun u => !used.contains u)

/-- The number of a task's state (R355). -/
def TaskState.code : TaskState → Nat
  | .queued => 0
  | .held => 1
  | .resident => 2
  | .stopping => 3
  | .ended => 4

/-- A handle slot's 64 bits (R355). -/
def Slot.bits (x : Slot) : Nat := x.handle.toNat / 32 * 32 + x.mult % 32

/-- The slot number of place `k` of an overflow block: 31 for each unit of the task area. -/
def overSlot (u k : Nat) : Nat := 16 + 31 * u + k

/-- The 256 bytes of a control block (R355). -/
def Task.block (t : Task) (overPa : Nat) : Nat :=
  t.id.toNat + (t.state.code + t.mstat % 16 * 16 + t.pieces % 256 * 256) * 2 ^ 32 + t.entry.bytes * 2 ^ 64 +
    t.slots.length * 2 ^ 320 + overPa * 2 ^ 352 + t.decl.toNat * 2 ^ 512 +
    (List.range 16).foldl (fun x k => x + ((t.slots.find k).map Slot.bits).getD 0 * 2 ^ (1024 + 64 * k)) 0

/-- The 256 bytes of an overflow block: 31 slots, then the link. -/
def Task.overBlock (t : Task) (u link : Nat) : Nat :=
  (List.range 31).foldl (fun x k => x + ((t.slots.find (overSlot u k)).map Slot.bits).getD 0 * 2 ^ (64 * k)) 0 +
    link * 2 ^ 1984

/-- Bytes of one line written by the N4 for a core, after the accesses that came to the line's home before (R315). -/
def State.putLine (s : State) (core : Nat) (m : CMode) (pa n v : Nat) : State :=
  match s.await (lineOf pa) m true with
  | some s1 => { s1 with duties := s1.duties ++ [.put core m pa n v] }
  | none => s.writeHome core m pa n v 0 []

/-- 256 bytes written by the N4 to physical memory. -/
def State.putUnit (s : State) (pa v : Nat) : State :=
  (s.putLine 0 .dir pa 128 (v % 2 ^ 1024)).putLine 0 .dir (pa + 128) 128 (v / 2 ^ 1024)

/-- The overflow blocks of a task written, each with the link to the next. -/
def State.putOver (t : Task) : List Nat → State → State
  | [], s => s
  | u :: l, s =>
    let link := ((l.head?).map (fun n => s.unitPa t.isle n)).getD 0
    State.putOver t l (s.putUnit (s.unitPa t.isle u) (t.overBlock u link))

/-- A task's control block and overflow blocks brought up to date in memory. -/
def State.mirror (s : State) (id : Word) : State :=
  match s.task id with
  | none => s
  | some t =>
    match t.tcb with
    | none => s
    | some u =>
      let link := ((t.overs.head?).map (fun n => s.unitPa t.isle n)).getD 0
      State.putOver t t.overs (s.putUnit (s.unitPa t.isle u) (t.block link))

/-- A task replaced by `f` of it, its control block with it. -/
def State.onTask (s : State) (id : Word) (f : Task → Task) : State :=
  (s.onDomain (taskIsle id) (taskDie id) (fun d =>
    { d with tasks := d.tasks.map (fun t => if t.id = id then f t else t) })).mirror id

/-- A unit of an isle's task area taken or given back. -/
def State.takeUnit (s : State) (i u : Nat) : State := s.onIsle i (fun x => { x with areaUsed := insertKey u x.areaUsed })
def State.giveUnit (s : State) (i u : Nat) : State := s.onIsle i (fun x => { x with areaUsed := eraseKey u x.areaUsed })

/-- The next task id of a domain, and the state after it is taken (R354): the serial skips 0. -/
def State.newTaskId (s : State) (i die : Nat) : Word × State :=
  let n := (s.domain i die).serial
  let next := if (n + 1) % 2 ^ 27 = 0 then 1 else (n + 1) % 2 ^ 27
  (BitVec.ofNat 32 (die * 2 ^ 31 + i * 2 ^ 27 + n), s.onDomain i die (fun d => { d with serial := next }))

/-! ### References (R355, R371) -/

/-- Whether a task holds a reference to a handle. -/
def Task.holds (t : Task) (h : DWord) : Bool := t.slots.any (fun x => decide (x.2.handle = h))

/-- A slot of a task for one more reference to a handle: one that has room, or an empty one. -/
def Task.slotFor (t : Task) (h : DWord) : Option Nat :=
  match t.slots.find? (fun x => decide (x.2.handle = h) && decide (x.2.mult < 31)) with
  | some x => some x.1
  | none =>
    let nums := List.range 16 ++ (t.overs.map (fun u => (List.range 31).map (overSlot u))).flatten
    nums.find? (fun k => (t.slots.find k).isNone)

/-- One more reference of a task to a handle; nothing where the task area has no room for its slot. -/
def State.addRef (s : State) (id : Word) (h : DWord) : Option State :=
  match s.task id with
  | none => none
  | some t =>
    let bump (k : Nat) (t : Task) : Task :=
      { t with slots := t.slots.put k { handle := h, mult := ((t.slots.find k).map (fun x => x.mult)).getD 0 + 1 } }
    match t.slotFor h with
    | some k => some (s.onTask id (bump k))
    | none =>
      match s.freeUnit t.isle with
      | none => none
      | some u => some ((s.takeUnit t.isle u).onTask id (fun t => bump (overSlot u 0) { t with overs := t.overs ++ [u] }))

/-- One reference of a task to a handle less: an empty slot goes, and an overflow block with its last slot. -/
def State.subRef (s : State) (id : Word) (h : DWord) : State :=
  match s.task id with
  | none => s
  | some t =>
    match t.slots.find? (fun x => decide (x.2.handle = h)) with
    | none => s
    | some (k, x) =>
      let slots := if x.mult ≤ 1 then t.slots.del k else t.slots.put k { x with mult := x.mult - 1 }
      let dead := t.overs.filter (fun u => !(List.range 31).any (fun n => (slots.find (overSlot u n)).isSome))
      (dead.foldl (fun (u : State) n => u.giveUnit t.isle n) s).onTask id (fun t =>
        { t with slots := slots, overs := t.overs.filter (fun u => !dead.contains u) })

/-! ### Placement (R174) -/

/-- The first free slot of a core. -/
def State.freeSlot (s : State) (core : Nat) : Option Nat :=
  (List.range 32).find? (fun k => ((s.core core).crews.find k).isNone && ((s.core core).returned.find k).isNone)

/-- Threads resident on a core. -/
def State.residents (s : State) (core : Nat) : Nat := (s.core core).holders.foldl (fun n w => n + w.2.size) 0

/-- The lowest accumulator offset that fits, in units. -/
def State.accFit (s : State) (core len : Nat) : Option Nat :=
  if len = 0 then some 0 else (List.range 65).find? (fun o => s.accFree core o len)

/-- The lowest scratchpad offset that fits, in units. -/
def State.spadFit (s : State) (cluster len : Nat) : Option Nat :=
  if len = 0 then some 0 else (List.range 257).find? (fun o => s.spadFree cluster o len)

/-- Whether a core has a slot, threads and register blocks for a shape, and an empty grant queue. -/
def State.coreFits (s : State) (core isle threads regs : Nat) : Bool :=
  (s.freeSlot core).isSome && decide (s.residents core + threads ≤ 2048) &&
    decide (s.blocksUsed core + ceilDiv threads 32 * (regs / 8) ≤ 512) && (s.core core).grantQ.isEmpty &&
    (s.cluster (clusterOf core)).powered && decide (s.isleOfCore core = some isle) && !(s.isle isle).inReset

/-- A 16-byte word of an isle's segment template (R407). -/
def State.templ (s : State) (i k : Nat) : Nat := s.peekNat (bits (s.isle i).segtmpl.toNat 47 6 * 64 + 16 * k) 16

/-- The fields of an isle's stack pool descriptor (R25). -/
def State.poolBase (s : State) (i : Nat) : Nat := bits (s.templ i 5) 47 0
def State.poolSize (s : State) (i : Nat) : Nat := bits (s.templ i 5) 95 64
def State.poolSlots (s : State) (i : Nat) : Nat := bits (s.templ i 5) 127 96

/-- The stack slots that crews of an isle gave back in this cycle (R174). -/
def State.returnedStacks (s : State) (i : Nat) : List (Nat × Nat) :=
  (s.cores.map (fun c => c.2.returned.filterMap (fun w => if w.2.isle = i then w.2.stack else none))).flatten

/-- The first run of free stack slots, searched from `a` up with the runs in use as bounds (R25, R174). -/
def State.stackRun (s : State) (i n : Nat) : Option Nat :=
  let used := (s.isle i).stackSlots ++ s.returnedStacks i
  let starts := 0 :: used.map (fun x => x.1 + x.2)
  let ok := starts.filter (fun a => decide (a + n ≤ s.poolSlots i) && used.all (fun x => !overlap x.1 x.2 a n))
  ok.foldl (fun m a => match m with | some b => some (min a b) | none => some a) none

/-- A thread as placement makes it (R14, R22 to R27, R35). -/
def newThread (pc : Word) (step : Bool) (segs : List (BitVec 128)) : Thread :=
  { Thread.blank with
    pc := pc, step := step, segs := segs,
    sp := BitVec.ofNat 32 (segLimit (segs.getD 3 0#128) / 16 * 16) }

/-- The segments of thread `tid` of a crew placed from an entry (R24, R25). The rules give base and limit of seg.1, seg.2 and seg.3 and
no permission bits: Rd and W are set, S and X clear (DESIGN CHOICE, log 99). -/
def State.taskSegs (s : State) (i spad spadLen acc accLen stack tid : Nat) : List (BitVec 128) :=
  let t (k : Nat) : BitVec 128 := BitVec.ofNat 128 (s.templ i k)
  let size := s.poolSize i
  [forceSeg 0 (t 0), mkSeg false false true true (4096 * spadLen) (4096 * spad),
   mkSeg false false true true (4096 * accLen) (4096 * acc),
   mkSeg false false true true size (s.poolBase i + (stack + tid) * size),
   forceSeg 4 (t 1), forceSeg 5 (t 2), forceSeg 6 (t 3), forceSeg 7 (t 4)]

/-- What placement needs to know of a crew. -/
structure Plan where
  core : Nat
  isle : Nat
  shape : Word
  size : Nat
  super : Bool
  spad : Nat
  acc : Nat
  accLen : Nat
  owner : Option Nat
  stack : Option (Nat × Nat)
  task : Word
  piece : Nat
  kgo : Bool

/-- A crew placed in a core's first free slot, with its threads (R35, R172); its slot. The stack slots are taken, and the
first accesses of its threads acquire at .die (R360). -/
def State.addCrew (s : State) (p : Plan) (threads : FMap Thread) : State × Option Nat :=
  match s.freeSlot p.core with
  | none => (s, none)
  | some slot =>
    let uid := s.fresh.1
    let w : Crew :=
      { uid := uid, shape := p.shape, isle := p.isle, size := p.size, nbase := shRegs p.shape, super := p.super,
        grant := { regs := 0, scratch := 0, acc := 0 }, request := none, spadBase := p.spad, spadLen := shScratch p.shape,
        accBase := p.acc, accLen := p.accLen, accOwner := p.owner.getD uid, threads := threads, rms := [], cvs := [], handles := [],
        patience := 4096, task := p.task, piece := p.piece, kgo := p.kgo, stack := p.stack, preempt := none, freeze := .none,
        slice := 0, sliceDue := false }
    let s1 := s.fresh.2.onCore p.core (fun c => { c with crews := c.crews.put slot w })
    let s2 := match p.stack with
      | some r => s1.onIsle p.isle (fun x => { x with stackSlots := x.stackSlots ++ [r] })
      | none => s1
    let s3 := s2.onDomain p.isle (dieOfCore p.core) (fun d =>
      { d with pieces := d.pieces.modify p.piece (fun x => { x with crews := x.crews ++ [uid] }) })
    (s3.dropLeased (clusterOf p.core), some slot)

/-- The accumulator range of a crew of a task on a core: its own, or for a join task its spawner's with the uid of its first
holder (R216, R353). -/
def State.accFor (s : State) (t : Task) (core : Nat) : Option (Nat × Nat × Option Nat) :=
  if t.entry.join then
    match (s.core core).crews.find? (fun w => decide (w.2.uid = t.joinUid)) with
    | some w => some (w.2.accBase, w.2.accLen + w.2.grant.acc, some w.2.accOwner)
    | none => none
  else (s.accFit core (shAcc t.entry.shape)).map (fun o => (o, shAcc t.entry.shape, none))

/-- One crew of a piece placed on a core, its squad's scratchpad range given. -/
def State.placeCrew (s : State) (t : Task) (piece spad core : Nat) : Option State :=
  let n := shThreads t.entry.shape
  if !s.coreFits core t.isle n (shRegs t.entry.shape) then none
  else
    match s.accFor t core, s.stackRun t.isle n with
    | some (acc, len, owner), some st =>
      let th (tid : Nat) : Thread :=
        let x := newThread t.entry.pc (shStep t.entry.shape)
          (s.taskSegs t.isle spad (shScratch t.entry.shape) acc len st tid)
        { x with regs := ((x.regs.put 0 (BitVec.ofNat 32 t.entry.argp)).put 1 (BitVec.ofNat 32 (t.entry.argp >>> 32))) }
      some (s.addCrew
        { core := core, isle := t.isle, shape := t.entry.shape, size := n, super := shSuper t.entry.shape, spad := spad,
          acc := acc, accLen := len, owner := owner, stack := some (st, n), task := t.id, piece := piece, kgo := false }
        ((List.range n).map (fun k => (k, th k)))).1
    | _, _ => none

/-- Crews placed on cores one after another. -/
def State.placeCrews (t : Task) (piece spad : Nat) : List Nat → State → Option State
  | [], s => some s
  | c :: l, s =>
    match s.placeCrew t piece spad c with
    | some s1 => State.placeCrews t piece spad l s1
    | none => none

/-- A piece of a task placed on the first of some cores of one cluster that fit (R353, R357). -/
def State.placePiece (s : State) (t : Task) (lo hi : Nat) (cores : List Nat) : Option State :=
  let fit := (cores.filter (fun c => (!t.entry.join || decide (c = t.joinCore)) &&
    s.coreFits c t.isle (shThreads t.entry.shape) (shRegs t.entry.shape) && (s.accFor t c).isSome)).take t.entry.crews
  if fit.length < t.entry.crews then none
  else
    match fit with
    | [] => none
    | c :: _ =>
      match s.spadFit (clusterOf c) (shScratch t.entry.shape) with
      | none => none
      | some spad =>
        let id := s.fresh.1
        let s1 := s.fresh.2.onDomain t.isle t.die (fun d =>
          { d with pieces := d.pieces.put id { task := t.id, cur := lo, hi := hi, crews := [] } })
        match State.placeCrews t id spad fit s1 with
        | none => none
        | some s2 => some (s2.onTask t.id (fun x =>
            { x with pieces := x.pieces + 1, state := if x.stopping then .stopping else .resident }))

/-! ### Cells (R369, R372) -/

/-- Where a cell lies: its address and page, if the isle's page table maps it into the isle's memory. -/
def State.cellAt (s : State) (i va : Nat) : Option (Nat × Tlb) :=
  match s.walk i va with
  | .leaf t _ => if s.inPartition i (t.pa va) then some (t.pa va, t) else none
  | .absent _ _ => none

/-- The fields of a cell (R369). -/
def cValue (c : Nat) : Nat := bits c 63 0
def cCount (c : Nat) : Nat := bits c 87 64
def cState (c : Nat) : Nat := bits c 95 94
def cOwner (c : Nat) : Nat := bits c 127 96

/-- A cell with another state. -/
def putState (c st : Nat) : Nat := putBits c 94 2 st
def putCount (c n : Nat) : Nat := putBits c 64 24 n

/-- The states of a cell (R369). -/
def cEmpty : Nat := 0
def cFull : Nat := 1
def cOrphaned : Nat := 2
def cReclaimed : Nat := 3

/-- A cell read at its home bank by the unit that applies a future operation (R378): no lease is taken of its line (R342). -/
def State.readCell (s : State) (_core : Nat) (x : Nat × Tlb) : State × Nat × Bool :=
  let s1 := (s.touchHome (lineOf x.1) x.2.mode).flushOwner (lineOf x.1) true
  (s1, s1.mem.readNat x.1 32, decide (s1.linePoison (lineOf x.1) &&& granulesOf (x.1 % 128) 32 ≠ 0))

/-- A cell written at its home bank. -/
def State.writeCell (s : State) (core : Nat) (x : Nat × Tlb) (v : Nat) : State := s.writeHome core x.2.mode x.1 32 v 0 []

/-- The park field of a cell for a list of parked threads (R369). -/
def parkField (l : List Word) : Nat :=
  match l with
  | [] => 0
  | w :: _ => 2 ^ 31 + w.toNat % 2 ^ 24

/-- The park records of a cell replaced. -/
def State.putParks (s : State) (pa : Nat) (l : List Word) : State :=
  { s with parks := if l.isEmpty then s.parks.del pa else s.parks.put pa l }

/-- The park list that a cell's bytes give (R369): empty where the field says so, else the thread that the field names and those that
the records link after it; a thread that no record of the cell holds stands alone (log 97). -/
def State.parked (s : State) (pa c : Nat) : List Word :=
  let w : Word := BitVec.ofNat 32 (bits c 151 128)
  if bit c 159 then
    match (FMap.get [] s.parks pa).dropWhile (fun x => decide (x ≠ w)) with
    | [] => [w]
    | l => l
  else []

/-- The park list of a cell replaced, its field in memory with it. -/
def State.setParks (s : State) (core : Nat) (x : Nat × Tlb) (c : Nat) (l : List Word) : State :=
  (s.putParks x.1 l).writeCell core x (putBits c 128 32 (parkField l))

/-- The thread that an index word names (R248). -/
def indexCore (w : Word) : Nat := bits w.toNat 23 15
def indexSlot (w : Word) : Nat := bits w.toNat 14 10
def indexTid (w : Word) : Nat := bits w.toNat 9 0

/-- Whether the task of a crew is stopping. -/
def State.stoppingCrew (s : State) (w : Crew) : Bool := ((s.task w.task).map (fun t => t.stopping)).getD false

/-- A thread retires: it issues nothing more, and exits once R145 allows it (R379). -/
def Thread.retire (th : Thread) : Thread :=
  { th.cleared with
    life := .ready, leaving := true, rsv := none, wdcount := 0, stepDue := false, stopDue := false, retireDue := false }

/-- A thread woken from the park of a cell (R372): one of a stopping task, which entered its park in this very cycle, retires there
(R380). -/
def Thread.wakeFrom (th : Thread) (pa : Nat) (stopping : Bool) : Thread :=
  if th.parkOf ≠ some (.future pa) then th
  else if stopping && decide (th.life = .parked (.future pa)) && decide (th.guard = 0) then th.retire
  else th.wake

/-- Every thread on a cell's park list wakes, and the list empties (R372); `c` is the cell then written, its park field that of the
cell read. -/
def State.wakeCell (s : State) (core : Nat) (x : Nat × Tlb) (c : Nat) : State :=
  let s1 := (s.parked x.1 c).foldl (fun (t : State) w =>
    let stop := ((t.crew (indexCore w) (indexSlot w)).map (fun y => t.stoppingCrew y)).getD false
    t.onThread (indexCore w) (indexSlot w) (indexTid w) (fun th => th.wakeFrom x.1 stop)) s
  s1.setParks core x c []

/-- The place of a cell at its home, in the mode that the home holds its line in. -/
def State.homeCell (s : State) (pa : Nat) : Nat × Tlb :=
  (pa, { mPage pa with mode := ((s.lines.find (lineOf pa)).map (fun h => h.mode)).getD .dir })

/-- A thread taken off a cell's park list at the cell's bank. -/
def State.unlinkAt (s : State) (pa : Nat) (me : Word) : State :=
  let c := s.peekNat pa 32
  let l := s.parked pa c
  if l.contains me then s.setParks (indexCore me) (s.homeCell pa) c (l.filter (fun w => decide (w ≠ me)))
  else s.putParks pa ((FMap.get [] s.parks pa).filter (fun w => decide (w ≠ me)))

/-- A thread leaves the park list of the cell it is parked on (R258), after the accesses that came to the cell's home before (R315). -/
def State.unlinkPark (s : State) (core slot tid : Nat) : State :=
  match s.thread core slot tid with
  | none => s
  | some th =>
    match th.parkOf with
    | some (.future pa) =>
      let me := indexWord core slot tid
      match s.await (lineOf pa) (s.homeCell pa).2.mode true with
      | some s1 => { s1 with duties := s1.duties ++ [.unlink pa me] }
      | none => s.unlinkAt pa me
    | _ => s

/-! ### The end of crews and tasks (R36, R379, R383) -/

/-- The task control block of a new task, if the area has room. -/
def State.giveTcb (s : State) (i : Nat) : Option Nat × State :=
  match s.freeUnit i with
  | some u => (some u, s.takeUnit i u)
  | none => (none, s)

/-- Two granule ranges of 8 bytes share a granule (R366, R367). -/
def rangesMeet (a b : Nat) : Bool :=
  decide (bits a 63 40 ≠ 0) && decide (bits b 63 40 ≠ 0) &&
    overlap (bits a 39 0) (bits a 63 40) (bits b 39 0) (bits b 63 40)

/-- Range `k` of a declaration: 0 to 3 read, 4 and 5 written. -/
def declRange (d : BitVec 512) (k : Nat) : Nat := bits d.toNat (64 * k + 63) (64 * k)

/-- Whether a task with declaration `t` must wait for one with declaration `u` (R367). -/
def declWaits (t u : BitVec 512) : Bool :=
  [4, 5].any (fun k => (List.range 6).any (fun n => rangesMeet (declRange t k) (declRange u n))) ||
    (List.range 4).any (fun k => [4, 5].any (fun n => rangesMeet (declRange t k) (declRange u n)))

/-- Whether a task of a domain is held by the ranges of another (R367). -/
def Domain.holdsBack (d : Domain) (t : Task) : Bool :=
  d.tasks.any (fun u => decide (u.pos < t.pos) && decide (u.state ≠ .ended) && decide (u.id ≠ t.parent) &&
    decide (u.id ≠ t.id) && declWaits t.decl u.decl)

/-- The cores of a domain have an event at which they ask for work (R358). -/
def State.askAll (s : State) (i die : Nat) : State :=
  ((s.isleCores i).filter (fun k => decide (dieOfCore k = die))).foldl (fun (u : State) k =>
    u.onCore k (fun c => { c with asks := true })) s

/-- The first piece of a task enters its cluster's queue (R356, R358, R367). -/
def State.queueTask (s : State) (id : Word) : State :=
  match s.task id with
  | none => s
  | some t =>
    let q : Queued := { task := id, lo := t.entry.lo, hi := t.entry.hi, cls := t.entry.cls, since := s.cycle, pos := t.pos }
    ((s.onCluster t.cluster (fun c => { c with queue := c.queue ++ [q] })).onTask id
      (fun t => { t with state := .queued })).askAll t.isle t.die

/-- The tasks of a domain that are held are looked at again (R367, R383). -/
def State.releaseHeld (s : State) (i die : Nat) : State :=
  let d := s.domain i die
  ((d.tasks.filter (fun t => decide (t.state = .held) && !d.holdsBack t)).map (fun t => t.id)).foldl
    (fun (u : State) id => u.queueTask id) s

/-- Whether a piece of a task is queued somewhere. -/
def State.isQueued (s : State) (id : Word) : Bool := s.clusters.any (fun c => c.2.queue.any (fun q => decide (q.task = id)))

/-- Whether a thread retires when its task stops: its guard depth is 0 and it is parked, or Ready again after a round in which it was
restored as a waiting signer (R379, R380). -/
def Thread.retiresParked (th : Thread) : Bool :=
  match th.life with
  | .parked _ => decide (th.guard = 0)
  | .ready => th.retireDue && decide (th.guard = 0)
  | _ => false

/-- The parked threads of a crew of a stopping task retire; its request is withdrawn (R179, R380). A thread that waits for it inside a
guard stays parked (DEDUCED, log 112). -/
def State.retireCrew (s : State) (core slot : Nat) : State :=
  match s.crew core slot with
  | none => s
  | some w =>
    let tids := (w.threads.filter (fun t => t.2.retiresParked)).map Prod.fst
    let s1 := tids.foldl (fun (u : State) t =>
      (u.unlinkPark core slot t).onThread core slot t (fun th => th.retire)) s
    (s1.onCrew core slot (fun w => { w with request := none })).onCore core (fun c =>
      { c with grantQ := c.grantQ.filter (fun k => k != slot) })

/-- The cores and slots of a task's resident crews. -/
def State.crewsOfTask (s : State) (id : Word) : List (Nat × Nat) :=
  (s.cores.map (fun c => (c.2.crews.filter (fun w => decide (w.2.task = id))).map (fun w => (c.1, w.1)))).flatten

/-- A task stops (R379): its queued pieces go, its ranges are discarded, its parked threads retire. -/
def State.markStop (s : State) (id : Word) : State :=
  let s1 := { s with clusters := s.clusters.mapVal (fun _ c =>
    { c with queue := c.queue.filter (fun q => decide (q.task ≠ id)) }) }
  let s2 := s1.onDomain (taskIsle id) (taskDie id) (fun d =>
    { d with pieces := d.pieces.mapVal (fun _ p => if p.task = id then { p with hi := p.cur } else p) })
  let s3 := s2.onTask id (fun t => { t with stopping := true, state := .stopping })
  (s.crewsOfTask id).foldl (fun (u : State) x => u.retireCrew x.1 x.2) s3

/-- What is still to be done for tasks: one stops, or may have ended. -/
inductive TaskWork where
  | stop (id : Word)
  | check (id : Word)
deriving DecidableEq, Repr

/-- One reference dropped at its cell's bank (R372): the tasks that stop by it. A task that owns the cell and is EMPTY at
count 0 stops. -/
def State.dropRef (s : State) (x : Nat × Tlb) (h : DWord) : State × List TaskWork :=
  match s.readCell 0 x with
  | (s1, c, bad) =>
    if bad ∨ cOwner c = 0 ∨ cOwner c % 2 ^ 16 ≠ bits h.toNat 63 48 ∨ cCount c = 0 then (s1, [])
    else
      let n := cCount c - 1
      if cState c = cEmpty ∧ n = 0 then
        (s1.writeCell 0 x (putState (putCount c 0) cOrphaned), [.stop (BitVec.ofNat 32 (cOwner c))])
      else (s1.writeCell 0 x (putCount c n), [])

/-- The cell of a task that has ended, if it is its own and without a value (R372, R383). -/
def State.reclaimCell (s : State) (x : Nat × Tlb) (task : Word) : State :=
  match s.readCell 0 x with
  | (u, c, bad) =>
    if bad = false ∧ cOwner c = task.toNat ∧ (cState c = cEmpty ∨ cState c = cOrphaned) then
      u.wakeCell 0 x (putState c cReclaimed)
    else u

/-- A cell's place under a mode. -/
def cellIn (m : CMode) (pa : Nat) : Nat × Tlb := (pa, { mPage pa with mode := m })

/-- An access of the N4 itself performed. -/
def State.perform (s : State) (d : Duty) : State × List TaskWork :=
  match d with
  | .put core m pa n v => (s.writeHome core m pa n v 0 [], [])
  | .drop m pa h => s.dropRef (cellIn m pa) h
  | .reclaim m pa task => (s.reclaimCell (cellIn m pa) task, [])
  | .unlink pa me => (s.unlinkAt pa me, [])
  | .recall pa => (s.flushOwner (lineOf pa) true, [])

/-- The mode that an access of the N4 itself names. -/
def State.dutyMode (s : State) (d : Duty) : CMode :=
  match d with
  | .put _ m _ _ _ => m
  | .drop m _ _ => m
  | .reclaim m _ _ => m
  | .unlink pa _ => (s.homeCell pa).2.mode
  | .recall pa => (s.homeCell pa).2.mode

/-- An access of the N4 itself: at once, or after those that came to the home of its line before (R315). -/
def State.request (s : State) (d : Duty) : State × List TaskWork :=
  match s.await d.line (s.dutyMode d) (!d.recalls) with
  | some s1 => ({ s1 with duties := s1.duties ++ [d] }, [])
  | none => s.perform d

/-- One reference dropped, where the isle's page table gives its cell a place; the walk reads its tables at their homes (R325, R372). -/
def State.dropAtCell (s : State) (i : Nat) (h : DWord) : State × List TaskWork :=
  let va := bits h.toNat 47 0
  match s.cellAt i va with
  | none => (s.recallTables i va, [])
  | some x => (s.recallTables i va).request (.drop x.2.mode x.1 h)

/-- Every reference of a list of slots dropped (R383 step 3). -/
def State.dropAll (i : Nat) : List (DWord × Nat) → State → State × List TaskWork
  | [], s => (s, [])
  | (h, n) :: l, s =>
    let one (x : State × List TaskWork) (_ : Nat) : State × List TaskWork :=
      match x.1.dropAtCell i h with
      | (u, w) => (u, x.2 ++ w)
    match (List.range n).foldl one (s, []) with
    | (s1, w1) =>
      match State.dropAll i l s1 with
      | (s2, w2) => (s2, w1 ++ w2)

/-- The end of a task (R383). -/
def State.endTask (s : State) (t : Task) : State × List TaskWork :=
  let s1 := (s.onTask t.id (fun t => { t with state := .ended })).releaseHeld t.isle t.die
  let s2 := match t.cell with
    | none => s1
    | some va =>
      match s1.cellAt t.isle va with
      | none => s1.recallTables t.isle va
      | some x => ((s1.recallTables t.isle va).request (.reclaim x.2.mode x.1 t.id)).1
  match State.dropAll t.isle (t.slots.map (fun x => (x.2.handle, x.2.mult))) s2 with
  | (s3, work) =>
    let s4 := (t.tcb.toList ++ t.overs).foldl (fun (u : State) n => u.giveUnit t.isle n) s3
    (s4.onDomain t.isle t.die (fun d => { d with tasks := d.tasks.filter (fun x => decide (x.id ≠ t.id)) }), work)

/-- Stops and ends worked off, with fuel: each task stops once and ends once. -/
def State.runWork : Nat → List TaskWork → State → State
  | 0, _, s => s
  | _, [], s => s
  | n + 1, .stop id :: l, s =>
    match s.task id with
    | some t => if t.stopping then State.runWork n l s else State.runWork n (l ++ [.check id]) (s.markStop id)
    | none => State.runWork n l s
  | n + 1, .check id :: l, s =>
    match s.task id with
    | some t =>
      if (s.domain t.isle t.die).pieces.any (fun p => decide (p.2.task = id)) || s.isQueued id ||
          decide (t.state = .held) || decide (t.state = .ended) then State.runWork n l s
      else
        match s.endTask t with
        | (s1, w) => State.runWork n (l ++ w) s1
    | none => State.runWork n l s

/-- The fuel that the tasks of the machine need. -/
def State.workFuel (s : State) : Nat := s.domains.foldl (fun n d => n + 3 * d.2.tasks.length) 3

/-- Work on tasks done to its end. -/
def State.work (s : State) (l : List TaskWork) : State := State.runWork (s.workFuel + l.length) l s

/-- The accesses of the N4 itself that were waiting, each performed once its home is free, in the order of arrival (R315): `held` are
the lines of those that wait on. -/
def State.runDuties : List Duty → List Nat → State → State
  | [], _, s => s
  | d :: l, held, s =>
    if held.contains d.line then State.runDuties l held s
    else
      match s.awaitFirst d.line (s.dutyMode d) (!d.recalls) with
      | some s1 => State.runDuties l (d.line :: held) s1
      | none =>
        match State.perform { s with duties := s.duties.erase d } d with
        | (s1, w) => State.runDuties l held (s1.work w)

/-- The homes take up the accesses of the N4 itself that wait for them. -/
def State.serveDuties (s : State) : State := State.runDuties s.duties [] s

/-- A bit of a word set or cleared. -/
def wordBit (w : Word) (k : Nat) (b : Bool) : Word := BitVec.ofNat 32 (putBit w.toNat k b)

/-- The permits of a crew dropped (R286): all of them, or those that a save does not keep. -/
def State.dropPermits (s : State) (core slot : Nat) : State :=
  s.onCluster (clusterOf core) (fun c => { c with permits := c.permits.mapVal (fun _ p =>
    if p.armed && !p.fwd && decide (p.owner = crewId core slot) then { p with armed := false } else p) })

/-- A crew leaves its slot, and all it held returns at the end of the cycle (R36, R174, R258): its stack slots too unless
`keep`. -/
def State.freeCrew (s : State) (core slot : Nat) (keep : Bool) : State :=
  match s.crew core slot with
  | none => s
  | some w =>
    let s1 := s.onCore core (fun c =>
      { c with crews := c.crews.del slot, returned := c.returned.put slot { w with threads := [], stack := if keep then none else w.stack }, grantQ := c.grantQ.filter (fun k => k != slot), asks := true,
               ctl := { c.ctl with pready := wordBit c.ctl.pready slot false, dbgstat := wordBit c.ctl.dbgstat slot false } })
    match w.stack with
    | some r => if keep then s1 else s1.onIsle w.isle (fun x => { x with stackSlots := x.stackSlots.filter (fun y => y != r) })
    | none => s1

/-- A crew is no more of its piece; with its last crew the piece ends, and perhaps the task (R383). -/
def State.leavePiece (s : State) (i die piece uid : Nat) (task : Word) : State :=
  let left := (((s.domain i die).pieces.find piece).map (fun p => p.crews.filter (fun u => u != uid))).getD []
  if left.isEmpty then
    let s1 := s.onDomain i die (fun d => { d with pieces := d.pieces.del piece })
    (s1.onTask task (fun t => { t with pieces := t.pieces - 1 })).work [.check task]
  else s.onDomain i die (fun d => { d with pieces := d.pieces.modify piece (fun p => { p with crews := left }) })

/-- Join tasks whose spawning crew has ended before they were placed end unplaced (R353). -/
def State.dropJoins (s : State) (uid : Nat) : State :=
  let ids := (s.domains.map (fun d => (d.2.tasks.filter (fun t => t.entry.join && decide (t.joinUid = uid) &&
    (decide (t.state = .queued) || decide (t.state = .held)))).map (fun t => t.id))).flatten
  s.work (ids.map TaskWork.stop)

/-- The end of a crew (R36): its permits, those forwarded for it too (R286), slot, stacks and piece. -/
def State.endCrew (s : State) (core slot : Nat) : State :=
  match s.crew core slot with
  | none => s
  | some w =>
    let s1 := ((s.dropPermits core slot).dropForwarded (fun f _ => decide (f.uid = w.uid))).freeCrew core slot false
    let s2 := if w.kgo then s1.onCore core (fun c => { c with ctl := { c.ctl with kdone := wordBit c.ctl.kdone slot true } })
      else s1
    (s2.leavePiece w.isle (dieOfCore core) w.piece w.uid w.task).dropJoins w.uid

/-- A crew whose threads have all exited ends, once no matrix operation and no copy of it is left (R36, R229, R298). -/
def State.reapCrew (s : State) (core slot : Nat) : State :=
  match s.crew core slot with
  | none => s
  | some w =>
    let busy := (s.core core).matQ.any (fun m => decide (m.uid = w.uid)) ||
      (s.core core).matWait.any (fun m => decide (m.uid = w.uid)) ||
      s.copies.any (fun o => decide (o.core = core) && decide (o.uid = w.uid))
    if w.threads.all (fun t => decide (t.2.life = .exited)) && !busy then s.endCrew core slot else s

end Sys2Proof.Machine
end

