-- ==== Sys2Proof/Machine/Records.lean ====
section
/-! DEFINITION. Trap records and the supervisor queue (R164, R165, R248, R249), boundary traps (R168, R169, R263), what
stops the threads of a crew between instructions (R186, R256, R257, R261, R262, R264), and retirement (R145). -/

namespace Sys2Proof.Machine

/-! ### Status words and records (R31, R248) -/

/-- The park code of a park (R31). -/
def Park.code : Park → Nat
  | .future _ => 1
  | .barrier _ _ => 2
  | .rejoin _ _ => 3
  | .grant => 4
  | .counter _ _ => 5
  | .batch _ => 5

/-- The busy bits of a thread (R31). -/
def Thread.busy (th : Thread) : Nat := (List.range 12).foldl (fun m k => m + b2n (!th.idle k) * 2 ^ k) 0

/-- A thread's status word (R31). -/
def Thread.status (th : Thread) (super : Bool) : Word :=
  let win : Option Nat := match th.trap with
    | some t => t.win
    | none => th.win.map (fun (w : Win) => w.pos)
  let park : Nat := match th.life with
    | .parked p => p.code
    | .frozen _ => 6
    | _ => 0
  BitVec.ofNat 32 (((th.trap.map (fun t => t.cause)).getD 0) * 2 ^ 24 + (win.getD 0) % 16 * 2 ^ 20 + b2n win.isSome * 2 ^ 19 +
    b2n th.step * 2 ^ 18 + b2n super * 2 ^ 17 + b2n th.trap.isSome * 2 ^ 16 + b2n (decide (park ≠ 0)) * 2 ^ 15 +
    park * 2 ^ 12 + th.busy)

/-- The record of a trapped thread, with a number (R248). -/
def Thread.record (th : Thread) (super : Bool) (index seq : Word) : Rec :=
  match th.trap with
  | some t =>
    { status := th.status super, tpc := t.tpc, rpc := t.rpc, detail := t.detail, fault := t.fault, index := index,
      seq := seq }
  | none => { status := 0, tpc := 0, rpc := 0, detail := 0, fault := 0, index := index, seq := seq }

/-- The 32 bytes of a record with a batch field (R248). -/
def Rec.bytes (r : Rec) (batch : Nat) : Nat :=
  r.status.toNat + r.tpc.toNat * 2 ^ 32 + r.rpc.toNat * 2 ^ 64 + r.detail.toNat * 2 ^ 96 + r.fault.toNat * 2 ^ 128 +
    batch % 2 ^ 16 * 2 ^ 176 + r.index.toNat * 2 ^ 192 + r.seq.toNat * 2 ^ 224

/-- The record that 32 bytes hold. -/
def recOf (x : Nat) : Rec :=
  { status := BitVec.ofNat 32 x, tpc := BitVec.ofNat 32 (x >>> 32), rpc := BitVec.ofNat 32 (x >>> 64),
    detail := BitVec.ofNat 32 (x >>> 96), fault := BitVec.ofNat 48 (x >>> 128), index := BitVec.ofNat 32 (x >>> 192),
    seq := BitVec.ofNat 32 (x >>> 224) }

/-- The cause of a record. -/
def Rec.cause (r : Rec) : Nat := bits r.status.toNat 31 24

/-! ### The queue and its spill ring (R249) -/

/-- Address of place `k` of a core's spill ring. -/
def CoreCtl.ringPa (c : CoreCtl) (k : Nat) : Nat := c.qspill.toNat + 32 * (k % (max c.qspilln.toNat 1))

/-- An event bit of ctl.ipend set (R242). -/
def State.raisePend (s : State) (core bitNo : Nat) : State :=
  s.onLane core (fun l => { l with ipend := BitVec.ofNat 64 (putBit l.ipend.toNat bitNo true) })

/-- Where the next record of a core goes: into the queue, the ring, or nowhere yet (R249). -/
inductive Room where
  | queue | ring | none
deriving DecidableEq, Repr

/-- The room that a core has for a record. -/
def Core.room (c : Core) : Room :=
  if c.queue.length < 256 ∧ c.ringCount = 0 then .queue
  else if c.ringCount < c.ctl.qspilln.toNat then .ring
  else .none

/-- A record put where there is room (R249). -/
def State.putRecord (s : State) (core : Nat) (r : Rec) : State :=
  let c := s.core core
  match c.room with
  | .queue => s.onCore core (fun c => { c with queue := c.queue ++ [r] })
  | .ring =>
    ((s.putLine core .dir (c.ctl.ringPa (c.ringHead + c.ringCount)) 32 (r.bytes 0)).onCore core (fun c =>
      { c with ringCount := c.ringCount + 1 })).raisePend core 2
  | .none => s

/-- A core's next record number taken. -/
def State.nextSeq (s : State) (core : Nat) : State := s.onCore core (fun c => { c with seq := c.seq + 1 })

/-- The record of a trapped thread made and queued, or its trap held (R249). -/
def State.makeRecord (s : State) (core slot tid : Nat) (held : Bool) : State :=
  match s.crew core slot, s.thread core slot tid with
  | some w, some th =>
    let c := s.core core
    if c.room = .none ∨ (held = false ∧ c.held ≠ []) then
      if held then s
      else
        ((s.onCore core (fun c => { c with held := c.held ++ [(slot, tid)], ctl := { c.ctl with ovf := true } })).onThread
          core slot tid (fun th => { th with trap := th.trap.map (fun t => { t with record := .held }) })).raisePend core 2
    else
      let r := th.record w.super (indexWord core slot tid) c.seq
      ((s.putRecord core r).nextSeq core).onThread core slot tid (fun th =>
        { th with trap := th.trap.map (fun t => { t with record := .made r }) })
  | _, _ => s

/-- Whether a matrix operation is an accst of a thread that no flag tracks: its stores count as those of R153 (R231). -/
def MatOp.untracked (m : MatOp) (tid : Nat) : Bool :=
  match m.kind with
  | .accst _ _ _ t => decide (t = tid) && m.flags.any (fun x => decide (x.2 = 15))
  | _ => false

/-- Whether the conditions of R164 hold for a trapped thread: its loads have written, its stores are performed, and what no
flag tracks is over (R231, R280, R298). -/
def State.recordReady (s : State) (core slot uid tid : Nat) : Bool :=
  s.ops.all (fun o => !(decide (o.core = core) && decide (o.slot = slot) && decide (o.uid = uid) && decide (o.tid = tid)) ||
      decide (o.kind = .fenceRel)) &&
    s.pushes.all (fun p => !(decide (p.core = core) && decide (p.slot = slot) && decide (p.uid = uid) &&
      decide (p.tid = tid)) || (p.merged && decide (p.flag ≠ 15))) &&
    s.copies.all (fun o => !(decide (o.core = core) && decide (o.slot = slot) && decide (o.uid = uid) &&
      decide (o.tid = tid)) || decide (o.flag ≠ 15)) &&
    (s.core core).matQ.all (fun m => !(decide (m.slot = slot) && decide (m.uid = uid) && m.untracked tid))

/-- Whether the first of two traps, each with the cycle of its gang's issue, its slot and its tid, makes its record first (R167,
R249): by gang issue age, then thread id; of one cycle and different crews by slot (log 91). -/
def recordBefore (a b : Nat × Nat × Nat) : Bool :=
  decide (a.1 < b.1) || (decide (a.1 = b.1) && (decide (a.2.1 < b.2.1) || (decide (a.2.1 = b.2.1) && decide (a.2.2 < b.2.2))))

/-- The traps of a core whose records are still to be made, with what orders them. -/
def State.dueTraps (s : State) (core : Nat) : List (Nat × Nat × Nat) :=
  ((s.core core).crews.map (fun w => w.2.threads.filterMap (fun t =>
    match t.2.trap with
    | some x => if x.record = .due then some (x.since.getD s.cycle, w.1, t.1) else none
    | none => none))).flatten

/-- Whether no other trap of a core makes its record before that of a thread (R249). -/
def State.recordFirst (s : State) (core slot tid : Nat) (since : Option Nat) : Bool :=
  (s.dueTraps core).all (fun x => !recordBefore x (since.getD s.cycle, slot, tid))

/-- A trap put among others in the order of their records. -/
def insertTrap (x : Nat × Nat × Nat) : List (Nat × Nat × Nat) → List (Nat × Nat × Nat)
  | [] => [x]
  | y :: l => if recordBefore x y then x :: y :: l else y :: insertTrap x l

/-- The traps of a core whose records are still to be made, in their order (R249). -/
def State.dueOrder (s : State) (core : Nat) : List (Nat × Nat × Nat) := (s.dueTraps core).foldl (fun l x => insertTrap x l) []

/-- Whether the record of a thread may be made (R164). -/
def State.mayRecord (s : State) (core slot tid : Nat) : Bool :=
  ((s.crew core slot).map (fun w => s.recordReady core slot w.uid tid)).getD false

/-- Records made in their order, up to the first for which R164 does not hold yet. -/
def State.makeRecords (core : Nat) : List (Nat × Nat × Nat) → State → State
  | [], s => s
  | x :: l, s => if s.mayRecord core x.2.1 x.2.2 then State.makeRecords core l (s.makeRecord core x.2.1 x.2.2 false) else s

/-- TRAP_RECORD_MADE (R248, R249, R390): the record of a thread becomes visible, and with it, in their order, those that follow it and that
R164 holds back no more. -/
def execTrapRecordMade (core slot tid : Nat) (s : State) : Out :=
  match s.crew core slot, s.thread core slot tid with
  | some w, some th =>
    match th.trap with
    | some t =>
      if t.record = .due ∧ s.recordReady core slot w.uid tid = true ∧ s.recordFirst core slot tid t.since = true then
        let after := (s.dueOrder core).filter (fun x => !(decide (x.2.1 = slot) && decide (x.2.2 = tid)))
        .next (State.makeRecords core after (s.makeRecord core slot tid false))
      else .next s
    | none => .next s
  | _, _ => .next s

/-- SPILL_RECORD_RETURN (R249): the oldest spilled record moves back into the queue, once its home is free (R315). -/
def execSpillRecordReturn (core : Nat) (s : State) : Out :=
  let c := s.core core
  if c.ringCount = 0 ∨ 256 ≤ c.queue.length then .next s
  else
    match s.await (lineOf (c.ctl.ringPa c.ringHead)) .dir false with
    | some s1 => .next s1
    | none =>
      match s.readHome core .dir 10 (c.ctl.ringPa c.ringHead) 32 with
      | (s1, v, _) => .next (s1.onCore core (fun c =>
          { c with queue := c.queue ++ [recOf v], ringHead := (c.ringHead + 1) % max c.ctl.qspilln.toNat 1,
                   ringCount := c.ringCount - 1 }))

/-- HELD_TRAP_RECORD (R249): the record of the first held trap is made once there is room. -/
def execHeldTrapRecord (core : Nat) (s : State) : Out :=
  match (s.core core).held with
  | [] => .next s
  | (slot, tid) :: rest =>
    if (s.core core).room = .none then .next s
    else .next ((s.makeRecord core slot tid true).onCore core (fun c => { c with held := rest }))

/-- The 32 bytes of a place of a core's ring, a write of them that still waits for its home included. -/
def State.ringRecord (s : State) (pa : Nat) : Nat :=
  s.duties.foldl (fun v d =>
    match d with
    | .put _ _ a _ x => if a = pa then x else v
    | _ => v) (s.peekNat pa 32)

/-- The records of a crew, or of one thread, taken out of the queue, the ring and the held traps. -/
def State.dropRecords (s : State) (core : Nat) (mine : Nat → Nat → Bool) : State :=
  let c := s.core core
  let ring := (List.range c.ringCount).map (fun k => recOf (s.ringRecord (c.ctl.ringPa (c.ringHead + k))))
  let stay := ring.filter (fun r => !mine (indexSlot r.index) (indexTid r.index))
  let s1 := s.onCore core (fun c => { c with
    queue := c.queue.filter (fun r => !mine (indexSlot r.index) (indexTid r.index))
    held := c.held.filter (fun x => !mine x.1 x.2) })
  if stay.length = ring.length then s1
  else
    let s2 := s1.onCore core (fun c => { c with ringCount := stay.length })
    (stay.foldl (fun (x : State × Nat) r =>
      (x.1.putLine core .dir (c.ctl.ringPa (c.ringHead + x.2)) 32 (r.bytes 0), x.2 + 1)) (s2, 0)).1

/-! ### Boundaries (R168, R186) -/

/-- Whether a thread stands between two instructions, outside any hold window and mcall (R186). A thread whose `waitf` has issued and whose
flags are not yet idle stands so too (DESIGN CHOICE, log 116). -/
def Thread.atBoundary (th : Thread) (s : State) : Bool := th.free s && th.win.isNone && th.mac.isNone

/-- DEFERRED_MACHINE_TRAP (R169): taken at the boundary, with the load's PC; a WATCHDOG that is due there stays so (R168). A
thread that has issued exit has no boundary left: it retires without the trap (log 93). -/
def execDeferredMachineTrap (core slot tid : Nat) (s : State) : Out :=
  match s.thread core slot tid with
  | none => .next s
  | some th =>
    match th.deferred with
    | [] => .next s
    | d :: rest =>
      if th.atBoundary s then
        .next (s.onThread core slot tid (fun th =>
          ({ th with deferred := rest, wdDue := s.watchdogDue core th }).trapWith
            ⟨causeMachine, d.detail.toNat, d.fault.toNat⟩ d.pc th.pcOf th.lastIssue))
      else .next s

/-- WATCHDOG_EXPIRY (R263). -/
def execWatchdogExpiry (core slot tid : Nat) (s : State) : Out :=
  match s.thread core slot tid with
  | none => .next s
  | some th =>
    if th.atBoundary s && s.watchdogDue core th && th.deferred.isEmpty then
      .next (s.onThread core slot tid (fun th => th.takeBoundary ⟨causeWatchdog, th.wdcount % 2 ^ 32, 0⟩))
    else .next s

/-- A thread of a crew for the STEP trap of a cycle (R33, R262): the instruction completes, a waitf with its flags (R188). -/
def State.stepThread (s : State) (core slot tid : Nat) : State :=
  match s.thread core slot tid with
  | none => s
  | some th =>
    if th.stepDue && th.atBoundary s && th.idleAll th.waitMask.toNat then
      let s1 := s.onThread core slot tid (fun th => th.takeBoundary ⟨causeStep, 0, 0⟩)
      if (s.core core).ctl.fot then s1.onCrew core slot (fun w => if w.freeze = .none then { w with freeze := .wanted } else w)
      else s1
    else s

/-! ### Pre-emption (R256, R257) -/

/-- The detail word of a PREEMPT stop (R256). -/
def preemptDetail (grace : Bool) (cycles : Nat) : Nat := b2n grace * 2 ^ 31 + min (cycles / 1024) 0xFFFF

/-- A thread of a crew that is asked to stop, at a live point or after the grace (R256). One that stands at a live point when the grace
is over stops as at a live point (DESIGN CHOICE, log 40). -/
def State.preemptThread (s : State) (core slot tid : Nat) : State :=
  match s.crew core slot with
  | none => s
  | some w =>
    match w.preempt, w.threads.find tid with
    | some t, some th =>
      let next := (s.peekInstr (s.ctx core slot w 1 tid) th)
      let isLive := match next with
        | some (.live _ _) => true
        | some (.livescratch _ _) => true
        | _ => false
      let live := ((th.live.map (fun r => r.active)).getD false) && !isLive
      if th.atBoundary s && (live || th.stopDue) then
        s.onThread core slot tid (fun th =>
          let x := th.takeBoundary ⟨causePreempt, preemptDetail (!live) (s.cycle - t), 0⟩
          { x with live := if live then x.live else none, stopDue := false })
      else s
    | _, _ => s

/-- PREEMPT_GRACE_EXPIRY (R256): 20,000 cycles after the request every thread that has not stopped stops at its next
boundary. -/
def execPreemptGraceExpiry (core slot : Nat) (s : State) : Out :=
  .next (s.onCrew core slot (fun w =>
    match w.preempt with
    | some t =>
      if t + 20000 ≤ s.cycle then
        { w with threads := w.threads.mapVal (fun _ th =>
            match th.life with
            | .ready => { th with stopDue := true }
            | .issuing _ _ _ => { th with stopDue := true }
            | .frozen none => { th with stopDue := true }
            | _ => th) }
      else w
    | none => w))

/-- Whether a thread counts as stopped for a save (R257). -/
def Thread.stopped (th : Thread) : Bool :=
  match th.life with
  | .trapped => true
  | .parked _ => true
  | .exited => true
  | .issuing _ _ _ => true
  | _ => false

/-- Whether a crew may be saved or moved (R257, R298). -/
def State.saveReady (s : State) (core : Nat) (w : Crew) : Bool :=
  w.threads.all (fun t => t.2.stopped && t.2.idleAll 4095) && s.copies.all (fun o => decide (o.uid ≠ w.uid)) &&
    !(s.core core).matQ.any (fun m => decide (m.uid = w.uid)) && !(s.core core).matWait.any (fun m => decide (m.uid = w.uid))

/-- CREW_READY_TO_SAVE (R257). -/
def execCrewReadyToSave (core slot : Nat) (s : State) : Out :=
  match s.crew core slot with
  | none => .next s
  | some w =>
    if w.preempt.isSome && s.saveReady core w then
      .next (s.onCore core (fun c => { c with ctl := { c.ctl with pready := wordBit c.ctl.pready slot true } }))
    else .next s

/-- A request withdrawn from its core's grant queue (R179). -/
def State.withdraw (s : State) (core slot : Nat) : State :=
  s.onCore core (fun c => { c with grantQ := c.grantQ.filter (fun k => k != slot) })

/-- A pre-emption requested (R256): the crew's request leaves the grant queue. -/
def State.askPreempt (s : State) (core slot : Nat) : State :=
  match s.crew core slot with
  | none => s
  | some w =>
    if w.preempt.isSome then s
    else (s.onCrew core slot (fun w => { w with preempt := some s.cycle })).withdraw core slot

/-- The bindings to threads that leave the Trapped or Frozen state end (R247). -/
def State.unbind (s : State) (core : Nat) (gone : Nat → Nat → Bool) : State :=
  let keep (w : Word) : Word :=
    if w ≠ 0xFFFFFFFF#32 ∧ indexCore w = core ∧ gone (indexSlot w) (indexTid w) = true then 0xFFFFFFFF#32 else w
  s.onCore core (fun c => { c with
    lane := { c.lane with ubind := keep c.lane.ubind }
    crews := c.crews.mapVal (fun _ w => { w with threads := w.threads.mapVal (fun _ t => { t with ubind := keep t.ubind }) }) })

/-- A thread that a cancelled pre-emption had stopped goes on (R257). -/
def Thread.unstop (th : Thread) : Thread :=
  match th.trap with
  | some t => { if t.cause = causePreempt then th.resume t.rpc else th with stopDue := false }
  | none => { th with stopDue := false }

/-- A pre-emption cancelled (R257): the request that it withdrew is appended again, unless the crew has made one since (log 48). -/
def State.cancelPreempt (s : State) (core slot : Nat) : State :=
  match s.crew core slot with
  | none => s
  | some w =>
    if w.preempt.isNone then s
    else
      let preempted (k t : Nat) : Bool := decide (k = slot) &&
        (((w.threads.find t).bind (fun x => x.trap)).map (fun x => decide (x.cause = causePreempt))).getD false
      let s1 := (s.unbind core preempted).onCrew core slot (fun w => { w with preempt := none, threads := w.threads.mapVal (fun _ th => th.unstop) })
      s1.onCore core (fun c => { c with
        ctl := { c.ctl with pready := wordBit c.ctl.pready slot false }
        grantQ := if w.request.isSome && !c.grantQ.contains slot then c.grantQ ++ [slot] else c.grantQ })

/-- The effect of a preempt word from an issuer on `core` (R256). -/
def State.preemptWord (s : State) (core : Nat) (v : Word) : State :=
  let id := bits v.toNat 13 0
  let k := id / 32
  let slot := id % 32
  if bits v.toNat 30 14 ≠ 0 ∨ Config.cores ≤ k then s
  else if s.isleOfCore k ≠ s.isleOfCore core then s
  else if bit v.toNat 31 then s.cancelPreempt k slot
  else s.askPreempt k slot

/-! ### Slices and freezes (R261, R262) -/

/-- SLICE_EXPIRY (R261): the bit is set and the counter restarts; it waits for a thread that trapped in the same cycle, and
for a freeze. -/
def execSliceExpiry (core slot : Nat) (s : State) : Out :=
  let limit := (s.core core).ctl.slice.toNat
  match s.crew core slot with
  | none => .next s
  | some w =>
    if w.super || w.isFrozen then .next s
    else
      let waits := w.threads.any (fun t => ((t.2.trap.map (fun x => decide (x.mark = 2))).getD false))
      let fresh := w.threads.any (fun t => ((t.2.trap.map (fun x => decide (x.mark = 0))).getD false))
      let expire : State := (s.onCrew core slot (fun w => { w with slice := 0, sliceDue := false })).onCore core (fun c =>
        { c with ctl := { c.ctl with sliceexp := wordBit c.ctl.sliceexp slot true } })
      if w.sliceDue then .next (if waits then s else expire)
      else if limit = 0 ∨ w.slice < limit then .next s
      else if fresh then
        .next (s.onCrew core slot (fun w => { w with
          sliceDue := true
          threads := w.threads.mapVal (fun _ t =>
            { t with trap := t.trap.map (fun x => if x.mark = 0 then { x with mark := 2 } else x) }) }))
      else .next expire

/-- A thread of a crew that is being frozen (R262): it stops at its boundary, and a parked one at once (R37). -/
def Thread.freezeAt (th : Thread) (s : State) : Thread :=
  match th.life with
  | .parked p => { th with life := .frozen (some p) }
  | .ready => if th.atBoundary s then { th with life := .frozen none } else th
  | _ => th

/-- DEBUG_FREEZE_COMPLETE (R262). -/
def execDebugFreezeComplete (core slot : Nat) (s : State) : Out :=
  match s.crew core slot with
  | none => .next s
  | some w =>
    if w.freeze = .wanted ∧ w.isFrozen = true then
      .next (((s.onCrew core slot (fun w => { w with freeze := .done })).onCore core (fun c =>
        { c with ctl := { c.ctl with dbgstat := wordBit c.ctl.dbgstat slot true } })).raisePend core 7)
    else .next s

/-- A thread of a crew whose freeze is released (R37, R262): it returns to the state it left; a thread of a stopping task
retires (R380). -/
def Thread.unfreeze (th : Thread) (stopping : Bool) : Thread :=
  match th.life with
  | .frozen p =>
    if stopping && decide (th.guard = 0) then th.retire
    else
      match p with
      | some q => { th with life := .parked q }
      | none => { th with life := .ready }
  | _ => th

/-- A freeze released (R262). -/
def State.releaseFreeze (s : State) (core slot : Nat) : State :=
  match s.crew core slot with
  | none => s
  | some w =>
    let stop := s.stoppingCrew w
    let s0 := if stop then (w.threads.filter (fun t => decide (t.2.guard = 0))).foldl
        (fun (u : State) t => u.unlinkPark core slot t.1) s else s
    let still (k t : Nat) : Bool := decide (k = slot) && !((w.threads.find t).map Thread.isTrapped).getD false
    ((s0.unbind core still).onCrew core slot (fun w => { w with
      freeze := .none, threads := w.threads.mapVal (fun _ th => th.unfreeze stop) })).onCore core (fun c =>
        { c with ctl := { c.ctl with dbgstat := wordBit c.ctl.dbgstat slot false } })

/-- ctl.dbgctl written (R262). -/
def State.writeDbg (s : State) (core : Nat) (v : Word) : State :=
  let id := bits v.toNat 13 0
  let s1 := s.onCore core (fun c => { c with ctl := { c.ctl with fot := bit v.toNat 29, dbgCrew := id } })
  if id / 32 ≠ core then s1
  else if bit v.toNat 30 then s1.releaseFreeze core (id % 32)
  else if bit v.toNat 31 then s1.onCrew core (id % 32) (fun w => if w.freeze = .none then { w with freeze := .wanted } else w)
  else s1

/-! ### Retirement (R36, R145) -/

/-- Whether every operation of a thread is over that its exit waits for (R145, R165, R280, R289). -/
def State.quietThread (s : State) (core slot uid tid : Nat) : Bool :=
  s.ops.all (fun o => !(decide (o.core = core) && decide (o.slot = slot) && decide (o.uid = uid) && decide (o.tid = tid))) &&
    s.pushes.all (fun o => !(decide (o.core = core) && decide (o.slot = slot) && decide (o.uid = uid) && decide (o.tid = tid))) &&
    s.copies.all (fun o => !(decide (o.core = core) && decide (o.slot = slot) && decide (o.uid = uid) && decide (o.tid = tid))) &&
    ((s.core core).matQ ++ (s.core core).matWait).all (fun m => !(decide (m.slot = slot) && decide (m.uid = uid) &&
      m.flags.any (fun x => decide (x.1 = tid))))

/-- EXIT_RETIRE (R145): a thread that leaves has exited; with its crew's last thread the crew ends. -/
def execExitRetire (core slot tid : Nat) (s : State) : Out :=
  match s.crew core slot, s.thread core slot tid with
  | some w, some th =>
    if th.leaving && th.idleAll 4095 && s.quietThread core slot w.uid tid then
      .next ((s.onThread core slot tid (fun th => { th with life := .exited, leaving := false, rsv := none })).reapCrew
        core slot)
    else if th.life = .exited then .next (s.reapCrew core slot)
    else .next s
  | _, _ => .next s

/-- The end of a crew by the kernel (R252 action 2): every thread exits and its records go; the crew's request is
withdrawn. -/
def State.killCrew (s : State) (core slot : Nat) : State :=
  match s.crew core slot with
  | none => s
  | some w =>
    let s0 := (FMap.keys w.threads).foldl (fun (u : State) t => u.unlinkPark core slot t) s
    let s1 := ((s0.dropRecords core (fun k _ => decide (k = slot))).withdraw core slot).unbind core (fun k _ => decide (k = slot))
    (s1.onCrew core slot (fun w => { w with
      request := none
      threads := w.threads.mapVal (fun _ th => { th.cleared with life := .exited, trap := none, leaving := false, rsv := none }) })).reapCrew
        core slot

end Sys2Proof.Machine
end

