-- ==== Sys2Proof/Machine/Supervise.lean ====
section
/-! DEFINITION. The beacon lane's interrupts (R240 to R244), the control registers (R245 to R247), qpop, kgo, qret, sys
(R250 to R253), mload (R254) and preempt (R256). -/

namespace Sys2Proof.Machine

/-! ### Interrupts (R242) -/

/-- ctl.ipend of a core (R242). -/
def Core.ipend (c : Core) : Nat :=
  let e := c.lane.ipend.toNat
  b2n (bit e 0) + b2n (decide (c.ctl.thresh ≤ c.queue.length)) * 2 + b2n (bit e 2) * 4 + b2n (decide (c.ctl.kdone ≠ 0#32)) * 8 +
    b2n (decide (c.ctl.pready ≠ 0#32)) * 16 + b2n (decide (c.ctl.sliceexp ≠ 0#32)) * 32 +
    b2n (c.lane.ipivec.any (fun x => decide (x.2 ≠ 0#64))) * 64 + b2n (bit e 7) * 128 + b2n (bit e 8) * 256 +
    b2n (bit e 9) * 512

/-- The pending enabled interrupts of a core. -/
def Core.wanted (c : Core) : Nat := c.ipend &&& c.lane.ienable.toNat

/-- The lowest bit set below 64. -/
def lowBit (n : Nat) : Nat := ((List.range 64).find? (fun k => bit n k)).getD 0

/-- The timer level of a core (R242). -/
def State.setTimer (s : State) (core : Nat) : State :=
  s.onLane core (fun l => { l with
    ipend := BitVec.ofNat 64 (putBit l.ipend.toNat 0 (decide (l.timecmp.toNat ≤ s.coreCycle core))) })

/-- TIMER_COMPARE (R242). -/
def execTimerCompare (core : Nat) (s : State) : Out := .next (s.setTimer core)

/-- Whether an interrupt is taken at a beacon boundary of a core (R242). -/
def State.interruptDue (s : State) (core : Nat) : Bool :=
  let l := (s.core core).lane
  decide (l.mode = .s) && !l.exl && l.ie && decide ((s.core core).wanted ≠ 0)

/-- INTERRUPT_ENTRY (R240, R242): the lowest pending enabled interrupt is taken at a beacon boundary; an ipi acquires at
package scope (R244), and a device interrupt too (R415, R416). An interrupt has no fault address and no detail: both registers take 0
(DESIGN CHOICE, log 113). -/
def execInterruptEntry (core : Nat) (s : State) : Out :=
  let c := s.core core
  let l := c.lane
  let open' := match l.wait with
    | .none => true
    | .wfi => true
    | _ => false
  if s.interruptDue core && open' then
    let n := lowBit c.wanted
    let s1 := if n = 6 ∨ n = 8 then s.dropLeased (clusterOf core) else s
    .next (s1.onLane core (fun l => { l.enterS l.pcOf (0x40 + n) 0 0 with wait := .none }))
  else .next s

/-- The segments of a lane that enters the booted image (R411, R412; log 8): the code segment begins at its load address. -/
def State.imageSegs (s : State) : List (BitVec 128) :=
  setAt Lane.resetSegs 5 (forceSeg 5 (mkSeg false true false true 0xFFFFFFFFFFFF s.board.imageBase))

/-- WFI_WAKE (R243): the wfi ends; one of the ROM's secondary path goes on to the word in the core's mailbox (R411). -/
def execWfiWake (core : Nat) (s : State) : Out :=
  let c := s.core core
  if c.wanted = 0 then .next s
  else
    match c.lane.wait with
    | .wfi => .next (s.onLane core (fun l => { l with wait := .none }))
    | .mailbox => .next (s.onLane core (fun l =>
        { l with wait := .none, pc := FMap.get 0#32 s.board.mailbox core, segs := s.imageSegs }))
    | _ => .next s

/-- WFI (R243). -/
def execWfi (s : State) : Out :=
  laneOp .wfi (fun core _ s => .next (s.onLane core (fun l => { l with wait := .wfi }), .next)) s

/-- ERET (R241). -/
def execEret (s : State) : Out :=
  laneOp .eret (fun core l s =>
    match l.eret with
    | some x => .next (s.onLane core (fun _ => { x with bind := none }), .stay)
    | none => .next (s, .exc ⟨causePriv, wordOf .eret, 0⟩)) s

/-- SYS (R253, R240): SYS for a thread; entry of M mode for a lane. -/
def execSys (n : BitVec 9) (s : State) : Out :=
  bothOp (.sys n) noTrapS (fun _ s => .next (s, .trap ⟨causeSys, n.toNat, 0⟩))
    (fun core _ s => .next (s.onLane core (fun l => l.enterM (l.pc + 1) causeSys), .stay)) s

/-- An interprocessor interrupt delivered (R244). -/
def State.sendIpi (s : State) (target vec : Nat) : State :=
  s.onLane target (fun l =>
    let v := BitVec.ofNat 64 (putBit (FMap.get 0#64 l.ipivec (vec / 64)).toNat (vec % 64) true)
    { l with ipivec := l.ipivec.put (vec / 64) v })

/-- IPI (R244). A core that belongs to no isle is in no other isle (log 83). -/
def execIpi (a : Opnd) (vec : BitVec 9) (s : State) : Out :=
  laneOp (.ipi a vec) (fun core l s =>
    let t := (l.readW core (s.coreCycle core) (s.core core).pts a).toNat
    if Config.cores ≤ t ∨ (s.isleOfCore t ≠ none ∧ s.isleOfCore t ≠ s.isleOfCore core) then
      .next (s, .exc ⟨causePriv, wordOf (.ipi a vec), 0⟩)
    else .next (s.sendIpi t vec.toNat, .next)) s

/-! ### Control registers (R245 to R247) -/

/-- Who may reach a control register. -/
inductive CtlWho where
  | any | super | lane | laneM
deriving DecidableEq, Repr

/-- Who may reach register `n`; nothing where the map assigns no register (R246). -/
def ctlWho (n : Nat) : Option CtlWho :=
  if n ≤ 4 then some .any
  else if 0x40 ≤ n ∧ n ≤ 0x4E then some .super
  else if 0x80 ≤ n ∧ n ≤ 0x90 then some .lane
  else if 0x91 ≤ n ∧ n ≤ 0x94 then some .laneM
  else if 0x100 ≤ n ∧ n ≤ 0x17F then some .super
  else if 0x180 ≤ n ∧ n ≤ 0x1EB then some .super
  else none

/-- The trap of a thread on register `n` (R245). -/
def ctlPre (i : Instr) (n : Nat) (_ : State) (c : Ctx) (_ : Thread) : Option Raise :=
  match ctlWho n with
  | none => some ⟨causeIllegal, wordOf i, 0⟩
  | some .any => none
  | some .super => if c.super then none else some ⟨causePriv, wordOf i, 0⟩
  | some _ => some ⟨causePriv, wordOf i, 0⟩

/-- The exception of a lane on register `n` (R245). -/
def ctlLane (i : Instr) (n : Nat) (l : Lane) : Option Raise :=
  match ctlWho n with
  | none => some ⟨causeIllegal, wordOf i, 0⟩
  | some .laneM => if l.mode = .m then none else some ⟨causePriv, wordOf i, 0⟩
  | some _ => none

/-- ctl.bar(b) (R189). -/
def Barrier.word (x : Barrier) : DWord :=
  BitVec.ofNat 64 (x.gen.toNat * 2 ^ 48 + x.expected % 2 ^ 12 * 2 ^ 32 + b2n x.armed * 2 ^ 12 + x.arrived % 2 ^ 12)

/-- ctl.coreinfo (R246). -/
def State.coreInfo (s : State) (core : Nat) : DWord :=
  BitVec.ofNat 64 (s.isleNo core * 2 ^ 24 + dieOfCore core * 2 ^ 23 + core)

/-- Core registers 0x040 to 0x04E as read (R246). -/
def State.ctlCore (s : State) (core n : Nat) : DWord :=
  let c := s.core core
  let q := s.cluster (clusterOf core)
  match n with
  | 0x40 => BitVec.setWidth 64 c.ctl.wdlimit
  | 0x41 => BitVec.ofNat 64 (q.refused * 2 ^ 16 + q.quota)
  | 0x42 => BitVec.setWidth 64 (s.isle (s.isleNo core)).redtimeout
  | 0x43 => BitVec.ofNat 64 (b2n c.ctl.dedup * 2 ^ 31 + c.ctl.thresh)
  | 0x44 => BitVec.ofNat 64 (c.ringCount * 2 ^ 32 + b2n c.ctl.ovf * 2 ^ 31 + c.held.length % 512 * 2 ^ 16 + c.queue.length)
  | 0x45 => c.ctl.qspill
  | 0x46 => BitVec.setWidth 64 c.ctl.qspilln
  | 0x47 => BitVec.ofNat 64 c.ctl.qbatch
  | 0x48 => BitVec.setWidth 64 c.ctl.kstack
  | 0x49 => BitVec.setWidth 64 c.ctl.slice
  | 0x4A => BitVec.setWidth 64 c.ctl.sliceexp
  | 0x4B => BitVec.setWidth 64 c.ctl.pready
  | 0x4C => BitVec.setWidth 64 c.ctl.kdone
  | 0x4D => BitVec.ofNat 64 (b2n c.ctl.fot * 2 ^ 29 + c.ctl.dbgCrew)
  | _ => BitVec.setWidth 64 c.ctl.dbgstat

/-- Beacon registers 0x080 to 0x094 as read (R239, R246). -/
def Core.ctlLane (c : Core) (n : Nat) : DWord :=
  let l := c.lane
  match n with
  | 0x80 => l.bstat
  | 0x81 => l.bepc
  | 0x82 => l.bcause
  | 0x83 => l.bfault
  | 0x84 => l.bdetail
  | 0x85 => l.bvec
  | 0x86 => BitVec.ofNat 64 c.ipend
  | 0x87 => l.ienable
  | 0x88 => l.timecmp
  | 0x91 => l.mepc
  | 0x92 => l.mcause
  | 0x93 => l.mstat
  | 0x94 => l.mvec
  | k => FMap.get 0#64 l.ipivec (k - 0x89)

/-- Whether a thread may be bound (R247). -/
def Thread.bindable (th : Thread) : Bool :=
  match th.life with
  | .trapped => true
  | .frozen _ => true
  | _ => false

/-- The thread that a binding names: slot, tid and thread (R247). -/
def State.bound (s : State) (core : Nat) (w : Word) : Option (Nat × Nat × Thread) :=
  if bits w.toNat 31 24 ≠ 0 ∨ indexCore w ≠ core then none
  else
    match s.thread core (indexSlot w) (indexTid w) with
    | some th => if th.bindable then some (indexSlot w, indexTid w, th) else none
    | none => none

/-- The window registers as read through a binding (R247). -/
def State.ctlBound (s : State) (core : Nat) (u : Word) (n : Nat) : DWord :=
  match s.bound core u with
  | none => 0#64
  | some (slot, tid, th) =>
    let super := ((s.crew core slot).map (fun w => w.super)).getD false
    let rec' : Nat := match th.trap with
      | some t =>
        match t.record with
        | .made r => r.bytes 0
        | _ => (th.record super (indexWord core slot tid) 0#32).bytes 0
      | none => 0
    if n < 0x1E0 then BitVec.setWidth 64 (th.reg (n - 0x180))
    else
      match n with
      | 0x1E0 => BitVec.setWidth 64 th.sp
      | 0x1E1 => BitVec.setWidth 64 (match th.trap with | some t => t.rpc | none => th.pcOf)
      | 0x1E2 => BitVec.setWidth 64 (th.status super)
      | k => BitVec.ofNat 64 (bits rec' (32 * (k - 0x1E4) + 31) (32 * (k - 0x1E4)))

/-- Whether a thread, parked or frozen in its park, has its instruction behind it: that completes as the park ends, with the STEP trap
that is then due (R33). -/
def Thread.waitsOver (th : Thread) : Bool :=
  match th.parkOf with
  | some (.barrier _ _) => true
  | some (.rejoin _ _) => true
  | some .grant => true
  | some (.batch _) => true
  | _ => false

/-- A window register written through a binding (R247). -/
def State.putBound (s : State) (core : Nat) (u : Word) (n : Nat) (v : Word) : State :=
  match s.bound core u with
  | none => s
  | some (slot, tid, th) =>
    let ok (r : Nat) : Bool := match s.crew core slot with
      | some w => (s.ctx core slot w 1 tid).allocated r
      | none => false
    let put (f : Thread → Thread) : State := s.onThread core slot tid f
    if n < 0x1E0 then (if ok (n - 0x180) then put (fun t => t.setReg (n - 0x180) v) else s)
    else
      match n with
      | 0x1E0 => put (fun t => t.setReg 109 v)
      | 0x1E1 => put (fun t => match th.trap with
          | some x => { t with trap := some { x with rpc := v } }
          | none => { t with pc := v, bind := none })
      | 0x1E2 => put (fun t => { t with step := bit v.toNat 18, stepDue := if t.waitsOver then bit v.toNat 18 else t.stepDue })
      | _ => s

/-- What a write to ctl.ubind leaves (R247). -/
def State.bindWord (s : State) (core : Nat) (v : Word) : Word :=
  if (s.bound core v).isSome then v else 0xFFFFFFFF#32

/-- A control register as a thread reads it (R245, R246). -/
def State.ctlThread (s : State) (c : Ctx) (w : Crew) (th : Thread) (n : Nat) : DWord :=
  match n with
  | 0 => BitVec.ofNat 64 w.patience
  | 1 => BitVec.setWidth 64 th.pushref
  | 2 => BitVec.ofNat 64 (s.coreCycle c.core)
  | 3 => BitVec.ofNat 64 th.wdcount
  | 4 => s.coreInfo c.core
  | 0x1E3 => BitVec.setWidth 64 th.ubind
  | n =>
    if n < 0x80 then s.ctlCore c.core n
    else if n < 0x180 then (s.barrier c.core (n - 0x100)).word
    else s.ctlBound c.core th.ubind n

/-- A control register as a beacon lane reads it; those of a crew or thread are open (log 24). -/
def State.ctlOfLane (s : State) (core : Nat) (l : Lane) (n : Nat) : DWord :=
  match n with
  | 0 => Config.freeLaneCtl 0
  | 1 => Config.freeLaneCtl 1
  | 2 => BitVec.ofNat 64 (s.coreCycle core)
  | 3 => Config.freeLaneCtl 3
  | 4 => s.coreInfo core
  | 0x1E3 => BitVec.setWidth 64 l.ubind
  | n =>
    if n < 0x80 then s.ctlCore core n
    else if n < 0x100 then (s.core core).ctlLane n
    else if n < 0x180 then (s.barrier core (n - 0x100)).word
    else s.ctlBound core l.ubind n

/-- Core registers written (R246). ctl.wdlimit, ctl.qspilln, ctl.kstack and ctl.slice take the low 32 bits (DESIGN CHOICE, log 114). -/
def State.putCore (s : State) (core n : Nat) (v : DWord) : State :=
  let w := lo32 v
  let ctl (f : CoreCtl → CoreCtl) : State := s.onCore core (fun c => { c with ctl := f c.ctl })
  match n with
  | 0x40 => ctl (fun c => { c with wdlimit := w })
  | 0x41 => s.onCluster (clusterOf core) (fun c =>
      { c with refused := bits v.toNat 31 16, quota := min (bits v.toNat 12 0) 4096 })
  | 0x42 => s.onIsle (s.isleNo core) (fun x => { x with redtimeout := if w.toNat < 4096 then 4096#32 else w })
  | 0x43 => ctl (fun c => { c with
      dedup := bit v.toNat 31
      thresh := if bits v.toNat 8 0 = 0 ∨ 256 < bits v.toNat 8 0 then 256 else bits v.toNat 8 0 })
  | 0x44 => ctl (fun c => { c with ovf := c.ovf && !bit v.toNat 31 })
  | 0x45 => ctl (fun c => { c with qspill := v &&& 0x0000FFFFFFFFF000#64 })
  | 0x46 => ctl (fun c => { c with qspilln := w })
  | 0x47 => ctl (fun c => { c with qbatch := if v = 0#64 then 1 else min v.toNat 256 })
  | 0x48 => ctl (fun c => { c with kstack := w &&& 0xFFFFFFF0#32 })
  | 0x49 => ctl (fun c => { c with slice := w })
  | 0x4A => ctl (fun c => { c with sliceexp := c.sliceexp &&& ~~~w })
  | 0x4C => ctl (fun c => { c with kdone := c.kdone &&& ~~~w })
  | 0x4D => s.writeDbg core w
  | _ => s

/-- Beacon registers written (R239, R242, R246). -/
def State.putLane (s : State) (core n : Nat) (v : DWord) : State :=
  let x := v.toNat
  match n with
  | 0x80 => s.onLane core (fun l =>
      { l with exl := bit x 6, pie := bit x 5, ie := bit x 4, pmode := BitVec.ofNat 2 (bits x 3 2) })
  | 0x81 => s.onLane core (fun l => { l with bepc := v })
  | 0x82 => s.onLane core (fun l => { l with bcause := v })
  | 0x83 => s.onLane core (fun l => { l with bfault := v })
  | 0x84 => s.onLane core (fun l => { l with bdetail := v })
  | 0x85 => s.onLane core (fun l => { l with bvec := v })
  | 0x86 => s.onLane core (fun l => { l with ipend := l.ipend &&& ~~~(v &&& 0x384#64) })
  | 0x87 => s.onLane core (fun l => { l with ienable := v })
  | 0x88 => (s.onLane core (fun l => { l with timecmp := v })).setTimer core
  | 0x91 => s.onLane core (fun l => { l with mepc := v })
  | 0x92 => s.onLane core (fun l => { l with mcause := v })
  | 0x93 => s.onLane core (fun l => { l with mstat := v })
  | 0x94 => s.onLane core (fun l => { l with mvec := v })
  | k => s.onLane core (fun l =>
      let y := FMap.get 0#64 l.ipivec (k - 0x89) &&& ~~~v
      { l with ipivec := FMap.set 0#64 l.ipivec (k - 0x89) y })

/-- A control register written by a thread (R245, R246); registers that are only read ignore it (R7). -/
def State.ctlwThread (s : State) (c : Ctx) (n : Nat) (v : Word) : State :=
  let me (f : Thread → Thread) : State := s.onThread c.core c.slot c.tid f
  match n with
  | 0 => s.onCrew c.core c.slot (fun w => { w with patience := max 64 (v.toNat % 2 ^ 24) })
  | 1 => me (fun t => { t with pushref := v })
  | 2 => s
  | 3 => s
  | 4 => s
  | 0x1E3 => let b := s.bindWord c.core v; me (fun t => { t with ubind := b })
  | n =>
    if n < 0x80 then s.putCore c.core n (BitVec.setWidth 64 v)
    else if n < 0x180 then s
    else
      match s.thread c.core c.slot c.tid with
      | some th => s.putBound c.core th.ubind n v
      | none => s

/-- A control register written by a beacon lane. -/
def State.ctlwLane (s : State) (core : Nat) (l : Lane) (n : Nat) (v : DWord) : State :=
  if n < 5 then s
  else if n = 0x1E3 then let b := s.bindWord core (lo32 v); s.onLane core (fun l => { l with ubind := b })
  else if n < 0x80 then s.putCore core n v
  else if n < 0x100 then s.putLane core n v
  else if n < 0x180 then s
  else s.putBound core l.ubind n (lo32 v)

/-- A write of a control register put off to the end of its cycle (R199, R245). -/
def State.deferCtl (s : State) (x : CtlWrite) : State := { s with ctlWrites := s.ctlWrites ++ [x] }

/-- A write of a control register takes effect (R245): a thread's only where its crew still is. -/
def State.applyCtl (s : State) (x : CtlWrite) : State :=
  match x.thread with
  | none => s.ctlwLane x.core (s.core x.core).lane x.num x.val
  | some (slot, uid, tid) =>
    if 0x40 ≤ x.num ∧ x.num < 0x80 then s.putCore x.core x.num x.val
    else
      match s.crew x.core slot with
      | some w => if w.uid = uid then s.ctlwThread (s.ctx x.core slot w 1 tid) x.num (lo32 x.val) else s
      | none => s

/-- The writes of a cycle take effect, in the order in which they were made (R245). -/
def State.applyCtls (s : State) : State := s.ctlWrites.foldl State.applyCtl { s with ctlWrites := [] }

/-- CTLR (R245). -/
def execCtlr (d : Opnd) (n : BitVec 9) (s : State) : Out :=
  let i := Instr.ctlr d n
  bothOp i (ctlPre i n.toNat)
    (fun c s =>
      match s.thread c.core c.slot c.tid, s.crew c.core c.slot with
      | some th, some w =>
        let v := lo32 (s.ctlThread c w th n.toNat)
        .next (s.onThread c.core c.slot c.tid (fun t => t.result c 4 d.toNat v), .next)
      | _, _ => .next (s, .stall))
    (fun core l s =>
      match ctlLane i n.toNat l with
      | some r => .next (s, .exc r)
      | none =>
        let v := s.ctlOfLane core l n.toNat
        .next (s.onLane core (fun _ => if d.toNat < 32 then l.setB d.toNat v else l.writeW d (lo32 v)), .next)) s

/-- CTLW (R245): the write takes effect at the end of the cycle. -/
def execCtlw (a : Opnd) (n : BitVec 9) (s : State) : Out :=
  let i := Instr.ctlw a n
  bothOp i (ctlPre i n.toNat)
    (fun c s =>
      match s.thread c.core c.slot c.tid with
      | some th => .next (s.deferCtl { core := c.core, thread := some (c.slot, c.uid, c.tid), num := n.toNat,
                                       val := BitVec.setWidth 64 (th.readW c a) }, .next)
      | none => .next (s, .stall))
    (fun core l s =>
      match ctlLane i n.toNat l with
      | some r => .next (s, .exc r)
      | none =>
        let v : DWord := if a.toNat < 32 then l.breg a.toNat
          else BitVec.setWidth 64 (l.readW core (s.coreCycle core) (s.core core).pts a)
        .next (s.deferCtl { core := core, thread := none, num := n.toNat, val := v }, .next)) s

/-! ### Checks of block accesses of the supervisor -/

/-- The parts of a range cut at 128-byte lines: offset from its start and length. -/
def linesOf (va : Nat) : Nat → Nat → List (Nat × Nat)
  | 0, _ => []
  | k + 1, n => if n = 0 then [] else
      let r := min n (128 - va % 128)
      (va, r) :: linesOf (va + r) k (n - r)

/-- The lines of a range of bytes. -/
def rangeLines (va n : Nat) : List (Nat × Nat) := linesOf va (n / 128 + 2) n

/-- A block access of a seat checked (R149): `inside` has been tested by its formed address; alignment `al`; then every
line, in ascending address. The answer is the hits, with the bytes of each. -/
def State.checkLines (s : State) (v : Viewer) (w : Want) : List (Nat × Nat) → Except Raise (List (Hit × Nat))
  | [] => .ok []
  | (a, n) :: l =>
    match s.checkPage v w a with
    | .error r => .error r
    | .ok h =>
      match s.checkLines v w l with
      | .error r => .error r
      | .ok hs => .ok ((h, n) :: hs)

/-- A formed block of `n` bytes checked with an alignment (R149). -/
def State.checkBlock (s : State) (v : Viewer) (w : Want) (f : Formed) (n al : Nat) : Except Raise (List (Hit × Nat)) :=
  if !f.inside then .error ⟨causeSeg, v.detail w false 0, f.fault⟩
  else if f.addr % al ≠ 0 then .error ⟨causeAlign, v.detail w false 0, f.addr⟩
  else s.checkLines v w (rangeLines f.addr n)

/-- The bytes of checked lines read, the first lowest. -/
def State.readHits (core : Nat) : List (Hit × Nat) → State → State × Nat
  | [], s => (s, 0)
  | (h, n) :: l, s =>
    let t := h.page.getD (mPage h.pa)
    match s.readTarget core t h.pa n with
    | (s1, v, _) =>
      match State.readHits core l s1 with
      | (s2, x) => (s2, v + x * 2 ^ (8 * n))

/-- Bytes written to checked lines. -/
def State.writeHits (core : Nat) : List (Hit × Nat) → Nat → State → State
  | [], _, s => s
  | (h, n) :: l, v, s =>
    let t := h.page.getD (mPage h.pa)
    State.writeHits core l (v / 2 ^ (8 * n)) (s.writeTarget core t h.pa n (v % 2 ^ (8 * n)))

/-- The address of checked lines at which a poisoned byte is read (R324). -/
def State.poisonIn (s : State) (l : List (Hit × Nat)) : Option Nat :=
  (l.find? (fun x => decide (x.1.pa < hbmEnd) && s.peekPoison x.1.pa x.2)).map (fun x => x.1.addr)

/-- The trap of a poisoned block read at an address. -/
def Viewer.machine (v : Viewer) (w : Want) (a : Nat) : Raise := ⟨causeMachine, v.detail w false 0, a⟩

/-- The hits that lie in HBM: what lies above it has no home and is performed at its target (R238). -/
def homedHits (l : List (Hit × Nat)) : List (Hit × Nat) := l.filter (fun x => decide (x.1.pa < hbmEnd))

/-- The lines of checked hits with the modes of their pages. -/
def hitLines (l : List (Hit × Nat)) : List (Nat × CMode) :=
  (homedHits l).map (fun x => (lineOf x.1.pa, (x.1.page.getD (mPage x.1.pa)).mode))

/-- Whether the home of one of some checked lines is serving a request, or has no way for it (R308, R315): a block waits for it. -/
def State.hitsBusy (s : State) (l : List (Hit × Nat)) : Bool := (homedHits l).any (fun x => s.busyAt x.1.pa)

/-- The TLB after the lines of a block have been checked (R325). -/
def State.noteHits (s : State) (v : Viewer) (l : List (Hit × Nat)) : State := l.foldl (fun (u : State) x => u.noteHit v x.1) s

/-- A block of a lane's instruction checked under R149; it waits for the homes of its lines (R156, R315). -/
def State.laneBlock (s : State) (core : Nat) (w : Want) (f : Formed) (n al : Nat) (k : List (Hit × Nat) → State → LaneAct) : LaneAct :=
  match s.checkBlock (s.laneViewer core) w f n al with
  | .error r => .next (s, .exc r)
  | .ok hits =>
    match s.awaitLines (hitLines hits) w.wr with
    | some s1 => .next (s1, .stay)
    | none => k hits (s.noteHits (s.laneViewer core) hits)

/-! ### qpop, kgo (R250, R251) -/

/-- The batch fields of a list of records (R250): the lead bit, or the leader's index, where `dedup`. -/
def batchFields (dedup : Bool) (l : List Rec) : List Nat :=
  (List.range l.length).map (fun i =>
    if dedup then
      let page (r : Rec) : Nat := r.fault.toNat / 4096
      let mine := (l[i]?.map page).getD 0
      let j := ((List.range (i + 1)).find? (fun k => decide ((l[k]?.map page).getD 0 = mine))).getD i
      if j = i then 0x100 else j
    else 0)

/-- Whether the crew of a record is Frozen (R262). -/
def State.frozenRec (s : State) (core : Nat) (r : Rec) : Bool :=
  ((s.crew core (indexSlot r.index)).map (fun w => w.isFrozen)).getD false

/-- The records that a qpop takes (R250). -/
def State.popList (s : State) (core cause : Nat) : List Rec :=
  let c := s.core core
  (c.queue.filter (fun r => !s.frozenRec core r && (decide (cause = 0) || decide (r.cause = cause)))).take c.ctl.qbatch

/-- The access of a supervisor instruction; the size field of its detail is 0, as for the block accesses that R170 names (DESIGN CHOICE,
log 104). -/
def sysWant (i : Instr) (seg n : Nat) (wr : Bool) : Want := wantOf i seg n 0 (!wr) wr

/-- QPOP (R250). -/
def execQpop (d a : Opnd) (cause : BitVec 8) (s : State) : Out :=
  let i := Instr.qpop d a cause
  laneOp i (fun core l s =>
    let recs := s.popList core cause.toNat
    let done (t : State) (n : Nat) : LaneAct := .next (t.onLane core (fun l => l.writeW d (BitVec.ofNat 32 n)), .next)
    if recs.isEmpty then done s 0
    else
      let v := s.laneViewer core
      let n := 32 * recs.length
      let w := sysWant i 6 n true
      s.laneBlock core w (formAddr (v.seg 6) 6 n (l.readW core (s.coreCycle core) (s.core core).pts a).toNat 0) n 32 (fun hits s0 =>
        let fields := batchFields ((s.core core).ctl.dedup && decide (cause.toNat = causePage)) recs
        let bytes := (List.zip recs fields).foldr (fun x m => x.1.bytes x.2 + m * 2 ^ 256) 0
        let s1 := State.writeHits core hits bytes s0
        let seqs := recs.map (fun r => r.seq)
        done (s1.onCore core (fun c => { c with queue := c.queue.filter (fun r => !seqs.contains r.seq) })) recs.length)) s

/-- The detail of a TASK trap (R362). -/
def taskDetail (reason : Nat) : Nat := reason * 2 ^ 28

/-- The reason for which a launch descriptor is refused (R251). -/
def badLaunch (x : Nat) : Option Nat :=
  let shape := BitVec.ofNat 32 (x >>> 32)
  let k := bits x 159 128
  if bits x 127 96 ≠ 0 ∨ bits x 255 160 ≠ 0 then some 1
  else if 256 < shScratch shape ∨ 64 < shAcc shape then some 2
  else if k = 0 ∨ 256 < k then some 9
  else none

/-- A kernel crew placed over a batch (R251). The rule gives base and limit of its threads' seg.3 and no permission bits: S, W and Rd are
those of the lane's seg.3, X is clear (DESIGN CHOICE, log 99). -/
def State.launchKernel (s : State) (core : Nat) (l : Lane) (x bytes : Nat) : State × Option Nat :=
  let shape := BitVec.ofNat 32 (x >>> 32)
  let k := bits x 159 128
  let buf := bits x 95 64
  let isle := s.isleNo core
  match s.spadFit (clusterOf core) (shScratch shape), s.accFit core (shAcc shape) with
  | some spad, some acc =>
    if !s.coreFits core isle k (shRegs shape) then (s, none)
    else
      match s.newTaskId isle (dieOfCore core) with
      | (id, s1) =>
        match s1.giveTcb isle with
        | (tcb, s2) =>
          let piece := s2.fresh.1
          let t : Task :=
            { id := id, isle := isle, die := dieOfCore core
              entry := { pc := BitVec.ofNat 32 x, shape := shape, lo := 0, hi := 0, grain := 0, options := 0, argp := 0,
                         cell := 0, decl := 0 }
              cell := none, decl := 0, pos := (s2.domain isle (dieOfCore core)).nextPos, state := .resident, stopping := false,
              pieces := 1, mstat := 0, slots := [], tcb := tcb, overs := [], cluster := clusterOf core, spawner := core,
              joinCore := core, joinUid := 0, parent := 0#32 }
          let s3 := (s2.fresh.2.onDomain isle (dieOfCore core) (fun d =>
            { d with tasks := d.tasks ++ [t], pieces := d.pieces.put piece { task := id, cur := 0, hi := 0, crews := [] } })).mirror id
          let stack := l.segs.getD 3 0#128
          let kst := (s.core core).ctl.kstack.toNat
          let seg6 := l.segs.getD 6 0#128
          let th (n : Nat) : Thread :=
            let segs := [forceSeg 0 (l.segs.getD 0 0#128), mkSeg false false true true (4096 * shScratch shape) (4096 * spad),
              mkSeg false false true true (4096 * shAcc shape) (4096 * acc),
              mkSeg (segS stack) false (segW stack) (segR stack) kst (segBase stack + n * kst),
              l.segs.getD 4 0#128, l.segs.getD 5 0#128, seg6, l.segs.getD 7 0#128]
            let y := newThread (BitVec.ofNat 32 x) (shStep shape) segs
            let va := segBase seg6 + buf + 32 * n
            let rs := ((((y.regs.put 0 (BitVec.ofNat 32 va)).put 1 (BitVec.ofNat 32 (va % 2 ^ 48 / 2 ^ 32))).put 2
              (BitVec.ofNat 32 (buf + 32 * n))).put 3 (BitVec.ofNat 32 n)).put 4 (BitVec.ofNat 32 k)
            { y with regs := rs, ubind := s.bindWord core (recOf (bytes >>> (256 * n))).index }
          s3.addCrew
            { core := core, isle := isle, shape := shape, size := k, super := true, spad := spad, acc := acc,
              accLen := shAcc shape, owner := none, stack := none, task := id, piece := piece, kgo := true }
            ((List.range k).map (fun n => (n, th n)))
  | _, _ => (s, none)

/-- The bytes of a launch buffer (R251): none of a descriptor whose count is out of range (log 96). -/
def launchBytes (x : Nat) : Nat := if bits x 159 128 ≤ 256 then 32 * bits x 159 128 else 0

/-- KGO (R251): descriptor and buffer are read with the checks of R149 before anything in the descriptor is judged (R167, R240). -/
def execKgo (d a : Opnd) (s : State) : Out :=
  let i := Instr.kgo d a
  laneOp i (fun core l s =>
    let v := s.laneViewer core
    let w := sysWant i 6 32 false
    let f := formAddr (v.seg 6) 6 32 (l.readW core (s.coreCycle core) (s.core core).pts a).toNat 0
    s.laneBlock core w f 32 32 (fun hits s0 =>
      match State.readHits core hits s0 with
      | (s1, x) =>
        match s0.poisonIn hits with
        | some a => .next (s, .exc (v.machine w a))
        | none =>
          let n := launchBytes x
          s1.laneBlock core (sysWant i 6 n false) (formAddr (v.seg 6) 6 n (bits x 95 64) 0) n 32 (fun hits2 s2 =>
            match s2.poisonIn hits2, badLaunch x with
            | some a, _ => .next (s, .exc (v.machine w a))
            | none, some n => .next (s, .exc ⟨causeTask, taskDetail n, f.addr⟩)
            | none, none =>
              match State.readHits core hits2 s2 with
              | (s3, bytes) =>
                match s3.launchKernel core l x bytes with
                | (s4, some slot) =>
                  .next (s4.onLane core (fun l => l.writeW d (BitVec.ofNat 32 (crewId core slot))), .next)
                | (_, none) => .next (s3.onLane core (fun l => l.writeW d 0xFFFFFFFF#32), .next)))) s

/-! ### qret (R252) -/

/-- A trapped thread resumed by qret at a PC (R171, R252): its record leaves the queue, its binding ends; a thread of a
stopping task retires instead (R380). -/
def State.resumeThread (s : State) (core slot tid : Nat) (pc : Trap → Word) : State :=
  match s.crew core slot, s.thread core slot tid with
  | some w, some th =>
    match th.trap with
    | none => s
    | some t =>
      let s1 := (s.dropRecords core (fun k n => decide (k = slot) && decide (n = tid))).unbind core
        (fun k n => decide (k = slot) && decide (n = tid))
      let stop := s.stoppingCrew w && decide (th.guard = 0)
      (s1.onThread core slot tid (fun th =>
        let x := th.resume (pc t)
        if stop then x.retire else x)).dropLeased (clusterOf core)
  | _, _ => s

/-- The effect of a qret word (R252). -/
def State.qretWord (s : State) (core : Nat) (v : Word) : State :=
  let slot := indexSlot v
  let tid := indexTid v
  if bits v.toNat 31 26 ≠ 0 ∨ indexCore v ≠ core then s
  else
    match s.thread core slot tid with
    | none => s
    | some th =>
      if !th.isTrapped then s
      else
        let view : Viewer :=
          { core := core, isle := s.isleNo core, user := ((s.crew core slot).map (fun w => !w.super)).getD true, mmode := false,
            segs := th.segs, mac := none, bounds := Bounds.whole }
        match bits v.toNat 25 24 with
        | 0 => s.resumeThread core slot tid (fun t => t.rpc)
        | 1 => s.resumeThread core slot tid (fun t => s.afterPc view 3 t.tpc)
        | 2 => s.killCrew core slot
        | _ => s

/-- QRET (R252, R336, R348): a release at die scope, it waits for the thread's earlier accesses and the pushes that .die covers. -/
def execQret (a : Opnd) (s : State) : Out :=
  bothOp (.qret a) noTrapS
    (fun c s =>
      match s.thread c.core c.slot c.tid with
      | some th => if s.released c 3 then .next (s.qretWord c.core (th.readW c a), .next) else .next (s, .stall)
      | none => .next (s, .stall))
    (fun core l s => .next (s.qretWord core (l.readW core (s.coreCycle core) (s.core core).pts a), .next)) s

/-- PREEMPT (R256). -/
def execPreempt (a : Opnd) (s : State) : Out :=
  bothOp (.preempt a) noTrapS
    (fun c s =>
      match s.thread c.core c.slot c.tid with
      | some th => .next (s.preemptWord c.core (th.readW c a), .next)
      | none => .next (s, .stall))
    (fun core l s => .next (s.preemptWord core (l.readW core (s.coreCycle core) (s.core core).pts a), .next)) s

/-! ### mload (R57, R254) -/

/-- Stand-ins for the parameters of a word: operand codes with which it decodes, and moved by 32 (R58). -/
def standIns : List (Nat × Nat) := [(0, 16), (1, 16), (0, 17), (1, 17), (3, 16), (0, 19), (3, 19), (3, 17), (1, 19)]

/-- A word of a microprogram decoded with two sets of stand-ins for P0 and P1; `pq` the first set. -/
def decodeMicro (w : Word) : Option (Instr × Instr × Nat × Nat) :=
  standIns.findSome? (fun pq =>
    match decodeThread (substitute w (BitVec.ofNat 7 pq.1) (BitVec.ofNat 7 pq.2)),
        decodeThread (substitute w (BitVec.ofNat 7 (pq.1 + 32)) (BitVec.ofNat 7 (pq.2 + 32))) with
    | some i, some j => some (i, j, pq.1, pq.2)
    | _, _ => none)

/-- Whether an instruction may stand in a microprogram (R57). -/
def microOk (i : Instr) : Bool :=
  match clsOf i with
  | 0 => true
  | 1 => true
  | 2 => true
  | 3 => decide (opOf i ≤ 5)
  | _ =>
    match i with
    | .imm _ => true
    | .mod _ _ _ _ => true
    | _ => false

/-- Whether an instruction is a st or stx. -/
def microStore (i : Instr) : Bool := decide (clsOf i = 3) && (decide (opOf i = 1) || decide (opOf i = 3))

/-- The registers of an operand of a microprogram: parameters count as registers of their own (R57), from 200 up. -/
def microRegs (u v : OpndUse) (p : Nat) : List Nat :=
  let n := u.code.toNat
  let own := if n = 109 then [109] else useRegs u
  if u.code = v.code then own
  else if n < 16 then own.map (fun r => 200 + (r - p)) else own.map (fun r => 210 + (r - p))

/-- Whether the nw bit of an instruction's word is set (R38, R39). -/
def nwOf (i : Instr) : Bool :=
  match clsOf i with
  | 0 => bit (encode i).toNat 21
  | 1 => bit (encode i).toNat 21
  | 2 => bit (encode i).toNat 24
  | _ => false

/-- What a word of a microprogram reads, or writes: with nw it writes no register (R39). -/
def microUses (x : Instr × Instr × Nat × Nat) (writes : Bool) : List Nat :=
  ((List.zip x.1.opnds x.2.1.opnds).map (fun uv =>
    if (if writes then uv.1.writes && !nwOf x.1 else uv.1.reads) then
      microRegs uv.1 uv.2 (if uv.1.code.toNat < 16 then x.2.2.1 else x.2.2.2)
    else [])).flatten

/-- Whether words meet R57, `seen` being the registers read so far. An imm or mod hint as the last word is accepted, and binds to nothing
at the macro's end (DESIGN CHOICE, log 101). -/
def microWords : List Word → List Nat → Bool
  | [], _ => true
  | w :: l, seen =>
    match decodeMicro w with
    | none => false
    | some x =>
      microOk x.1 && (!microStore x.1 || l.isEmpty) && (microUses x true).all (fun r => !seen.contains r) &&
        microWords l (microUses x false ++ seen)

/-- Whether an mload is rejected (R254). -/
def State.badMicro (s : State) (core : Nat) (entry : Word) (header : Nat) (words : List Word) : Bool :=
  let len := bits header 17 12
  let start := bits header 11 0
  decide (bits header 31 18 ≠ 0) || decide (127 < entry.toNat) || decide (32 < len) || (decide (len = 0) && decide (start ≠ 0)) ||
    decide (4096 < start + len) ||
    (s.core core).entries.any (fun e => decide (e.1 ≠ entry.toNat) && decide (e.2.2 ≠ 0) && overlap e.2.1 e.2.2 start len) ||
    !microWords words []

/-- A microprogram written to a core's control store and entry table (R254). -/
def State.storeMicro (s : State) (core entry start : Nat) (words : List Word) : State :=
  s.onCore core (fun c => { c with
    entries := if words.isEmpty then c.entries.del entry else c.entries.put entry (start, words.length)
    cstore := ((List.range words.length).zip words).foldl (fun m x => FMap.set 0#32 m (start + x.1) x.2) c.cstore })

/-- What an mload comes to. -/
inductive MicroEff where
  | error (r : Raise)
  | illegal
  | wait
  | done (s : State)

/-- MLOAD for a seat (R254): the header, then the words, are read with the checks of R149; `clear` tells that the seat's earlier
accesses are performed (R162). -/
def State.mloadFor (s : State) (core : Nat) (v : Viewer) (i : Instr) (clear : Bool) (entry : Word) (a : Nat) : MicroEff :=
  let w := wantOf i 0 4 4 true false
  let check (n : Nat) : Except Raise (List (Hit × Nat)) := s.checkBlock v w (formAddr (v.seg 0) 0 n a 0) n 4
  match check 4 with
  | .error r => .error r
  | .ok h0 =>
    if !clear || s.hitsBusy h0 then .wait
    else
      match s.poisonIn h0 with
      | some a => .error (v.machine w a)
      | none =>
        let header := (State.readHits core h0 s).2
        let len := bits header 17 12
        match check (4 + 4 * len) with
        | .error r => .error r
        | .ok hits =>
          if s.hitsBusy hits then .wait
          else
            match s.poisonIn hits, State.readHits core hits (s.noteHits v hits) with
            | some a, _ => .error (v.machine w a)
            | none, (s1, x) =>
              let words := (List.range len).map (fun k => wordAt x (k + 1))
              if s.badMicro core entry header words then .illegal
              else
                let e := FMap.get (0, 0) (s.core core).entries entry.toNat
                if e.2 ≠ 0 ∧ s.mcallOpen core e.1 e.2 = true then .wait
                else .done (s1.storeMicro core entry.toNat (bits header 11 0) words)

/-- MLOAD (R254). -/
def execMload (d a : Opnd) (s : State) : Out :=
  let i := Instr.mload d a
  let w := wantOf i 0 4 4 true false
  bothOp i (accessPre w a)
    (fun c s =>
      match s.thread c.core c.slot c.tid with
      | none => .next (s, .stall)
      | some th =>
        match s.mloadFor c.core (s.viewer c th) i (s.settled c) (th.readW c d) (th.readP c a).toNat with
        | .error r => .next (s, .trap r)
        | .illegal => .next (s, .trap ⟨causeIllegal, wordOf i, 0⟩)
        | .wait => .next (s, .stall)
        | .done s1 => .next (s1, .next))
    (fun core l s =>
      match s.mloadFor core (s.laneViewer core) i true (l.readW core (s.coreCycle core) (s.core core).pts d) (l.readP a).toNat with
      | .error r => .next (s, .exc r)
      | .illegal => .next (s, .exc ⟨causeIllegal, wordOf i, 0⟩)
      | .wait => .next (s, .stay)
      | .done s1 => .next (s1, .next)) s

end Sys2Proof.Machine
end

