-- ==== Sys2Proof/Machine/Save.lean ====
section
/-! DEFINITION. The save image of a crew, csave and crestore (R257 to R260), tmove and the move of a crew (R385 to
R387). -/

namespace Sys2Proof.Machine

/-! ### The image (R260) -/

/-- A part of an image: offset, length in bytes, value. -/
abbrev Part := Nat × Nat × Nat

/-- A rejoin-mask register's fields (R198). -/
def Rm.bits (x : Rm) : Nat :=
  x.gen.toNat * 2 ^ 152 + b2n x.isSet * 2 ^ 151 + b2n x.isOpen * 2 ^ 150 + x.base % 1024 * 2 ^ 140 + x.lost.toNat * 2 ^ 96 +
    x.dropped.toNat * 2 ^ 64 + x.pending.toNat * 2 ^ 32 + x.mask.toNat

/-- A rejoin-mask register from its fields and its timer. -/
def rmOf (v timer : Nat) : Rm :=
  { gen := BitVec.ofNat 8 (v >>> 152), isSet := bit v 151, isOpen := bit v 150, base := bits v 149 140,
    lost := BitVec.ofNat 32 (v >>> 96), dropped := BitVec.ofNat 32 (v >>> 64), pending := BitVec.ofNat 32 (v >>> 32),
    mask := BitVec.ofNat 32 v, timer := timer, touched := false }

/-- A convergence register's fields (R204). -/
def Cv.bits (x : Cv) : Nat :=
  x.gen.toNat * 2 ^ 152 + b2n x.isSet * 2 ^ 151 + b2n x.isOpen * 2 ^ 150 + x.op % 64 * 2 ^ 144 + x.sub % 16 * 2 ^ 140 +
    x.base % 1024 * 2 ^ 130 + b2n x.rsmv * 2 ^ 129 + x.rsm % 128 * 2 ^ 122 + x.excused.toNat * 2 ^ 64 +
    x.signed.toNat * 2 ^ 32 + x.mask.toNat

/-- A convergence register from its fields and the operands of its open round. -/
def cvOf (v : Nat) (args : FMap CvArg) : Cv :=
  { gen := BitVec.ofNat 8 (v >>> 152), isSet := bit v 151, isOpen := bit v 150, op := bits v 149 144, sub := bits v 143 140,
    base := bits v 139 130, rsmv := bit v 129, rsm := bits v 128 122, excused := BitVec.ofNat 32 (v >>> 64),
    signed := BitVec.ofNat 32 (v >>> 32), mask := BitVec.ofNat 32 v, args := args }

/-- The word of a grant (R175). -/
def Grant.word (g : Grant) : Nat := g.regs * 2 ^ 16 + g.scratch * 2 ^ 7 + g.acc

/-- Whether a crew is bound to its core by a barrier (R192). -/
def State.barrierBound (s : State) (core : Nat) (w : Crew) : Bool :=
  w.threads.any (fun t =>
    (match t.2.parkOf with
     | some (.barrier _ _) => true
     | _ => false) ||
    (match t.2.arrival with
     | some (b, g) => decide ((s.barrier core b).gen = g)
     | none => false))

/-- Whether a crew belongs to a squad (R353). -/
def State.inSquad (s : State) (w : Crew) : Bool :=
  ((s.task w.task).map (fun t => decide (1 < t.entry.crews))).getD false

/-- Whether a thread is written with all its registers (R256, R258). -/
def Thread.fullyLive (th : Thread) : Bool :=
  match th.trap with
  | some t => !(decide (t.cause = causePreempt) && th.live.isSome)
  | none => true

/-- Whether a register of a thread is live at its last live run (R54). -/
def Thread.liveReg (th : Thread) (r : Nat) : Bool :=
  th.fullyLive ||
    (match th.live with
     | some l =>
       match l.parts.find (r / 24) with
       | some m => bit m.toNat (r % 24)
       | none => true
     | none => true)

/-- The registers of a crew's threads that are allocated (R13). -/
def Crew.regNums (w : Crew) : List Nat := List.range w.nbase ++ (List.range (8 * w.grant.regs)).map (fun k => 64 + k)

/-- The scratchpad bytes of a crew, in 256-byte units. -/
def Crew.spadUnits (w : Crew) : Nat := 16 * (w.spadLen + w.grant.scratch)

/-- Whether a 256-byte unit of a crew's scratchpad is saved: live for some thread (R55), or in an armed landing buffer
(R258). -/
def State.unitLive (s : State) (core slot : Nat) (w : Crew) (u : Nat) : Bool :=
  w.threads.any (fun t => decide (t.2.life ≠ .exited) && (t.2.fullyLive ||
    (match t.2.live with
     | some l => l.ranges.isEmpty || l.ranges.any (fun r => decide (r.1 ≤ u) && decide (u < r.1 + r.2))
     | none => true))) ||
  (s.cluster (clusterOf core)).permits.any (fun p => p.2.armed && !p.2.fwd && decide (p.2.owner = crewId core slot) &&
    decide (p.2.base ≤ 16 * w.spadBase + u) && decide (16 * w.spadBase + u < p.2.base + p.2.len + 1))

/-- The runs of consecutive true elements: first index and length. -/
def runsOf : List Bool → Nat → List (Nat × Nat)
  | [], _ => []
  | false :: l, k => runsOf l (k + 1)
  | true :: l, k =>
    match runsOf l (k + 1) with
    | (a, n) :: r => if a = k + 1 then (k, n + 1) :: r else (k, 1) :: (a, n) :: r
    | [] => [(k, 1)]

/-- The scratchpad ranges that an image holds, in 256-byte units. -/
def State.savedRanges (s : State) (core slot : Nat) (w : Crew) : List (Nat × Nat) :=
  runsOf ((List.range w.spadUnits).map (s.unitLive core slot w)) 0

/-- Where the scratch part and the accumulator part of an image begin, and the image's length. -/
def imageLayout (threads : Nat) (ranges : List (Nat × Nat)) (accBytes : Nat) : Nat × Nat × Nat :=
  let scratch := alignUp (6144 + 640 * threads) 256
  let data := alignUp (scratch + 4 + 8 * ranges.length) 256 + 256 * ranges.foldl (fun n r => n + r.2) 0
  (scratch, data, data + accBytes)

/-- The park field of an image's thread: its barrier and phase when it waits at one, else its arrival record. -/
def Thread.arrivalWord (th : Thread) : Nat :=
  match th.parkOf with
  | some (.barrier b g) => 2 ^ 31 + b * 2 ^ 16 + g.toNat
  | _ =>
    match th.arrival with
    | some (b, g) => 2 ^ 31 + b * 2 ^ 16 + g.toNat
    | none => 0

/-- Whether a record is still in a core's queue or spill ring. -/
def State.recordQueued (s : State) (core : Nat) (r : Rec) : Bool :=
  let c := s.core core
  c.queue.any (fun x => decide (x.seq = r.seq) && decide (x.index = r.index)) ||
    (List.range c.ringCount).any (fun k =>
      let x := recOf (s.peekNat (c.ctl.ringPa (c.ringHead + k)) 32)
      decide (x.seq = r.seq) && decide (x.index = r.index))

/-- The record that moves into a thread's block (R258): one in the queue or the ring, or one not yet made. -/
def State.movedRecord (s : State) (core slot tid : Nat) (super : Bool) (th : Thread) : Nat :=
  match th.trap with
  | none => 0
  | some t =>
    match t.record with
    | .made r => if s.recordQueued core r then r.bytes 0 else 0
    | .never => 0
    | _ => (th.record super (indexWord core slot tid) 0#32).bytes 0

/-- The state of a thread as its block shows it: stopped by PREEMPT it is Ready (R258), frozen in what it left. -/
def Thread.blockView (th : Thread) : Thread :=
  match th.trap with
  | some t => if t.cause = causePreempt then { th with life := .ready, trap := none, pc := t.rpc, bind := none } else th
  | none =>
    match th.life with
    | .frozen (some p) => { th with life := .parked p }
    | _ => th

/-- The resume PC of a thread's block; a waiting signer's is that of its instruction. -/
def Thread.blockPc (th : Thread) (arg : Option CvArg) : Word :=
  match th.trap with
  | some t => t.rpc
  | none =>
    match arg with
    | some a => a.tpc
    | none => th.pcOf

/-- What a waiting signer gave. -/
def Crew.argOf (w : Crew) (tid : Nat) (th : Thread) : Option (Nat × CvArg) :=
  match th.life with
  | .issuing n _ _ => ((w.cv n).args.find (tid - (w.cv n).base)).map (fun a => (n, a))
  | _ => none

/-- The last word before the segments: guard depth, waiting signer and register (R260, R381); the model marks an exited
thread in bit 5 and a rejoin wait's register in bits [14:12] (log 25). -/
def Crew.blockFlags (w : Crew) (tid : Nat) (th : Thread) : Nat :=
  let signer := match w.argOf tid th with
    | some (n, _) => 16 + n
    | none => 0
  let rm := match th.parkOf with
    | some (.rejoin n _) => n * 2 ^ 12
    | _ => 0
  signer + th.guard * 2 ^ 8 + b2n (decide (th.life = .exited)) * 2 ^ 5 + rm

/-- The parts of a thread's block (R260). -/
def State.blockParts (s : State) (core slot : Nat) (w : Crew) (tid : Nat) (th : Thread) (at' : Nat) : List Part :=
  let v := th.blockView
  let live := if th.life = .exited then [] else w.regNums.filter th.liveReg
  let mask := live.foldl (fun m r => m + 2 ^ r) 0
  [(at', 32, s.movedRecord core slot tid w.super th), (at' + 32, 4, (v.status w.super).toNat % 2 ^ 32),
   (at' + 36, 4, (v.blockPc ((w.argOf tid th).map (fun x => x.2))).toNat), (at' + 40, 4, v.sp.toNat),
   (at' + 44, 4, v.arrivalWord), (at' + 48, 12, mask), (at' + 60, 4, w.blockFlags tid th)] ++
  (List.range 8).map (fun k => (at' + 64 + 16 * k, 16, (v.segs.getD k 0#128).toNat)) ++
  [(at' + 192, 64, 0)] ++ live.map (fun r => (at' + 256 + 4 * r, 4, (v.reg r).toNat))

/-- The parts of an image before its threads (R260); the status word comes last of all. -/
def State.headParts (s : State) (core slot : Nat) (w : Crew) (lay : Nat × Nat × Nat) : List Part :=
  let tcb := ((s.task w.task).bind (fun t => t.tcb.map (fun u => s.unitPa t.isle u))).getD 0
  [(4, 4, w.shape.toNat), (8, 4, crewId core slot), (12, 4, b2n (s.barrierBound core w) + 2 * b2n (s.inSquad w)),
   (16, 4, w.grant.word), (20, 4, (w.request.getD 0#32).toNat), (24, 4, w.size), (28, 4, lay.2.2), (32, 8, tcb), (40, 4, lay.1),
   (44, 4, lay.2.1), (48, 4, w.patience), (52, 12, 0)] ++
  ((List.range 8).map (fun n => [(64 + 32 * n, 20, (w.rm n).bits), (64 + 32 * n + 20, 3, (w.rm n).timer)])).flatten ++
  (List.range 16).map (fun n => (320 + 32 * n, 20, (w.cv n).bits)) ++
  ((List.range 16).map (fun n => (w.cv n).args.map (fun (a : Nat × CvArg) =>
    (832 + 256 * n + 8 * a.1, 8, a.2.p.toNat + a.2.q.toNat * 2 ^ 32)))).flatten ++
  ((List.range 32).map (fun n => [(4928 + 32 * n, 16, ((w.handles.find n).getD 0#128).toNat),
    (4928 + 32 * n + 16, 1, b2n (w.handles.find n).isSome)])).flatten

/-- The parts of the scratch directory and its data. -/
def State.scratchParts (s : State) (core : Nat) (w : Crew) (ranges : List (Nat × Nat)) (scratch : Nat) : List Part :=
  let dir := (scratch, 4, ranges.length) :: ((List.range ranges.length).zip ranges).map (fun x =>
    (scratch + 4 + 8 * x.1, 8, 256 * x.2.1 + 256 * x.2.2 * 2 ^ 32))
  let data := alignUp (scratch + 4 + 8 * ranges.length) 256
  let units := (ranges.map (fun r => (List.range r.2).map (fun k => r.1 + k))).flatten
  dir ++ ((List.range units.length).zip units).map (fun x =>
    (data + 256 * x.1, 256, s.readSpad (clusterOf core) (4096 * w.spadBase + 256 * x.2) 256))

/-- The parts of the accumulator allocation. -/
def State.accParts (s : State) (core : Nat) (w : Crew) (at' : Nat) : List Part :=
  (List.range (16 * (w.accLen + w.grant.acc))).map (fun k =>
    (at' + 256 * k, 256, s.readAcc core (4096 * w.accBase + 256 * k) 256))

/-- All parts of the image of a crew but its status word. -/
def State.imageParts (s : State) (core slot : Nat) (w : Crew) : List Part :=
  let ranges := s.savedRanges core slot w
  let lay := imageLayout w.size ranges (4096 * (w.accLen + w.grant.acc))
  s.headParts core slot w lay ++
    (w.threads.map (fun (t : Nat × Thread) => s.blockParts core slot w t.1 t.2 (6144 + 640 * t.1))).flatten ++
    s.scratchParts core w ranges lay.1 ++ s.accParts core w lay.2.1

/-- Where an address of a checked block lies. -/
def hitAt (l : List (Hit × Nat)) (a : Nat) : Option Hit :=
  (l.find? (fun x => decide (x.1.addr ≤ a) && decide (a < x.1.addr + x.2))).map (fun x =>
    { x.1 with addr := a, pa := x.1.pa + (a - x.1.addr) })

/-- The lines of a part of a checked block; what lies outside the block is left out. -/
def hitsIn (l : List (Hit × Nat)) (va n : Nat) : List (Hit × Nat) :=
  (rangeLines va n).filterMap (fun x => (hitAt l x.1).map (fun h => (h, x.2)))

/-- Bytes written at a virtual address of a checked block. -/
def State.putVa (s : State) (core : Nat) (l : List (Hit × Nat)) (va n x : Nat) : State := State.writeHits core (hitsIn l va n) x s

/-- Bytes read at a virtual address of a checked block. -/
def State.getVa (s : State) (core : Nat) (l : List (Hit × Nat)) (va n : Nat) : Nat := (State.readHits core (hitsIn l va n) s).2

/-! ### csave (R258) -/

/-- Whether a crew shares an accumulator allocation with another resident crew (R216). -/
def State.sharesAcc (s : State) (core slot : Nat) (w : Crew) : Bool :=
  decide (w.accLen ≠ 0) && (s.core core).crews.any (fun x => decide (x.1 ≠ slot) && decide (x.2.accBase = w.accBase) &&
    decide (x.2.accLen ≠ 0) && decide (x.2.accOwner = w.accOwner))

/-- The armed permits of a saved or moved crew are kept, forwarded, for 2^16 cycles (R288, R386). -/
def State.forwardPermits (s : State) (core slot : Nat) (dest : Option (Nat × Nat)) (image : Option Nat) : State :=
  let mine (p : Permit) : Bool := p.armed && !p.fwd && decide (p.owner = crewId core slot)
  let held := ((s.cluster (clusterOf core)).permits.filter (fun p => mine p.2)).map Prod.fst
  let s1 := s.onCluster (clusterOf core) (fun c => { c with permits := c.permits.mapVal (fun _ p =>
    if mine p then { p with fwd := true } else p) })
  let f : Forward :=
    { uid := ((s.crew core slot).map (fun w => w.uid)).getD 0, oldCore := core, oldCrew := crewId core slot, isle := ((s.crew core slot).map (fun w => w.isle)).getD 0,
      spad := ((s.crew core slot).map (fun w => w.spadBase)).getD 0, permits := held, till := s.cycle + 2 ^ 16, dest := dest,
      image := image }
  { s1 with forwards := s1.forwards.put s1.nextId f, nextId := s1.nextId + 1 }

/-- The armed permits that a crew leaves. -/
def State.armedFor (s : State) (core slot : Nat) : Bool :=
  (s.cluster (clusterOf core)).permits.any (fun p => p.2.armed && !p.2.fwd && decide (p.2.owner = crewId core slot))

/-- A crew saved (R258): its parks are unlinked, its records and bindings go, its permits are forwarded, its resources
return; the piece keeps it. -/
def State.saveCrew (s : State) (core slot : Nat) (w : Crew) (image : Nat) : State :=
  let s0 := (FMap.keys w.threads).foldl (fun (u : State) t => u.unlinkPark core slot t) s
  let s1 := ((s0.dropRecords core (fun k _ => decide (k = slot))).withdraw core slot).unbind core (fun k _ => decide (k = slot))
  let s2 := if s.armedFor core slot then s1.forwardPermits core slot none (some image) else s1
  let s3 := s2.freeCrew core slot true
  let x : SavedCrew :=
    { uid := w.uid, isle := w.isle, task := w.task, piece := w.piece,
      crewId := crewId core slot, image := image, stack := w.stack, kgo := w.kgo }
  { s3 with saved := s3.saved ++ [x] }

/-- What csave or crestore comes to for a seat: it may wait for its earlier accesses and for the homes of the image's lines. -/
inductive SaveEff where
  | error (r : Raise)
  | wait
  | done (s : State)

/-- An image's lines, checked: `k` goes on once none of them is busy (R315). -/
def State.onImage (s : State) (clear : Bool) (hits : Except Raise (List (Hit × Nat))) (k : List (Hit × Nat) → SaveEff) : SaveEff :=
  match hits with
  | .error r => .error r
  | .ok l => if !clear || s.hitsBusy l then .wait else k l

/-- The access of csave and crestore to their image. -/
def imageWant (i : Instr) (n : Nat) (wr : Bool) : Want := wantOf i 6 n 0 (!wr) wr

/-- The image address of a seat as a formed address: a kernel-space virtual address (R258). -/
def imageForm (v : Viewer) (va n : Nat) : Formed :=
  let g := v.seg 6
  { addr := va % 2 ^ 48, inside := decide (segBase g ≤ va % 2 ^ 48) && decide (va % 2 ^ 48 + n ≤ segBase g + segLimit g),
    fault := va % 2 ^ 48 }

/-- CSAVE for a seat (R258); `clear` tells that the seat's earlier accesses are performed (R162). -/
def State.csaveFor (s : State) (v : Viewer) (i : Instr) (clear : Bool) (va : Nat) (id : Word) : SaveEff :=
  let core := v.core
  let slot := id.toNat % 32
  let w := if id.toNat / 32 = core then s.crew core slot else none
  let len := match w with
    | some c => (imageLayout c.size (s.savedRanges core slot c) (4096 * (c.accLen + c.grant.acc))).2.2
    | none => 4
  let want := imageWant i 256 true
  s.onImage clear (s.checkBlock v want (imageForm v va len) len 256) (fun l =>
    let status (t : State) (n : Nat) : SaveEff := .done (t.putVa core l (va % 2 ^ 48) 4 n)
    match w with
    | none => status s 2
    | some c =>
      if !bit (s.core core).ctl.pready.toNat slot || !s.saveReady core c then status s 1
      else if s.sharesAcc core slot c then status s 3
      else
        let s1 := (s.imageParts core slot c).foldl (fun (t : State) p => t.putVa core l (va % 2 ^ 48 + p.1) p.2.1 p.2.2) s
        status (s1.saveCrew core slot c (va % 2 ^ 48)) 0)

/-- The pair and word operands of csave and crestore for a thread and for a lane. -/
def saveOp (i : Instr) (d a : Opnd) (f : State → Viewer → Bool → Nat → Word → SaveEff) (s : State) : Out :=
  bothOp i noTrapS
    (fun c s =>
      match s.thread c.core c.slot c.tid with
      | none => .next (s, .stall)
      | some th =>
        match f s (s.viewer c th) (s.settled c) (th.readP c d).toNat (th.readW c a) with
        | .error r => .next (s, .trap r)
        | .wait => .next (s, .stall)
        | .done s1 => .next (s1, .next))
    (fun core l s =>
      match f s (s.laneViewer core) true (l.readP d).toNat (l.readW core (s.coreCycle core) (s.core core).pts a) with
      | .error r => .next (s, .exc r)
      | .wait => .next (s, .stay)
      | .done s1 => .next (s1, .next)) s

/-- CSAVE (R258). -/
def execCsave (d a : Opnd) (s : State) : Out :=
  saveOp (.csave d a) d a (fun s v clear va id => s.csaveFor v (.csave d a) clear va id) s

/-! ### A crew at a new place (R259, R386) -/

/-- A segment register with another base. -/
def setBase (g : BitVec 128) (base : Nat) : BitVec 128 := BitVec.ofNat 128 (putBits g.toNat 0 48 base)

/-- The segments of a thread for new scratchpad and accumulator allocations. -/
def Thread.rebase (th : Thread) (spad acc : Nat) : Thread :=
  { th with segs := setAt (setAt th.segs 1 (setBase (th.segs.getD 1 0#128) (4096 * spad))) 2
              (setBase (th.segs.getD 2 0#128) (4096 * acc)) }

/-- The scratchpad offset of a crew's new place: its squad's where another crew of the piece is resident, else the lowest
that fits (R174, R353). -/
def State.spadPlace (s : State) (core : Nat) (w : Crew) : Option Nat :=
  let mates := (coresOf (clusterOf core)).filterMap (fun k =>
    ((s.core k).crews.find? (fun x => decide (x.2.piece = w.piece) && decide (x.2.uid ≠ w.uid) && !w.kgo)).map
      (fun x => x.2.spadBase))
  match mates with
  | b :: _ => some b
  | [] => s.spadFit (clusterOf core) (w.spadLen + w.grant.scratch)

/-- Where a crew fits on a core: scratchpad and accumulator offsets (R174). -/
def State.roomFor (s : State) (core : Nat) (w : Crew) : Option (Nat × Nat) :=
  let ok := decide (s.residents core + w.size ≤ 2048) && decide (s.blocksUsed core + w.blocks ≤ 512) &&
    (s.core core).grantQ.isEmpty && (s.cluster (clusterOf core)).powered && decide (s.isleOfCore core = some w.isle)
  match s.spadPlace core w, s.accFit core (w.accLen + w.grant.acc) with
  | some b, some a => if ok then some (b, a) else none
  | _, _ => none

/-- A crew put into a slot of a core; `asks`: its request is appended to the core's grant queue (R179). -/
def State.seatCrew (s : State) (core slot : Nat) (w : Crew) (asks : Bool) : State :=
  s.onCore core (fun c => { c with
    crews := c.crews.put slot w
    grantQ := if asks then c.grantQ ++ [slot] else c.grantQ })

/-- A record that a crew brings with it re-enters the queue (R259): renumbered, or held where there is no room. -/
def State.requeue (s : State) (core slot tid : Nat) (r : Rec) : State :=
  let c := s.core core
  let mark (t : State) (x : RecState) : State := t.onThread core slot tid (fun th =>
    { th with trap := th.trap.map (fun t => { t with record := x }) })
  if c.room = .none ∨ c.held ≠ [] then
    (mark (s.onCore core (fun c => { c with held := c.held ++ [(slot, tid)], ctl := { c.ctl with ovf := true } })) .held).raisePend core 2
  else
    let r1 : Rec := { r with index := indexWord core slot tid, seq := c.seq }
    mark ((s.putRecord core r1).nextSeq core) (.made r1)

/-! ### crestore (R259) -/

/-- The dst register, flag and next PC of the collective at a PC (R43): what a waiting signer's restore needs. -/
def State.signerAt (s : State) (v : Viewer) (pc : Word) : Nat × Nat × Word :=
  let next := s.afterPc v 3 pc
  match s.fetchWord v (next - 1) with
  | .error _ => (127, 15, next)
  | .ok w =>
    match decodeThread w with
    | some (.mma flag _ _) => (127, flag.toNat, next)
    | some (.shfl _ p _ _) => (p.toNat, 15, next)
    | some (.vote _ p _ _) => (p.toNat, 15, next)
    | some (.scan _ p _ _) => (p.toNat, 15, next)
    | some (.red _ p _ _) => (p.toNat, 15, next)
    | _ => (127, 15, next)

/-- The trap state of a thread from its block (R31, R258); where the record was popped before the save, its fault address, detail, index
and sequence number are gone and read zero (DEDUCED, log 50). -/
def trapOfBlock (status : Word) (rpc : Word) (r : Rec) (moved : Bool) : Trap :=
  let win := if bit status.toNat 19 then some (bits status.toNat 23 20) else none
  if moved then
    { cause := bits status.toNat 31 24, tpc := r.tpc, rpc := rpc, fault := r.fault, detail := r.detail, win := win,
      record := .due, mark := 1, since := none }
  else
    { cause := bits status.toNat 31 24, tpc := rpc, rpc := rpc, fault := 0, detail := 0, win := win,
      record := .made { status := status, tpc := rpc, rpc := rpc, detail := 0, fault := 0, index := 0, seq := 0 }, mark := 1, since := none }

/-- The state that a restored thread is in, before one that was parked on a future or a counter evaluates its condition
(R259). -/
def State.lifeOfBlock (s : State) (core : Nat) (status : Word) (flags arrival : Nat) (sign : Nat × Nat × Word) (w : Crew) : Life :=
  if bit flags 5 then .exited
  else if bit status.toNat 16 then .trapped
  else if bit flags 4 then .issuing (flags % 16) sign.1 sign.2.1
  else if bit status.toNat 15 then
    match bits status.toNat 14 12 with
    | 2 =>
      let b := bits arrival 22 16
      let g := BitVec.ofNat 16 arrival
      if (s.barrier core b).gen = g then .parked (.barrier b g) else .ready
    | 3 => let n := bits flags 14 12; if (w.rm n).isOpen then .parked (.rejoin n (w.rm n).gen) else .ready
    | 4 => if w.request.isSome then .parked .grant else .ready
    | _ => .ready
  else .ready

/-- A thread from its block: latches clear, flags idle, no reservation (R259). One that was waiting past its instruction takes the STEP
trap that is due as that completes (R33); the record of an arrival was emptied as its thread parked (R190). -/
def State.threadOfBlock (s : State) (v : Viewer) (l : List (Hit × Nat)) (w : Crew) (at' : Nat) : Thread :=
  let word (o : Nat) : Nat := s.getVa v.core l (at' + o) 4
  let status := BitVec.ofNat 32 (word 32)
  let pc := BitVec.ofNat 32 (word 36)
  let r := s.getVa v.core l at' 32
  let mask := s.getVa v.core l (at' + 48) 12
  let flags := word 60
  let arrival := word 44
  let segs := (List.range 8).map (fun k => forceSeg k (BitVec.ofNat 128 (s.getVa v.core l (at' + 64 + 16 * k) 16)))
  let sign := if bit flags 4 then s.signerAt { v with segs := segs, user := !w.super } pc else (127, 15, pc)
  let life := s.lifeOfBlock v.core status flags arrival sign w
  let park := if bit status.toNat 15 then bits status.toNat 14 12 else 0
  let past := bit flags 4 || decide (park = 2) || decide (park = 3) || decide (park = 4)
  let regs : FMap Word := ((List.range 96).filter (fun k => bit mask k)).foldl (fun m k =>
    m.put k (BitVec.ofNat 32 (word (256 + 4 * k)))) []
  { Thread.blank with
    regs := regs, pc := sign.2.2, sp := BitVec.ofNat 32 (word 40), segs := segs, life := life,
    step := bit status.toNat 18, guard := bits flags 11 8,
    trap := if life = .trapped then some (trapOfBlock status pc (recOf r) (decide (r ≠ 0))) else none,
    stepDue := bit status.toNat 18 && past && decide (life ≠ .trapped) && decide (life ≠ .exited),
    arrival := if park ≠ 2 ∧ bit arrival 31 = true then some (bits arrival 22 16, BitVec.ofNat 16 arrival) else none }

/-- The crew that an image describes, at its new place but without its threads (R259). A request of a crew whose task has stopped is
withdrawn (R179); the accumulator of a join's crew is as long as what its image holds (R216). -/
def State.crewOfImage (s : State) (core : Nat) (l : List (Hit × Nat)) (va : Nat) (x : SavedCrew) : Crew :=
  let word (o : Nat) : Nat := s.getVa core l (va + o) 4
  let shape := BitVec.ofNat 32 (word 4)
  let req := BitVec.ofNat 32 (word 20)
  let arg (n k : Nat) : CvArg :=
    let y := s.getVa core l (va + 832 + 256 * n + 8 * k) 8
    { p := BitVec.ofNat 32 y, q := BitVec.ofNat 32 (y >>> 32), tpc := 0, rpc := 0, win := none }
  let cv (n : Nat) : Cv :=
    let y := s.getVa core l (va + 320 + 32 * n) 20
    cvOf y (if bit y 150 then (maskMembers (bits y 63 32)).map (fun k => (k, arg n k)) else [])
  let grant := reqGrant (BitVec.ofNat 32 (word 16))
  let task := s.task x.task
  let joined := (task.map (fun t => t.entry.join)).getD false
  { uid := x.uid, shape := shape, isle := x.isle, size := word 24, nbase := shRegs shape, super := shSuper shape || x.kgo,
    grant := grant, request := if req = 0#32 ∨ (task.map (fun t => t.stopping)).getD false = true then none else some req, spadBase := 0,
    spadLen := shScratch shape, accBase := 0, accLen := if joined then (word 28 - word 44) / 4096 - grant.acc else shAcc shape,
    accOwner := x.uid, threads := [],
    rms := (List.range 8).map (fun n => (n, rmOf (s.getVa core l (va + 64 + 32 * n) 20) (s.getVa core l (va + 84 + 32 * n) 3))),
    cvs := (List.range 16).map (fun n => (n, cv n)),
    handles := ((List.range 32).filter (fun n => decide (s.getVa core l (va + 4928 + 32 * n + 16) 1 % 2 = 1))).map (fun n =>
      (n, BitVec.ofNat 128 (s.getVa core l (va + 4928 + 32 * n) 16))),
    patience := word 48, task := x.task, piece := x.piece, kgo := x.kgo, stack := x.stack, preempt := none,
    freeze := .none, slice := 0, sliceDue := false }

/-- The scratchpad and accumulator data of an image written at a crew's new place (R259). -/
def State.restoreData (s : State) (core : Nat) (l : List (Hit × Nat)) (va : Nat) (w : Crew) : State :=
  let word (o : Nat) : Nat := s.getVa core l (va + o) 4
  let scratch := word 40
  let n := min (word scratch) 4096
  let ranges := (List.range n).map (fun k => (word (scratch + 4 + 8 * k) / 256, word (scratch + 8 + 8 * k) / 256))
  let data := alignUp (scratch + 4 + 8 * n) 256
  let units := (ranges.map (fun r => (List.range r.2).map (fun k => r.1 + k))).flatten
  let s1 := ((List.range units.length).zip units).foldl (fun (t : State) x =>
    if x.2 < w.spadUnits then
      t.writeSpad (clusterOf core) (4096 * w.spadBase + 256 * x.2) 256 (s.getVa core l (va + data + 256 * x.1) 256)
    else t) s
  (List.range (16 * (w.accLen + w.grant.acc))).foldl (fun (t : State) k =>
    t.writeAcc core (4096 * w.accBase + 256 * k) 256 (s.getVa core l (va + word 44 + 256 * k) 256)) s1

/-- Where a waiting signer of a restored crew stands: the operands of its round take its PCs. -/
def Crew.fixArgs (w : Crew) (pcs : FMap Word) : Crew :=
  { w with cvs := w.cvs.mapVal (fun _ x => { x with args := x.args.mapVal (fun k a =>
      let pc := FMap.get 0#32 pcs (x.base + k)
      { a with tpc := pc, rpc := pc }) }) }

/-- Whether a counter ends a wait for a target (R300). -/
def counterReached (v target : Nat) : Bool := bit v 63 || decide (target ≤ bits v 62 0)

/-- The instruction that stands at a thread's PC, and the PC after it (R43). -/
def State.instrAt (s : State) (v : Viewer) (pc : Word) : Option Instr × Word :=
  let next := s.afterPc v 3 pc
  match s.fetchWord v (next - 1) with
  | .error _ => (none, next)
  | .ok w => (decodeThread w, next)

/-- A restored thread saved as parked with code 1 or 5 evaluates its condition at its placement (R259): an fget of an EMPTY cell
is linked at the head of the park list, a cwait whose counter has not come parks, and one whose counter has come goes on after
its instruction. Any other is Ready at its instruction, which it issues again, and so is one whose home is busy (DESIGN CHOICE, log 51). -/
def State.parkAgain (s : State) (v : Viewer) (slot tid : Nat) : State :=
  match s.crew v.core slot, s.thread v.core slot tid with
  | some w, some th =>
    let c := s.ctx v.core slot w 1 tid
    match s.instrAt { v with segs := th.segs, user := !w.super } th.pc with
    | (some (.fget _ q _), _) =>
      let h := th.readP c q
      match (s.cellAt w.isle (bits h.toNat 47 0)).filter (fun x => (s.await (lineOf x.1) x.2.mode true).isNone) with
      | none => s
      | some x =>
        match s.readCell v.core x with
        | (s1, cell, bad) =>
          let holds := ((s.task w.task).map (fun t => t.holds h)).getD false
          if bad = false ∧ cState cell = cEmpty ∧ cOwner cell ≠ 0 ∧ cOwner cell % 2 ^ 16 = bits h.toNat 63 48 ∧ holds = true then
            (s1.setParks v.core x cell (indexWord v.core slot tid :: s1.parked x.1 cell)).onThread v.core slot tid
              (fun t => t.parkAt (.future x.1))
          else s1
    | (some (.cwait p q k), next) =>
      match (s.cellAt w.isle (bits (th.readP c p).toNat 47 0)).filter (fun x => (s.await (lineOf x.1) x.2.mode false).isNone) with
      | none => s
      | some x =>
        match s.readHome v.core x.2.mode x.2.lease x.1 8 with
        | (s1, n, bad) =>
          let target := bits (th.readP c q).toNat 62 0
          if bad then s1
          else if counterReached n target then
            (s1.acquire (clusterOf v.core) k.toNat none).onThread v.core slot tid
              (fun t => { t with pc := next, stepDue := t.step })
          else s1.onThread v.core slot tid (fun t => t.parkAt (.counter x.1 target))
    | _ => s
  | _, _ => s

/-- A restored crew seated: data, threads, records (R259); threads of a stopping task retire in place of their first issue, a waiting signer
once its round is over (R380). -/
def State.restoreCrew (s : State) (v : Viewer) (l : List (Hit × Nat)) (va slot : Nat) (x : SavedCrew) (w0 : Crew) (spad acc : Nat) : State :=
  let core := v.core
  let w1 : Crew := { w0 with spadBase := spad, accBase := acc }
  let at' (t : Nat) : Nat := va + 6144 + 640 * t
  let stop := s.stoppingCrew w1
  let pcs : FMap Word := (List.range w1.size).map (fun t => (t, BitVec.ofNat 32 (s.getVa core l (at' t + 36) 4)))
  let w2 := w1.fixArgs pcs
  let threads := (List.range w1.size).map (fun t =>
    let th := (s.threadOfBlock v l w2 (at' t)).rebase spad acc
    let quits := match th.life with
      | .ready => true
      | .parked _ => true
      | _ => false
    let signer := match th.life with
      | .issuing _ _ _ => true
      | _ => false
    (t, if stop && decide (th.guard = 0) && quits then th.retire else { th with retireDue := stop && signer }))
  let s1 := (s.restoreData core l va w2).seatCrew core slot { w2 with threads := threads } w2.request.isSome
  let s2 := { s1 with saved := s1.saved.filter (fun y => decide (y.uid ≠ x.uid)) }
  let s3 := ((List.range w1.size).foldl (fun (t : State) k =>
    let r := s.getVa core l (at' k) 32
    match t.thread core slot k with
    | some th => if th.isTrapped && decide (r ≠ 0) then t.requeue core slot k (recOf r) else t
    | none => t) s2)
  let waited (k : Nat) : Bool :=
    let st := s.getVa core l (at' k + 32) 4
    bit st 15 && (decide (bits st 14 12 = 1) || decide (bits st 14 12 = 5))
  ((threads.filter (fun t => decide (t.2.life = .ready) && !t.2.leaving && waited t.1)).map Prod.fst).foldl
    (fun (t : State) k => t.parkAgain v slot k) s3

/-- The saved crew that an image describes: old id, isle and control block (R260); of several, the one that was saved there. -/
def State.savedFor (s : State) (isle old tcb va : Nat) : Option SavedCrew :=
  let l := s.saved.filter (fun x => decide (x.crewId = old) && decide (x.isle = isle) &&
    decide (((s.task x.task).bind (fun t => t.tcb.map (fun u => s.unitPa t.isle u))).getD 0 = tcb))
  match l.find? (fun x => decide (x.image = va)) with
  | some x => some x
  | none => l.head?

/-- Whether a request or grant word is out of range for a crew (R175, R259). -/
def Crew.badGrant (w : Crew) (r : Word) : Bool :=
  decide (bits r.toNat 31 19 ≠ 0) || decide (4 < reqRegs r) || decide (256 < w.spadLen + reqScratch r) ||
    decide (64 < w.accLen + reqAcc r)

/-- Whether a header's status is not 0 or a field of it is out of range (R259, R260). -/
def Crew.badHeader (w : Crew) (kgo : Bool) (word : Nat → Nat) : Bool :=
  let len := word 28
  decide (word 0 ≠ 0) || decide (4 ≤ word 12) || decide (bits (word 36) 31 16 ≠ 0) || decide (word 52 ≠ 0) ||
    decide (word 56 ≠ 0) || decide (word 60 ≠ 0) || decide (!kgo ∧ w.size ≠ shThreads w.shape) || decide (1024 < w.size) ||
    decide (w.size = 0) || decide (256 < w.spadLen) || decide (64 < w.accLen) || w.badGrant (BitVec.ofNat 32 (word 16)) ||
    w.badGrant (BitVec.ofNat 32 (word 20)) || decide (word 40 % 256 ≠ 0) || decide (word 44 % 256 ≠ 0) ||
    decide (word 40 < 6144 + 640 * w.size) || decide (word 44 < word 40 + 4) ||
    decide (word 48 < 64) || decide (2 ^ 24 ≤ word 48) || decide (len < word 44 + 4096 * (w.accLen + w.grant.acc))

/-- CRESTORE for a seat (R259): the header is read, then the image of the length it gives; bytes that the header places outside the
image read as zero (log 25), and a poisoned image is a MACHINE (R324). -/
def State.crestoreFor (s : State) (v : Viewer) (i : Instr) (clear : Bool) (va0 : Nat) (id : Word) : SaveEff :=
  let va := va0 % 2 ^ 48
  let core := v.core
  let want := imageWant i 256 false
  let sound (l : List (Hit × Nat)) (k : SaveEff) : SaveEff :=
    match s.poisonIn l with
    | some a => .error (v.machine want a)
    | none => k
  s.onImage clear (s.checkBlock v want (imageForm v va 64) 64 256) (fun l0 => sound l0 (
    let n := max (s.getVa core l0 (va + 28) 4) 64
    s.onImage clear (s.checkBlock v want (imageForm v va n) n 256) (fun l => sound l (
      s.onImage clear (s.checkBlock v (imageWant i 256 true) (imageForm v va 4) 4 256) (fun _ =>
        let word (o : Nat) : Nat := s.getVa core l (va + o) 4
        let status (t : State) (n : Nat) : SaveEff := .done (t.putVa core l va 4 n)
        match s.savedFor v.isle (word 8) (s.getVa core l (va + 32) 6) va with
        | none => status s 11
        | some x =>
          let w := s.crewOfImage core l va x
          let slot := id.toNat % 32
          if w.badHeader x.kgo word then status s 11
          else if bit (word 12) 0 && decide (word 8 / 32 ≠ core) then status s 10
          else if id.toNat / 32 ≠ core ∨ (s.crew core slot).isSome = true ∨ ((s.core core).returned.find slot).isSome = true then
            status s 9
          else
            match s.roomFor core w with
            | none => status s 9
            | some (spad, acc) => status (s.restoreCrew v l va slot x w spad acc) 8)))))

/-- CRESTORE (R259). -/
def execCrestore (d a : Opnd) (s : State) : Out :=
  saveOp (.crestore d a) d a (fun s v clear va id => s.crestoreFor v (.crestore d a) clear va id) s

/-! ### tmove and the move (R385 to R387) -/

/-- A request for a move accepted by the domain (R385). -/
def State.askMove (s : State) (core : Nat) (d a : Word) : State :=
  let k := d.toNat / 32
  let slot := d.toNat % 32
  if bits d.toNat 31 14 ≠ 0 ∨ Config.cores ≤ k ∨ s.isleOfCore k ≠ s.isleOfCore core then s
  else
    match s.crew k slot with
    | none => s
    | some w => s.onCore k (fun c => { c with moves := c.moves ++ [{ slot := slot, uid := w.uid, task := w.task, dest := a.toNat }] })

/-- TMOVE (R385). -/
def execTmove (d a : Opnd) (s : State) : Out :=
  bothOp (.tmove d a) noTrapS
    (fun c s =>
      match s.thread c.core c.slot c.tid with
      | some th => .next (s.askMove c.core (th.readW c d) (th.readW c a), .next)
      | none => .next (s, .stall))
    (fun core l s =>
      let rd (o : Opnd) : Word := l.readW core (s.coreCycle core) (s.core core).pts o
      .next (s.askMove core (rd d) (rd a), .next)) s

/-- The outcome of a move written to its task's control block (R387). -/
def State.putMstat (s : State) (task : Word) (n : Nat) : State := s.onTask task (fun t => { t with mstat := n })

/-- Whether every thread of a crew has stopped for a move, and nothing of it is outstanding (R386 steps 1 and 2). -/
def State.moveReady (s : State) (core slot : Nat) (w : Crew) : Bool :=
  w.threads.all (fun t => (t.2.stopped || t.2.atBoundary s) && t.2.idleAll 4095 &&
    (decide (t.2.life = .exited) || s.quietThread core slot w.uid t.1)) &&
    !(s.core core).matQ.any (fun m => decide (m.uid = w.uid)) && !(s.core core).matWait.any (fun m => decide (m.uid = w.uid))

/-- Why a move is refused (R387). -/
def State.moveRefusal (s : State) (core slot : Nat) (w : Crew) (dest : Nat) : Option Nat :=
  let t := s.task w.task
  if (t.map (fun t => t.stopping)).getD false then some 6
  else if s.barrierBound core w && decide (dest ≠ core) then some 2
  else if s.sharesAcc core slot w || (t.map (fun t => t.entry.join)).getD false then some 3
  else if s.inSquad w && decide (1 < s.squadCrews core w) then some 4
  else if Config.cores ≤ dest ∨ s.isleOfCore dest ≠ some w.isle ∨ dieOfCore dest ≠ dieOfCore core ∨
      (s.freeSlot dest).isNone = true ∨ (s.roomFor dest { w with piece := 0 }).isNone = true then some 5
  else none

/-- A park-list entry rewritten for a crew's new place (R386 step 4). -/
def State.rewriteParks (s : State) (core slot dest k : Nat) : State :=
  let f (w : Word) : Word := if indexCore w = core ∧ indexSlot w = slot then indexWord dest k (indexTid w) else w
  (s.parks.filter (fun p => p.2.any (fun w => decide (f w ≠ w)))).foldl (fun (t : State) p =>
    let c := t.peekNat p.1 32
    t.setParks core (t.homeCell p.1) c ((t.parked p.1 c).map f)) s

/-- The bytes of a crew's allocations at its old place written at its new one (R386 step 3). -/
def State.moveData (s : State) (core dest : Nat) (w : Crew) (spad acc : Nat) : State :=
  let s1 := (List.range w.spadUnits).foldl (fun (t : State) k =>
    t.writeSpad (clusterOf dest) (4096 * spad + 256 * k) 256 (s.readSpad (clusterOf core) (4096 * w.spadBase + 256 * k) 256)) s
  (List.range (16 * (w.accLen + w.grant.acc))).foldl (fun (t : State) k =>
    t.writeAcc dest (4096 * acc + 256 * k) 256 (s.readAcc core (4096 * w.accBase + 256 * k) 256)) s1

/-- A crew moved (R386 steps 3 to 6); a request that a pending pre-emption has withdrawn stays withdrawn (R179). -/
def State.moveCrew (s : State) (core slot : Nat) (w : Crew) (dest : Nat) : State :=
  match s.freeSlot dest, s.roomFor dest { w with piece := 0 } with
  | some k, some (spad, acc) =>
    let moved (t : Nat × Thread) : Option (Nat × Rec) := match t.2.trap with
      | some x =>
        match x.record with
        | .made r => if s.recordQueued core r then some (t.1, r) else none
        | _ => none
      | none => none
    let recs := w.threads.filterMap moved
    let asks := w.request.isSome && (w.preempt.isNone || (s.core core).grantQ.contains slot)
    let waits (x : Trap) : Trap := if x.record = .held then { x with record := .due } else x
    let w1 : Crew := { w with
      spadBase := spad, accBase := acc
      threads := w.threads.mapVal (fun _ t =>
        { (t.rebase spad acc) with lvalid := 0#8, rsv := none, trap := t.trap.map waits }) }
    let s1 := ((s.moveData core dest w spad acc).dropRecords core (fun n _ => decide (n = slot))).unbind core
      (fun n _ => decide (n = slot))
    let s2 := (s1.forwardPermits core slot (some (dest, crewId dest k)) none).freeCrew core slot true
    let s3 := (s2.seatCrew dest k w1 asks).rewriteParks core slot dest k
    recs.foldl (fun (t : State) x => t.requeue dest k x.1 x.2) s3
  | _, _ => s

/-- CREW_MOVE (R386, R387): a requested move that has become due is made or refused. -/
def execCrewMove (core slot : Nat) (s : State) : Out :=
  match (s.core core).moves.find? (fun m => decide (m.slot = slot)) with
  | none => .next s
  | some m =>
    let s1 := s.onCore core (fun c => { c with moves := c.moves.filter (fun x => x != m) })
    match s.crew core slot with
    | none => .next (s1.putMstat m.task 1)
    | some w =>
      if w.uid ≠ m.uid then .next (s1.putMstat m.task 1)
      else
        match s.moveRefusal core slot w m.dest with
        | some n => .next (s1.putMstat w.task n)
        | none =>
          if s.moveReady core slot w then .next ((s1.moveCrew core slot w m.dest).putMstat w.task 0) else .next s

end Sys2Proof.Machine
end

