-- ==== Sys2Proof/Machine/Pushes.lean ====
section
/-! DEFINITION. Push stores and their fills (R274 to R284), permits (R285, R286), forwarding (R287, R288). -/

namespace Sys2Proof.Machine

/-! ### Issue (R275) -/

/-- The forwarding entries of moved crews that are live (R287). -/
def State.liveMoves (s : State) : List Forward :=
  (s.forwards.map Prod.snd).filter (fun (f : Forward) => f.dest.isSome && decide (s.cycle < f.till))

/-- The cores that a push or a multicast names, with those that forwarding adds (R287). -/
def State.withMoved (s : State) (names : List Nat) : List Nat :=
  names ++ ((s.liveMoves.filter (fun f => names.contains f.oldCore)).filterMap (fun f => f.dest.map Prod.fst)).filter
    (fun c => !names.contains c)

/-- The clusters of some cores, each once, ascending. -/
def clustersOf (cores : List Nat) : List Nat := cores.foldl (fun l c => insertKey (clusterOf c) l) []

/-- The cores of a scope-group entry (R332). -/
def State.groupCores (s : State) (isle k : Nat) : List Nat :=
  let g := FMap.get 0#384 (s.isle isle).groups k
  (List.range Config.cores).filter (fun c => bit g.toNat c)

/-- A push put in flight: its flag rises; at an SC page the thread waits for it (R276). -/
def State.launchPush (s : State) (p : Push) : State :=
  let id := s.fresh.1
  let s1 := s.fresh.2
  let s2 : State := { s1 with pushes := s1.pushes ++ [{ p with id := id }] }
  s2.onThread p.core p.slot p.tid (fun t =>
    { t.raiseFlag p.flag with waitAll := if p.page.sc then id :: t.waitAll else t.waitAll })

/-- The cores that a push names, or the value of its PUSH trap (R275). -/
def State.pushNames (s : State) (c : Ctx) (th : Thread) (group : Bool) (k : Nat) : Except Nat (List Nat) :=
  if group then
    let g := s.groupCores (s.isleNo c.core) k
    if g.isEmpty then .error k else .ok g
  else
    let n := (th.seen c k).toNat
    if Config.cores ≤ n then .error n else .ok [n]

/-- The push instructions (R275): `data` is what a pst writes. -/
def pushOp (i : Instr) (group : Bool) (n size : Nat) (data : Option (Thread → Ctx → Nat)) (flag : BitVec 4) (q : Opnd) (k : Nat)
    (s : State) : Out :=
  let w := wantOf i 0 n size data.isNone data.isSome
  sharedOp i (accessPre w q)
    (fun c s => s.access c w q (fun th h s1 =>
      match s.pushNames c th group k with
      | .error v => .next (s, .trap ⟨causePush, v, 0⟩)
      | .ok names =>
        let all := s.withMoved names
        match h.pageFor false w with
        | none => .next (s, .stall)
        | some t =>
          let p : Push :=
            { id := 0, core := c.core, slot := c.slot, tid := c.tid, uid := c.uid, isle := s.isleNo c.core, flag := flag.toNat,
              addr := h.pa, n := n, data := data.map (fun f => f th c), page := t, names := all, recv := clustersOf all,
              merged := false, seq := 0 }
          .next (s1.launchPush p, .next))) s

/-- The data of a pst by size (R274). -/
def pstData (size : StSize) (p : Opnd) (th : Thread) (c : Ctx) : Nat := th.storeData c size p

/-- PST_W_GROUP (R275). -/
def execPstWGroup (flag : BitVec 4) (p q : Opnd) (k : BitVec 5) (s : State) : Out :=
  pushOp (.pstWGroup flag p q k) true 4 4 (some (pstData .w p)) flag q k.toNat s

/-- PST_D_GROUP (R275). -/
def execPstDGroup (flag : BitVec 4) (p q : Opnd) (k : BitVec 5) (s : State) : Out :=
  pushOp (.pstDGroup flag p q k) true 8 5 (some (pstData .d p)) flag q k.toNat s

/-- PST_Q_GROUP (R275). -/
def execPstQGroup (flag : BitVec 4) (p q : Opnd) (k : BitVec 5) (s : State) : Out :=
  pushOp (.pstQGroup flag p q k) true 16 6 (some (pstData .q p)) flag q k.toNat s

/-- PPUSH_GROUP (R275). -/
def execPpushGroup (flag : BitVec 4) (q : Opnd) (k : BitVec 5) (s : State) : Out :=
  pushOp (.ppushGroup flag q k) true 1 0 none flag q k.toNat s

/-- PST_W_CORE (R275). -/
def execPstWCore (flag : BitVec 4) (p q : Opnd) (k : BitVec 5) (s : State) : Out :=
  pushOp (.pstWCore flag p q k) false 4 4 (some (pstData .w p)) flag q k.toNat s

/-- PST_D_CORE (R275). -/
def execPstDCore (flag : BitVec 4) (p q : Opnd) (k : BitVec 5) (s : State) : Out :=
  pushOp (.pstDCore flag p q k) false 8 5 (some (pstData .d p)) flag q k.toNat s

/-- PST_Q_CORE (R275). -/
def execPstQCore (flag : BitVec 4) (p q : Opnd) (k : BitVec 5) (s : State) : Out :=
  pushOp (.pstQCore flag p q k) false 16 6 (some (pstData .q p)) flag q k.toNat s

/-- PPUSH_CORE (R275). -/
def execPpushCore (flag : BitVec 4) (q : Opnd) (k : BitVec 5) (s : State) : Out :=
  pushOp (.ppushCore flag q k) false 1 0 none flag q k.toNat s

/-! ### At the home (R275, R276) -/

/-- A push in flight. -/
def State.push (s : State) (id : Nat) : Option Push := s.pushes.find? (fun p => decide (p.id = id))

/-- A push replaced by `f` of it. -/
def State.onPush (s : State) (id : Nat) (f : Push → Push) : State :=
  { s with pushes := s.pushes.map (fun p => if p.id = id then f p else p) }

/-- Whether an operation is of a push's thread and came before it. -/
def Push.after (p : Push) (o : MemOp) : Bool :=
  decide (o.id < p.id) && decide (o.core = p.core) && decide (o.slot = p.slot) && decide (o.uid = p.uid) && decide (o.tid = p.tid)

/-- Whether a copying matrix operation of a push's thread came before it and touches its bytes (R162, R231). -/
def Push.afterMat (p : Push) (m : MatOp) : Bool :=
  let mine (pa tid : Nat) : Bool := decide (m.id < p.id) && decide (m.uid = p.uid) && decide (m.slot = p.slot) &&
    decide (tid = p.tid) && overlap pa 512 p.addr p.n
  match m.kind with
  | .accld _ pa _ tid => mine pa tid
  | .accst _ pa _ tid => mine pa tid
  | _ => false

/-- Whether an earlier access of its thread holds a push back (R162, R280, R335): one to its bytes, by a memory operation, a push, a
matrix operation or a copy, or a release fence. -/
def State.pushHeld (s : State) (p : Push) : Bool :=
  s.ops.any (fun o => p.after o && ((o.page.isSome && overlap o.addr o.n p.addr p.n && !o.done) ||
    (decide (o.kind = .fenceRel) && p.data.isSome))) ||
  s.pushes.any (fun o => decide (o.id < p.id) && decide (o.core = p.core) && decide (o.slot = p.slot) && decide (o.uid = p.uid) &&
    decide (o.tid = p.tid) && !o.merged && overlap o.addr o.n p.addr p.n) ||
  (s.core p.core).matQ.any p.afterMat ||
  s.copies.any (fun o => decide (o.id < p.id) && decide (o.core = p.core) && decide (o.slot = p.slot) && decide (o.uid = p.uid) &&
    decide (o.tid = p.tid) && o.writes false p.addr p.n)

/-- The merge of a pst, or the read of a ppush, at its home (R275, R276); fills are on their way then, after what the home has sent
before (R306). An owner is recalled to I (R315), but the sender's cluster keeps its copy in S (R276). -/
def State.mergePush (s : State) (p : Push) : State :=
  let line := lineOf p.addr
  let cl := clusterOf p.core
  let keep := insertKey cl p.recv
  let s0 := s.touchHome line p.page.mode
  let s1 :=
    match p.data with
    | none => (s0.readHome p.core p.page.mode p.page.lease p.addr p.n).1
    | some v =>
      if s0.atBank line p.page.mode then s0.writeHome p.core p.page.mode p.addr p.n v 0 []
      else
        match p.page.mode with
        | .selfInv => s0.writeHome p.core .selfInv p.addr p.n v 0 []
        | _ =>
          let own := match s0.ownerCopy line with
            | some (a, _) => decide (a = cl)
            | none => false
          ((((s0.flushOwner line own).dropShared line keep).cancelReplies line p.recv).mergeHome p.addr p.n v 0).refreshCopy cl line
  s1.fresh.2.onPush p.id (fun x => { x with merged := true, seq := s1.fresh.1 })

/-- PUSH_MERGE_AT_HOME (R275): once the home serves no other request of the line and has a way for it (R308, R315), the line is
recalled, a reserved one within 64 cycles (R156, R279), and the push takes its place in the line's order. -/
def execPushMergeAtHome (push : Nat) (s : State) : Out :=
  match s.push push with
  | none => .next s
  | some p =>
    let line := lineOf p.addr
    if p.merged || s.pushHeld p || s.serving line || !s.homeRoom line then .next s
    else if s.ownerReserved line then
      let keeps := decide ((s.ownerCopy line).map Prod.fst = some (clusterOf p.core))
      .next (s.onHome line (fun x => { x with recalling := some (s.recallsToI line p.page.mode (p.data.isSome && !keeps), none) }))
    else .next (s.mergePush p)

/-! ### Fills (R277, R278) -/

/-- A receiver has answered: a refusal is counted at its cluster and for the thread (R282, R283). -/
def State.pushAnswered (s : State) (p : Push) (cluster : Nat) (refused : Bool) : State :=
  let s1 := s.onPush p.id (fun x => { x with recv := x.recv.filter (fun c => c != cluster) })
  if refused then
    (s1.onCluster cluster (fun c => { c with refused := min (c.refused + 1) 0xFFFF })).onUid p.core p.slot p.uid p.tid (fun t =>
      if t.life = .exited then t else { t with pushref := BitVec.ofNat 32 (min (t.pushref.toNat + 1) 0xFFFFFFFF) })
  else s1

/-- Whether a cluster holds a line validly (R278): an S copy, or a lease that some core could still hit. -/
def State.holdsValid (s : State) (cluster line : Nat) : Bool :=
  match s.copyOf cluster line with
  | some x =>
    match x.st with
    | .leased => (coresOf cluster).any (fun k => Time.le (s.core k).pts x.rts)
    | _ => true
  | none => false

/-- Whether a read miss of a cluster to a line is outstanding (R278): a load that may go, allocates, and has not taken its value; a load
of a sequentially consistent page is performed at the bank and misses in no L1 (R322). -/
def State.missOut (s : State) (cluster line : Nat) : Bool :=
  s.ops.any (fun o => decide (clusterOf o.core = cluster) && (o.page.map (fun t => !t.sc)).getD false && o.kind.loads && !o.done && decide (o.cache ≠ 2) &&
    decide (lineOf o.addr = line) && !s.ordered o)

/-- The line of a fill installed in a receiver's L1; older leases on their way to it are not (R279). -/
def State.installFill (s : State) (p : Push) (cluster : Nat) : State :=
  let line := lineOf p.addr
  let lease := match p.page.mode with
    | .selfInv => true
    | _ => false
  let h := s.lines.find line
  let x : L1Line :=
    { st := if lease then .leased else .s, data := s.lineData line, poison := s.linePoison line,
      wts := (h.map (fun y => y.wts)).getD 0#24, rts := (h.map (fun y => y.rts)).getD 0#24, keep := 0, filled := s.nextId - 1 }
  let s1 := (if lease then s else s.addFilter cluster line).install cluster line x
  if lease then s1.cancelLeases cluster (some line) else s1.refilterLine cluster line

/-- PUSH_FILL (R278): a receiving L1 refreshes, installs or refuses; what the home sent it before has arrived (R306). -/
def execPushFill (push cluster : Nat) (s : State) : Out :=
  match s.push push with
  | none => .next s
  | some p =>
    let line := lineOf p.addr
    if !p.merged || !p.recv.contains cluster || s.olderDue cluster (homeSlice p.addr) p.seq then .next s
    else
      let c := s.cluster cluster
      if !c.powered || s.atBank line p.page.mode then .next (s.pushAnswered p cluster true)
      else if s.holdsValid cluster line then
        let s1 := match p.page.mode with
          | .selfInv => s.renewCopy cluster line
          | _ => s.refreshCopy cluster line
        .next (s1.pushAnswered p cluster false)
      else if s.missOut cluster line && s.canInstall cluster line && decide (s.isleOfCluster cluster = some p.isle) then
        .next ((s.installFill p cluster).pushAnswered p cluster false)
      else if c.quota ≤ c.installs || !s.canInstall cluster line || decide (s.isleOfCluster cluster ≠ some p.isle) then
        .next (s.pushAnswered p cluster true)
      else
        let s1 := s.installFill p cluster
        .next ((s1.onCluster cluster (fun c => { c with installs := c.installs + 1 })).pushAnswered p cluster false)

/-- PUSH_COMPLETE (R280): every receiver has answered; the flag falls. -/
def execPushComplete (push : Nat) (s : State) : Out :=
  match s.push push with
  | none => .next s
  | some p =>
    if p.merged && p.recv.isEmpty then
      let s1 : State := { s with pushes := s.pushes.filter (fun x => decide (x.id ≠ push)) }
      .next (s1.onUid p.core p.slot p.uid p.tid (fun t => t.dropFlag p.flag))
    else .next s

/-- QUOTA_WINDOW_START (R281): in a cycle of the cluster's cores that is a multiple of 1024. -/
def execQuotaWindowStart (cluster : Nat) (s : State) : Out :=
  if s.coreCycle (4 * cluster) % 1024 = 0 then .next (s.onCluster cluster (fun c => { c with installs := 0 })) else .next s

/-! ### Permits (R285, R286) -/

/-- A permit of a cluster. -/
def State.permit (s : State) (cluster k : Nat) : Permit := FMap.get Permit.blank (s.cluster cluster).permits k

/-- PERMIT_ARM (R286). -/
def execPermitArm (p : Opnd) (k : BitVec 5) (s : State) : Out :=
  let i := Instr.permitArm p k
  sharedOp i noTrapS
    (fun c s =>
      match s.thread c.core c.slot c.tid with
      | none => .next (s, .stall)
      | some th =>
        let w := (th.readP c p).toNat
        let g := c.bounds.clip 1 (th.segs.getD 1 0#128)
        let o := 256 * bits w 11 0
        let n := 256 * (bits w 43 32 + 1)
        if segLimit g < o + n then
          .next (s, .trap ⟨causeSeg, (s.viewer c th).detail (wantOf i 1 n 0 false false) false 0, o⟩)
        else
          let x : Permit :=
            { key := bits w 63 48, armed := true, fwd := false, owner := crewId c.core c.slot, len := bits w 43 32,
              base := (segBase g + o) / 256 }
          .next (s.onCluster (clusterOf c.core) (fun y => { y with permits := y.permits.put k.toNat x }), .next)) s

/-- PERMIT_DROP (R286). -/
def execPermitDrop (k : BitVec 5) (s : State) : Out :=
  sharedOp (.permitDrop k) noTrapS
    (fun c s => .next (s.onCluster (clusterOf c.core) (fun y =>
      { y with permits := y.permits.modify k.toNat (fun x => { x with armed := false }) }), .next)) s

/-! ### Forwarding (R287, R288, R386) -/

/-- A permit whose forwarding has ended is disarmed. -/
def State.disarm (s : State) (cluster k : Nat) : State :=
  s.onCluster cluster (fun y => { y with permits := y.permits.modify k (fun x => if x.fwd then { x with armed := false } else x) })

/-- FORWARD_ENTRY_EXPIRY (R287, R386): after 2^16 cycles the entry goes and its permits disarm. -/
def execForwardEntryExpiry (fwd : Nat) (s : State) : Out :=
  match s.forwards.find fwd with
  | none => .next s
  | some f =>
    if f.till ≤ s.cycle then
      let held := f.permits.filter (fun k => decide (s.forwardOf (clusterOf f.oldCore) k = some f))
      .next (held.foldl (fun (u : State) k => u.disarm (clusterOf f.oldCore) k) { s with forwards := s.forwards.del fwd })
    else .next s

/-- PERMIT_FORWARD_EXPIRY (R288): a forwarded permit whose entry has expired is disarmed. -/
def execPermitForwardExpiry (cluster permit : Nat) (s : State) : Out :=
  match s.forwardOf cluster permit with
  | some f => if f.till ≤ s.cycle then .next (s.disarm cluster permit) else .next s
  | none => .next (s.disarm cluster permit)

end Sys2Proof.Machine
end

