-- ==== Sys2Proof/Machine/Copies.lean ====
section
/-! DEFINITION. Tile-walk engines (R289 to R304): tcopy's checks and acceptance, the engine's steps, multicasts, completion
counters, batches and cwait. -/

namespace Sys2Proof.Machine

/-! ### Plans (R291 to R294, R296) -/

/-- A copy plan. -/
structure Plan' where
  ctl : Nat
  mc : Nat
  esz : Nat
  ssp : Nat
  dsp : Nat
  sbase : Nat
  dbase : Nat
  inc : Nat
  dims : List Dim

/-- The plan that 128 bytes hold (R291, R292). -/
def planOf (x : Nat) : Plan' :=
  let word (k : Nat) : Nat := bits x (8 * k + 31) (8 * k)
  let ctl := word 16
  let base (k sp : Nat) : Nat := if sp = 0 then bits x (8 * k + 47) (8 * k) else word k
  { ctl := ctl, mc := word 24, esz := bits ctl 6 4, ssp := bits ctl 10 8, dsp := bits ctl 14 12,
    sbase := base 0 (bits ctl 10 8), dbase := base 8 (bits ctl 14 12),
    inc := if word 20 = 0 then 1 else word 20,
    dims := (List.range (bits ctl 2 0 + 1)).map (fun d =>
      { ext := word (32 + 4 * d), ss := signed 32 (word (64 + 4 * d)), ds := signed 32 (word (96 + 4 * d)) }) }

/-- Whether a plan is a multicast. -/
def Plan'.mcast (p : Plan') : Bool := bit p.ctl 15

/-- The scope-group entry of a multicast. -/
def Plan'.entry (p : Plan') : Nat := bits p.mc 20 16

/-- The COPY detail of a plan, if it is refused: the lowest reason (R296). -/
def Plan'.reason (p : Plan') (last : Nat) (empty : Bool) : Option Nat :=
  let zero := (List.range p.dims.length).find? (fun d => decide (((p.dims[d]?).map (fun x => x.ext)).getD 1 = 0))
  if bits p.ctl 31 21 ≠ 0 || bit p.ctl 11 || bit p.ctl 7 || bit p.ctl 3 || decide (last ≠ 0) ||
      (p.mcast && decide (bits p.mc 31 26 ≠ 0)) then some (2 ^ 28)
  else if 5 ≤ p.esz then some (2 * 2 ^ 28)
  else if !([0, 1, 3, 4, 6].contains p.ssp) then some (3 * 2 ^ 28)
  else if !([0, 1, 3, 6].contains p.dsp) || (p.mcast && decide (p.dsp ≠ 1)) then some (4 * 2 ^ 28)
  else
    match zero with
    | some d => some (5 * 2 ^ 28 + d * 2 ^ 25)
    | none =>
      if 2 ^ 32 < walkCount p.dims * 2 ^ p.esz then some (6 * 2 ^ 28)
      else if p.mcast && (decide (p.entry < 6) || empty) then some (7 * 2 ^ 28)
      else none

/-- The sum of the least, and of the greatest, offsets of a walk (R294). -/
def walkLow (f : Dim → Int) (l : List Dim) : Int := l.foldl (fun n d => n + min 0 (((d.ext : Int) - 1) * f d)) 0
def walkHigh (f : Dim → Int) (l : List Dim) : Int := l.foldl (fun n d => n + max 0 (((d.ext : Int) - 1) * f d)) 0

/-- Whether a base and the strides of a side are multiples of the element size (R295). -/
def sideAligned (f : Dim → Int) (l : List Dim) (base e : Nat) : Bool :=
  decide (base % e = 0) && l.all (fun d => decide (d.ext ≤ 1) || decide (f d % (e : Int) = 0))

/-! ### tcopy's checks (R295) -/

/-- The rank of a cause (R167). A precise MACHINE, which the rule's order leaves out, comes after PROT: the access that meets poison has
passed its checks (DESIGN CHOICE, log 96). -/
def causeRank (c : Nat) : Nat :=
  if c = causePriv then 0
  else if c = causeSeg then 1
  else if c = causeAlign then 2
  else if c = causePage then 3
  else if c = causeProt then 4
  else if c = causeMachine then 5
  else if c = causeFuture then 7
  else if c = causeTask then 8
  else 6

/-- The trap among several in their order (R167, R295): the highest rank, the first of equals. -/
def firstRaise (l : List Raise) : Option Raise := bestOf (fun (a b : Raise) => decide (causeRank a.cause < causeRank b.cause)) l

/-- Some pages checked, each at its lowest byte touched, in ascending order: PAGE before PROT (R149, R295). -/
def State.checkPages (s : State) (v : Viewer) (w : Want) (vas : List Nat) : Except Raise (List Hit) :=
  let all := vas.map (fun a => s.checkPage v w a)
  let errs := all.filterMap (fun x => match x with | .error r => some r | .ok _ => none)
  match firstRaise errs with
  | some r => .error r
  | none => .ok (all.filterMap (fun x => match x with | .error _ => none | .ok h => some h))

/-- The pages that a walk touches in a virtual space, each by its lowest byte touched (R294). -/
def touchedVas (f : Dim → Int) (l : List Dim) (base : Int) : List Nat :=
  ((List.range (walkCount l)).foldl (fun (m : FMap Nat) n =>
    let va := wrap 48 (base + walkOffset f l n)
    m.put (va / 4096) (match m.find (va / 4096) with | some a => min a va | none => va)) []).map Prod.snd

/-- Translations of hits. -/
def pagesOf (l : List Hit) : List Tlb := l.filterMap (fun h => h.page)

/-- What a side of a copy passes with: its base as it is used, and its pages. -/
abbrev SideOk := Except Raise (Int × List Tlb)

/-- The checks of a side (R295, steps 4 and 5); a trap's address is the lo of the extent (R294), or its page's lowest byte. -/
def State.checkSide (s : State) (v : Viewer) (i : Instr) (sp base e : Nat) (f : Dim → Int) (l : List Dim) (wr : Bool) : SideOk :=
  let g := v.seg sp
  let lo : Int := base + walkLow f l
  let n := (walkHigh f l - walkLow f l).toNat + e
  let w := wantOf i sp n 0 (!wr) wr
  let a := formAddr g sp n base (walkLow f l)
  let used : Int := if sp = 0 then base else (segBase g + base : Nat)
  if v.sRefuses w then .error ⟨causePriv, v.detail w false 0, wrap 48 lo⟩
  else if !a.inside then .error ⟨causeSeg, v.detail w false 0, a.fault⟩
  else if !sideAligned f l base e then .error ⟨causeAlign, v.detail w false 0, wrap 48 lo⟩
  else if sp = 1 then
    if (wr && !segW g) || (!wr && !segR g) then .error ⟨causeProt, v.detail w true 0, wrap 48 lo⟩ else .ok (used, [])
  else
    match s.checkPages v w (touchedVas f l used) with
    | .error r => .error r
    | .ok hits => .ok (used, pagesOf hits)

/-- The check of a multicast's destination (R295): alignment only. -/
def checkMcast (v : Viewer) (i : Instr) (p : Plan') : SideOk :=
  let e := 2 ^ p.esz
  if sideAligned (fun d => d.ds) p.dims p.dbase e then .ok (p.dbase, [])
  else .error ⟨causeAlign, v.detail (wantOf i 1 e 0 false true) false 0,
    wrap 48 ((p.dbase : Int) + walkLow (fun d => d.ds) p.dims)⟩

/-- The plan read (R295, step 2): the state after it and its bytes. -/
def State.readPlan (s : State) (v : Viewer) (i : Instr) (va : Nat) : Except Raise (State × Nat) :=
  let w := wantOf i 0 128 0 true false
  let a := formAddr (v.seg 0) 0 128 va 0
  if v.sRefuses w then .error ⟨causePriv, v.detail w false 0, va⟩
  else if !a.inside then .error ⟨causeSeg, v.detail w false 0, va⟩
  else if va % 64 ≠ 0 then .error ⟨causeAlign, v.detail w false 0, va⟩
  else
    let vas := if va % 4096 = 4032 then [va, va + 64] else [va]
    match s.checkPages v w vas with
    | .error r => .error { r with fault := va }
    | .ok hits =>
      let pages := pagesOf hits
      let half (k : Nat) (t : State) : State × Nat × Bool :=
        let pa := paUnder pages (va + 64 * k)
        let page := (pages.find? (fun (x : Tlb) => x.covers (va + 64 * k))).getD (mPage pa)
        t.readHome v.core page.mode page.lease pa 64
      match half 0 (s.notePages v.core pages) with
      | (s1, x, bad0) =>
        match half 1 s1 with
        | (s2, y, bad1) =>
          if bad0 || bad1 then .error ⟨causeMachine, v.detail w false 0, va⟩ else .ok (s2, x + y * 2 ^ 512)

/-- The check of a completion counter (R295, R300). -/
def State.checkCounter (s : State) (v : Viewer) (i : Instr) (va : Nat) (wr : Bool) : Except Raise Hit :=
  let w := wantOf i 0 16 0 true wr
  if v.sRefuses w then .error ⟨causePriv, v.detail w false 0, va⟩
  else s.checkFormed v w (formAddr (v.seg 0) 0 16 va 0)

/-! ### The engine's queues (R289, R290) -/

/-- Whether a copy has been spilled. -/
def Copy.isSpilled (c : Copy) : Bool :=
  match c.stage with
  | .spilled _ => true
  | _ => false

/-- The copies of a core's engine, in the order of acceptance. -/
def State.copiesOf (s : State) (core : Nat) : List Copy := s.copies.filter (fun c => decide (c.core = core))

/-- Whether a core's load queue is full, entries that spilled copies will take counted in (R289). -/
def State.loadFull (s : State) (core : Nat) : Bool := decide (16 ≤ ((s.copiesOf core).filter Copy.unread).length)

/-- The spill-ring slots that a thread has in use (R290). -/
def State.slotsInUse (s : State) (c : Ctx) : List Nat :=
  (s.copies.filter (fun x => decide (x.core = c.core) && decide (x.uid = c.uid) && decide (x.tid = c.tid))).filterMap (fun x =>
    match x.stage with
    | .spilled j => some j
    | _ => none)

/-- The slot that a thread's next spill takes (R290). -/
def State.spillSlot (s : State) (c : Ctx) (first : Nat) : Option Nat :=
  ((List.range 16).map (fun k => (first + k) % 16)).find? (fun j => !(s.slotsInUse c).contains j)

/-- The check of a spill-ring slot (R295, step 7): reported as SPILL, with the slot's virtual address whatever the cause (DESIGN CHOICE,
log 60). The answer is the lines that the slot lies in, with the bytes of each. -/
def State.checkSlot (s : State) (v : Viewer) (i : Instr) (j : Nat) : Except Raise (List (Hit × Nat)) :=
  let w := wantOf i 3 128 0 false true
  let a := formAddr (v.seg 3) 3 128 (128 * j) 0
  let spill (cause : Nat) : Raise := ⟨causeSpill, cause * 2 ^ 24 + j, a.addr⟩
  if v.sRefuses w then .error ⟨causePriv, v.detail w false 0, a.addr⟩
  else if !a.inside then .error (spill causeSeg)
  else
    match s.checkPages v w ((rangeLines a.addr 128).map Prod.fst) with
    | .error r => .error (spill r.cause)
    | .ok hits => .ok (List.zip hits ((rangeLines a.addr 128).map Prod.snd))

/-- Whether an earlier access of a thread to some bytes of memory has still to take its place (R162). -/
def State.ownPending (s : State) (c : Ctx) (pa n : Nat) : Bool :=
  s.ops.any (fun o => decide (o.core = c.core) && decide (o.slot = c.slot) && decide (o.uid = c.uid) && decide (o.tid = c.tid) &&
    o.page.isSome && !o.done && overlap o.addr o.n pa n) ||
  s.pushes.any (fun o => decide (o.core = c.core) && decide (o.slot = c.slot) && decide (o.uid = c.uid) && decide (o.tid = c.tid) &&
    !o.merged && overlap o.addr o.n pa n) ||
  (s.core c.core).matQ.any (fun m => decide (m.slot = c.slot) && decide (m.uid = c.uid) &&
    (match m.kind with
     | .accld _ a _ t => decide (t = c.tid) && overlap a 512 pa n
     | .accst _ a _ t => decide (t = c.tid) && overlap a 512 pa n
     | _ => false))

/-- Whether a thread's read, or write, of `n` bytes within a line waits before it issues (R162, R308, R315). -/
def State.mustWait (s : State) (c : Ctx) (pa n : Nat) : Bool := s.ownPending c pa n || s.busyAt pa

/-- As `mustWait`, for blocks of `n` bytes at virtual addresses (R325). -/
def State.blocksWait (s : State) (c : Ctx) (isle n : Nat) (vas : List Nat) : Bool :=
  vas.any (fun va =>
    match s.translate c.core isle va with
    | .leaf t _ => s.mustWait c (t.pa va) n
    | .absent _ _ => false)

/-- The lines of a spill-ring slot as its copy keeps them (R290). -/
def ringOf (hs : List (Hit × Nat)) : List (Nat × Nat × Tlb) := hs.map (fun x => (x.1.pa, x.2, x.1.page.getD (mPage x.1.pa)))

/-- The lines of a copy's slot, as its engine accesses them. -/
def Copy.ringHits (c : Copy) : List (Hit × Nat) := c.ring.map (fun x => (⟨x.1, x.1, some x.2.2⟩, x.2.1))

/-- A copy accepted (R297): its flag rises, and it enters the load queue or its thread's ring. One that touches an SC page holds its
thread until it has completed (R163, R335). -/
def State.acceptCopy (s : State) (x : Copy) (spill : Option (Nat × List (Hit × Nat) × Nat)) : State :=
  let id := s.fresh.1
  let s1 := s.fresh.2
  let y : Copy := match spill with
    | some (j, hs, raw) => { x with id := id, stage := .spilled j, ring := ringOf hs, check := Config.slotCheck raw }
    | none => { x with id := id }
  let s2 : State := { s1 with copies := s1.copies ++ [y] }
  let s3 := match spill with
    | some (_, hs, raw) => State.writeHits x.core hs raw s2
    | none => s2
  let sc := (x.spages ++ x.dpages).any (fun t => t.sc)
  (s3.notePages x.core (x.spages ++ x.dpages ++ x.cpage.toList)).onThread x.core x.slot x.tid (fun t =>
    let u := t.raiseFlag x.flag
    { u with waitAll := if sc then id :: u.waitAll else u.waitAll, unsealed := u.unsealed ++ [id], spillNext := match spill with | some (j, _, _) => (j + 1) % 16 | none => u.spillNext })

/-- The copy of a plan whose sides and counter have passed. -/
def copyOfPlan (c : Ctx) (isle flag : Nat) (p : Plan') (src dst : Int × List Tlb) (counter : Hit) (cores : List Nat) : Copy :=
  { id := 0, core := c.core, slot := c.slot, tid := c.tid, uid := c.uid, isle := isle, flag := flag, esz := p.esz,
    ssp := p.ssp, dsp := p.dsp, sbase := src.1, dbase := dst.1, dims := p.dims, inc := p.inc, scope := bits p.ctl 20 16,
    counter := counter.pa, cpage := counter.page, spages := src.2, dpages := dst.2, mcast := p.mcast, key := bits p.mc 15 0,
    permit := bits p.mc 25 21,
    recv := if p.mcast then (clustersOf cores).map (fun k => (k, Verdict.waiting)) else [],
    stage := .queued, next := 0, buf := [], ring := [], check := 0#32 }

/-- TCOPY (R295, R297). -/
def execTcopy (flag : BitVec 4) (p q : Opnd) (s : State) : Out :=
  let i := Instr.tcopy flag p q
  sharedOp i (accessPre (wantOf i 0 128 0 true false) p)
    (fun c s =>
      match s.thread c.core c.slot c.tid with
      | none => .next (s, .stall)
      | some th =>
        let v := s.viewer c th
        let pva := (th.readP c p).toNat % 2 ^ 48
        let cva := (th.readP c q).toNat % 2 ^ 48
        let slot := s.spillSlot c th.spillNext
        let counter := s.checkCounter v i cva true
        let bad (l : List Raise) : Act1 :=
          match firstRaise l with
          | some r => .next (s, .trap r)
          | none => .next (s, .stall)
        let err {α : Type} (x : Except Raise α) : List Raise := match x with
          | .error r => [r]
          | .ok _ => []
        if s.loadFull c.core && slot.isNone then .next (s, .stall)
        else if s.blocksWait c v.isle 64 [pva, pva + 64] then .next (s, .stall)
        else
          match s.readPlan v i pva with
          | .error r => bad (r :: err counter)
          | .ok (s1, raw) =>
            let pl := planOf raw
            let cores := s.groupCores v.isle pl.entry
            match pl.reason (bits raw 255 224) cores.isEmpty with
            | some d => .next (s, .trap ⟨causeCopy, d, pva⟩)
            | none =>
              let e := 2 ^ pl.esz
              let src := s1.checkSide v i pl.ssp pl.sbase e (fun d => d.ss) pl.dims false
              let dst := if pl.mcast then checkMcast v i pl else s1.checkSide v i pl.dsp pl.dbase e (fun d => d.ds) pl.dims true
              match src, dst, counter with
              | .ok a, .ok b, .ok h =>
                let x := copyOfPlan c v.isle flag.toNat pl a b h (s.withMoved cores)
                if s.loadFull c.core then
                  match slot with
                  | none => .next (s, .stall)
                  | some j =>
                    match s1.checkSlot v i j with
                    | .error r => .next (s, .trap r)
                    | .ok hs =>
                      if hs.any (fun x => s.mustWait c x.1.pa x.2) then .next (s, .stall)
                      else .next (s1.acceptCopy x (some (j, hs, raw)), .next)
                else .next (s1.acceptCopy x none, .next)
              | _, _, _ => bad (err src ++ err dst ++ err counter)) s

/-! ### The engine's steps (R289, R290, R293, R297) -/

/-- A copy in flight. -/
def State.copy (s : State) (id : Nat) : Option Copy := s.copies.find? (fun c => decide (c.id = id))

/-- A copy replaced by `f` of it. -/
def State.onCopy (s : State) (id : Nat) (f : Copy → Copy) : State :=
  { s with copies := s.copies.map (fun c => if c.id = id then f c else c) }

/-- COPY_START (R289): the first copy that has not started starts, if it stands in the load queue. -/
def execCopyStart (core : Nat) (s : State) : Out :=
  match (s.copiesOf core).find? (fun c => c.isSpilled || decide (c.stage = .queued)) with
  | some c => if c.stage = .queued then .next (s.onCopy c.id (fun x => { x with stage := .running })) else .next s
  | none => .next s

/-- SPILL_SLOT_READBACK (R290): the first spilled copy is read back once the load queue has room; one that does not match its
check word, or is poisoned, is abandoned. -/
def execSpillSlotReadback (copy : Nat) (s : State) : Out :=
  match s.copy copy with
  | none => .next s
  | some c =>
    let first := (((s.copiesOf c.core).find? Copy.isSpilled).map (fun (x : Copy) => x.id)) = some copy
    let room := ((s.copiesOf c.core).filter (fun x => x.unread && !x.isSpilled)).length < 16
    if !c.isSpilled || !first || !room then .next s
    else
      match s.awaitLines (hitLines c.ringHits) false with
      | some s1 => .next s1
      | none =>
        match State.readHits c.core c.ringHits s with
        | (s1, x) =>
          let good := (s.poisonIn c.ringHits).isNone && decide (Config.slotCheck x = c.check)
          .next (s1.onCopy copy (fun z => { z with stage := if good then .queued else .abandoned }))

/-- As `earlierHolds`, for a copy. -/
def State.copyHeld (s : State) (c : Copy) (pad wr : Bool) (addr n : Nat) : Bool :=
  s.earlierHolds c.id c.core c.slot c.uid c.tid pad wr addr n

/-- The elements of one line read: those that follow in walk order and lie in the same source and destination lines; the
fuel is what is left of the walk. -/
def Copy.lineGroup (c : Copy) (src : Nat) (dst : Int) : Nat → Nat → List Nat
  | 0, _ => []
  | k + 1, n =>
    if c.srcPa n / 128 = src ∧ c.dstAt n / 128 = dst then n :: c.lineGroup src dst k (n + 1) else []

/-- The translation under which an element is read, or written. -/
def Copy.srcPage (c : Copy) (n : Nat) : Tlb :=
  (c.spages.find? (fun (t : Tlb) => t.covers (wrap 48 (c.srcAt n)))).getD (mPage (c.srcPa n))
def Copy.dstPage (c : Copy) (n : Nat) : Tlb :=
  (c.dpages.find? (fun (t : Tlb) => t.covers (wrap 48 (c.dstAt n)))).getD (mPage (c.dstPa n))

/-- An element read (R297). -/
def State.readElement (s : State) (c : Copy) (n : Nat) : State × Element :=
  if c.ssp = 1 then
    let cl := clusterOf c.core
    (s, { idx := n, val := s.readSpad cl (c.srcPa n) c.bytes, bad := s.spadBad cl (c.srcPa n) c.bytes })
  else
    let t := c.srcPage n
    match s.readHome c.core t.mode t.lease (c.srcPa n) c.bytes with
    | (s1, v, bad) => (s1, { idx := n, val := v, bad := bad })

/-- Elements read one after another. -/
def State.readElements (c : Copy) : List Nat → State → State × List Element
  | [], s => (s, [])
  | n :: l, s =>
    match s.readElement c n with
    | (s1, e) =>
      match State.readElements c l s1 with
      | (s2, es) => (s2, e :: es)

/-- The place of unit `u` among the 256-byte units that some ranges list. -/
def unitIndex (u : Nat) : List (Nat × Nat) → Nat → Option Nat
  | [], _ => none
  | (a, n) :: l, k => if a ≤ u ∧ u < a + n then some (k + (u - a)) else unitIndex u l (k + n)

/-- A 32-bit word of an image of an isle, by its virtual address. -/
def State.imageWord (s : State) (isle va : Nat) : Nat :=
  match s.walk isle va with
  | .leaf t _ => s.peekNat (t.pa va) 4
  | .absent _ _ => 0

/-- The virtual address in an image of a byte of its owner's scratchpad (R260, R288). -/
def State.imageAt (s : State) (isle va off : Nat) : Option Nat :=
  let scratch := s.imageWord isle (va + 40)
  let n := min (s.imageWord isle (va + scratch)) 4096
  let ranges := (List.range n).map (fun k =>
    (s.imageWord isle (va + scratch + 4 + 8 * k) / 256, s.imageWord isle (va + scratch + 8 + 8 * k) / 256))
  (unitIndex (off / 256) ranges 0).map (fun k => va + alignUp (scratch + 4 + 8 * n) 256 + 256 * k + off % 256)

/-- Where a receiver of a multicast takes element `n` in memory: in the image of its owner (R288). -/
def State.imagePlace (s : State) (c : Copy) (n : Nat) (v : Verdict) : Option (Nat × Tlb) :=
  match v with
  | .accepted _ base (some (isle, va)) =>
    match s.imageAt isle va (base + (c.dstAt n).toNat) with
    | none => none
    | some a =>
      match s.walk isle a with
      | .leaf t _ => some (t.pa a, t)
      | .absent _ _ => none
  | _ => none

/-- The places that element `n` of a copy goes to, as far as its own thread may have accessed them: in the scratchpad of its cluster, or in
memory. -/
def State.elemPlaces (s : State) (c : Copy) (n : Nat) : List (Bool × Nat) :=
  if c.mcast then
    (s.padBases c).map (fun (b : Nat) => (true, ((b : Int) + c.dstAt n).toNat)) ++
      (c.recv.filterMap (fun r => s.imagePlace c n r.2)).map (fun x => (false, x.1))
  else [(decide (c.dsp = 1), c.dstPa n)]

/-- Whether an earlier access of its thread holds back the writes of some elements of a copy (R297, R335, R346): one to their bytes, or a
release fence. -/
def State.writesHeld (s : State) (c : Copy) (l : List Nat) : Bool :=
  s.fencedBefore c.id c.core c.slot c.uid c.tid || l.any (fun n => (s.elemPlaces c n).any (fun x => s.copyHeld c x.1 true x.2 c.bytes))

/-- Whether a read of some elements waits: for what R297 puts before it, or because the group could not be written yet and would keep
its store-queue entry from an earlier copy that has still to be read, which it may itself wait for (DESIGN CHOICE, log 109). -/
def State.readHeld (s : State) (c : Copy) (l : List Nat) : Bool :=
  l.any (fun n => s.copyHeld c (decide (c.ssp = 1)) false (c.srcPa n) c.bytes) ||
    ((s.copiesOf c.core).any (fun x => decide (x.id < c.id) && x.unread) && s.writesHeld c l)

/-- COPY_LINE_READ (R289): one source line of a running copy is read into the store queue, which has sixteen entries. -/
def execCopyLineRead (copy : Nat) (s : State) : Out :=
  match s.copy copy with
  | none => .next s
  | some c =>
    let used := (s.copiesOf c.core).foldl (fun n x => n + x.buf.length) 0
    let l := c.lineGroup (c.srcPa c.next / 128) (c.dstAt c.next / 128) (c.count - c.next) c.next
    if c.stage ≠ .running ∨ 16 ≤ used ∨ s.readHeld c l = true then .next s
    else
      match if c.ssp = 1 then none else s.await (lineOf (c.srcPa c.next)) (c.srcPage c.next).mode false with
      | some s1 => .next s1
      | none =>
        match State.readElements c l s with
        | (s1, es) =>
          .next (s1.onCopy copy (fun x =>
            let next := c.next + l.length
            { x with next := next, buf := x.buf ++ [es], stage := if c.count ≤ next then .ended else x.stage }))

/-- An element written in a cluster's scratchpad; poisoned data as poison (R270, R297). -/
def State.putPad (s : State) (cl off n : Nat) (e : Element) : State :=
  let s1 := s.writeSpad cl off n e.val
  if e.bad then s1.poisonSpad cl off n else s1

/-- Whether a cluster's L1 owns a line in M or E, as the line's home knows (R314). -/
def State.ownsLine (s : State) (cl line : Nat) : Bool :=
  match s.ownerCopy line with
  | some (a, x) => decide (a = cl) && x.owned
  | none => false

/-- A line obtained for a store of a copy on a directory-tracked page (R153, R297, R314): its cluster's L1 holds it in M or E, where it
has a way for it. -/
def State.ownLine (s : State) (cl line : Nat) : State :=
  if s.ownsLine cl line || !s.canInstall cl line then s
  else
    let s1 := (((s.flushOwner line false).dropShared line []).makeWay cl line).addFilter cl line
    ((s1.onHome line (fun h => { h with owner := some cl })).dropPeers line).setCopy cl line
      (some { st := .e, data := s1.lineData line, poison := s1.linePoison line, wts := 0#24, rts := 0#24, keep := 0, filled := s1.nextId - 1 })

/-- An element written at an address of memory, as a store of the issuing thread at normal cache policy (R153, R297): in the L1 that
holds its line, else at the home; all its bytes in one act (R151). -/
def State.putMem (s : State) (core : Nat) (t : Tlb) (pa n : Nat) (e : Element) : State :=
  let line := lineOf pa
  let cl := clusterOf core
  let bad := if e.bad then granulesOf (pa % 128) n else 0
  let s0 := s.touchHome line t.mode
  let s1 := if decide (t.mode = .dir) && !s0.bankPage t line then s0.ownLine cl line else s0
  match s1.ownerCopy line with
  | some (_, x) =>
    if s1.ownsLine cl line then
      (s1.setCopy cl line (some { x with
        st := .m, data := putData x.data (pa % 128) n e.val, poison := poisonAfter x.poison (pa % 128) n bad })).endRsv line
    else s1.writeHome core t.mode pa n e.val bad []
  | none => s1.writeHome core t.mode pa n e.val bad []

/-- An element delivered to a receiver of a multicast (R288, R303). -/
def State.deliverTo (s : State) (c : Copy) (e : Element) (v : Verdict) : State :=
  match v with
  | .accepted cl base none => s.putPad cl (base + (c.dstAt e.idx).toNat) c.bytes e
  | _ =>
    match s.imagePlace c e.idx v with
    | some (pa, t) => s.putMem c.core t pa c.bytes e
    | none => s

/-- An element of a copy written to its destination (R297, R303). -/
def State.writeElement (s : State) (c : Copy) (e : Element) : State :=
  if c.mcast then c.recv.foldl (fun (u : State) r => u.deliverTo c e r.2) s
  else if c.dsp = 1 then s.putPad (clusterOf c.core) (c.dstPa e.idx) c.bytes e
  else s.putMem c.core (c.dstPage e.idx) (c.dstPa e.idx) c.bytes e

/-- What the writes of some elements wait for at the homes of their lines (R156, R308, R315). -/
def State.writeWaits (s : State) (c : Copy) (g : List Element) : Option State :=
  if c.mcast then
    s.awaitLines ((g.map (fun e => (c.recv.filterMap (fun r => s.imagePlace c e.idx r.2)).map (fun x => (lineOf x.1, x.2.mode)))).flatten) true
  else if c.dsp = 1 then none
  else s.awaitLines (g.map (fun e => (lineOf (c.dstPa e.idx), (c.dstPage e.idx).mode))) true

/-- Whether every receiver of a copy has decided. -/
def Copy.decided (c : Copy) : Bool := c.recv.all (fun r => decide (r.2 ≠ .waiting))

/-- COPY_LINE_WRITE (R289): the oldest group of a copy in the store queue is written. -/
def execCopyLineWrite (copy : Nat) (s : State) : Out :=
  match s.copy copy with
  | none => .next s
  | some c =>
    match c.buf with
    | [] => .next s
    | g :: rest =>
      if !c.decided || s.writesHeld c (g.map Element.idx) then .next s
      else
        match s.writeWaits c g with
        | some s1 => .next s1
        | none => .next ((g.foldl (fun (u : State) e => u.writeElement c e) s).onCopy copy (fun x => { x with buf := rest }))

/-! ### Multicasts (R303) -/

/-- Where a moved owner takes what its old cluster accepts for it, at an offset from its seg.1.base (R386): where it is resident now, or
after a save in its image (R288; after a second move or a save DESIGN CHOICE, log 111); nowhere once it has ended (R286). -/
def State.ownerPlace (s : State) (uid off : Nat) : Option Verdict :=
  match (s.cores.map (fun c => (c.2.crews.find? (fun w => decide (w.2.uid = uid))).map (fun w => (c.1, w.2.spadBase)))).findSome? id with
  | some (core, base) => some (.accepted (clusterOf core) (4096 * base + off) none)
  | none => (s.saved.find? (fun w => decide (w.uid = uid))).map (fun w => .accepted 0 off (some (w.isle, w.image)))

/-- Where a receiver that accepts takes a delivery (R288, R303, R386): its permit's range, or where its owner has gone. -/
def State.landing (s : State) (cluster k : Nat) (p : Permit) : Option Verdict :=
  if p.fwd then
    match s.forwardOf cluster k with
    | none => none
    | some f =>
      let off := 256 * p.base - 4096 * f.spad
      if f.till ≤ s.cycle then none
      else
        match f.image with
        | some va => some (.accepted cluster off (some (f.isle, va)))
        | none => s.ownerPlace f.uid off
  else some (.accepted cluster (256 * p.base) none)

/-- What a receiver decides (R303). -/
def State.verdict (s : State) (c : Copy) (cluster : Nat) : Verdict :=
  let p := s.permit cluster c.permit
  let lo := c.dbase + walkLow (fun d => d.ds) c.dims
  let hi := c.dbase + walkHigh (fun d => d.ds) c.dims + (c.bytes : Int)
  if p.armed && decide (p.key = c.key) && decide (0 ≤ lo) && decide (hi ≤ 256 * ((p.len : Int) + 1)) &&
      decide (s.isleOfCluster cluster = some c.isle) && (s.cluster cluster).powered then
    (s.landing cluster c.permit p).getD .refused
  else .refused

/-- MULTICAST_DELIVERY (R303): a receiver decides when the first line of its delivery arrives. -/
def execMulticastDelivery (copy cluster : Nat) (s : State) : Out :=
  match s.copy copy with
  | none => .next s
  | some c =>
    if c.recv.find cluster = some .waiting ∧ c.buf ≠ [] then
      let v := s.verdict c cluster
      .next (s.onCopy copy (fun x => { x with recv := x.recv.put cluster v }))
    else .next s

/-! ### Completion (R298, R299) -/

/-- A completion counter's new value (R299). -/
def counterNext (old : Nat) (add refused : Nat) (err : Bool) : Nat :=
  (bits old 62 0 + add) % 2 ^ 63 + b2n (bit old 63 || err) * 2 ^ 63 + (bits old 127 64 + refused) % 2 ^ 64 * 2 ^ 64

/-- A completion counter updated at its home bank, unless it is poisoned (R299). -/
def State.updateCounter (s : State) (core pa : Nat) (page : Option Tlb) (f : Nat → Nat) : State :=
  let t := page.getD (mPage pa)
  match s.readHome core t.mode t.lease pa 16 with
  | (s1, v, bad) => if bad then s1 else s.writeHome core t.mode pa 16 (f v) 0 []

/-- Whether a thread's batch wait is over: no uncompleted batch has the number (R302). -/
def Thread.batchDone (th : Thread) (n : Word) : Bool := th.batches.all (fun b => decide (b.num ≠ n))

/-- A copy is over for its thread: batches that it completes are forgotten, and a twait that waited for them ends (R302). -/
def Thread.copyOver (th : Thread) (id : Nat) : Thread :=
  let rest := (th.batches.map (fun (b : Batch) => { b with copies := b.copies.filter (fun k => k != id) })).filter (fun (b : Batch) => !b.copies.isEmpty)
  let t : Thread := { th with batches := rest, unsealed := th.unsealed.filter (fun k => k != id) }
  match th.life with
  | .parked (.batch n) => if t.batchDone n then t.wake else t
  | .frozen (some (.batch n)) => if t.batchDone n then t.wake else t
  | _ => t

/-- A copy that is over: its flag falls (R298). -/
def State.dropCopy (s : State) (c : Copy) : State :=
  { s with copies := s.copies.filter (fun x => decide (x.id ≠ c.id)) }.onUid c.core c.slot c.uid c.tid (fun t =>
    (t.dropFlag c.flag).copyOver c.id)

/-- The counter of a copy that is over is updated at its home, once that serves no other request (R299, R315); then the copy's flag
falls. -/
def State.endCopy (s : State) (c : Copy) (f : Nat → Nat) : State :=
  match s.await (lineOf c.counter) (c.cpage.getD (mPage c.counter)).mode true with
  | some s1 => s1
  | none => (s.updateCounter c.core c.counter c.cpage f).dropCopy c

/-- COPY_COMPLETE (R298, R299): all bytes are performed; the counter is updated, then the flag falls. -/
def execCopyComplete (copy : Nat) (s : State) : Out :=
  match s.copy copy with
  | none => .next s
  | some c =>
    match c.stage with
    | .abandoned => .next (s.endCopy c (fun v => counterNext v 0 0 true))
    | .ended =>
      if c.buf.isEmpty && c.decided then
        let n := if c.mcast then c.recv.length else 1
        let refused := (c.recv.filter (fun r => decide (r.2 = .refused))).length
        .next (s.endCopy c (fun v => counterNext v (c.inc * n) refused false))
      else .next s
    | _ => .next s

/-! ### Batches and counters (R300, R302) -/

/-- TSEAL (R302). -/
def execTseal (p : Opnd) (s : State) : Out :=
  sharedOp (.tseal p) noTrapS
    (fun c s =>
      match s.thread c.core c.slot c.tid with
      | none => .next (s, .stall)
      | some th =>
        if 8 ≤ th.batches.length then .next (s, .stall)
        else
          let live := th.unsealed.filter (fun k => s.inFlight k)
          let b : Batch := { num := th.readW c p, copies := live }
          .next (s.onThread c.core c.slot c.tid (fun t =>
            { t with unsealed := [], batches := if live.isEmpty then t.batches else t.batches ++ [b] }), .next)) s

/-- TWAIT (R302). -/
def execTwait (p : Opnd) (s : State) : Out :=
  sharedOp (.twait p) noTrapS
    (fun c s =>
      match s.thread c.core c.slot c.tid with
      | none => .next (s, .stall)
      | some th =>
        let n := th.readW c p
        .next (s, if th.batchDone n then .next else .park (.batch n) false)) s

/-- CWAIT (R300). -/
def execCwait (p q : Opnd) (k : BitVec 5) (s : State) : Out :=
  let i := Instr.cwait p q k
  let w := wantOf i 0 16 0 true false
  sharedOp i (accessPre w p)
    (fun c s => s.access c w p (fun th h s1 =>
      let target := bits (th.readP c q).toNat 62 0
      match h.pageFor false w with
      | none => .next (s, .stall)
      | some t =>
        if s.mustWait c h.pa 16 then .next (s, .stall)
        else
          match s1.readHome c.core t.mode t.lease h.pa 8 with
          | (s2, v, bad) =>
            if bad then .next (s, .trap ⟨causeMachine, (s.viewer c th).detail w false 0, h.addr⟩)
            else if counterReached v target then
              .next (s2.acquire (clusterOf c.core) k.toNat none, .next)
            else .next (s2, .park (.counter h.pa target) true))) s

/-- CWAIT_WAKE (R300): a write to the counter has ended the wait; the cwait reads it again. -/
def execCwaitWake (core slot tid : Nat) (s : State) : Out :=
  match s.thread core slot tid with
  | none => .next s
  | some th =>
    match th.parkOf with
    | some (.counter pa target) =>
      if counterReached (s.peekNat pa 8) target || s.peekPoison pa 8 then .next (s.onThread core slot tid (fun t => t.wake))
      else .next s
    | _ => .next s

end Sys2Proof.Machine
end

