-- ==== Sys2Proof/Machine/Paging.lean ====
section
/-! DEFINITION. scgset (R332, R333), tlbinv (R327) and atp (R328). -/

namespace Sys2Proof.Machine

/-! ### scgset -/

/-- The cores of an isle as a mask (R333). -/
def State.isleMask (s : State) (isle : Nat) : Nat := (s.isleCores isle).foldl (fun m c => m + 2 ^ c) 0

/-- A scope-group entry written from a descriptor's bytes (R333). -/
def State.putGroup (s : State) (isle n x : Nat) : State :=
  s.onIsle isle (fun y => { y with groups := y.groups.put n (BitVec.ofNat 384 (x % 2 ^ 384 &&& s.isleMask isle)) })

/-- SCGSET (R333). -/
def execScgset (a : Opnd) (n : BitVec 5) (s : State) : Out :=
  let i := Instr.scgset a n
  let w := wantOf i 0 64 0 true false
  bothOp i (accessPre w a)
    (fun c s => s.access c w a (fun th h s1 =>
      if !s.settled c || s.mustWait c h.pa 64 then .next (s, .stall)
      else
        let t := h.page.getD (mPage h.pa)
        match s1.readTarget c.core t h.pa 64 with
        | (s2, x, bad) =>
          if bad then .next (s, .trap ⟨causeMachine, (s.viewer c th).detail w false 0, h.addr⟩)
          else .next (s2.putGroup (s.isleNo c.core) n.toNat x, .next)))
    (fun core _ s => s.laneAccess core w a (fun h s1 =>
      let t := h.page.getD (mPage h.pa)
      match s1.readTarget core t h.pa 64 with
      | (s2, x, bad) =>
        if bad then .next (s, .exc ⟨causeMachine, (s.laneViewer core).detail w false 0, h.addr⟩)
        else .next (s2.putGroup (s.isleNo core) n.toNat x, .next))) s

/-! ### tlbinv -/

/-- Whether a translation is one that an extent removes (R327). -/
def InvExtent.covers (e : InvExtent) (t : Tlb) : Bool :=
  let region (n : Nat) : Bool := overlap t.vbase (2 ^ t.bits) (e.va / 2 ^ n * 2 ^ n) (2 ^ n)
  match e.ext with
  | 0 => t.covers e.va
  | 1 => region 21
  | 2 => region 30
  | _ => true

/-- The translations of an isle that an extent covers removed from every TLB of its cores (R327). -/
def State.dropTlb (s : State) (isle : Nat) (e : InvExtent) : State :=
  { s with cores := s.cores.mapVal (fun k c =>
      if s.isleOfCore k = some isle then
        { c with tlb := c.tlb.filter (fun t => !e.covers t), itlb := c.itlb.filter (fun t => !e.covers t) }
      else c) }

/-- Whether a translation that an operation holds is one of an extent. -/
def holdsPage (e : InvExtent) (p : Option Tlb) : Bool :=
  match p with
  | some t => e.covers t
  | none => false

/-- Whether an operation of an isle accepted before `upto` holds a removed translation (R327). -/
def State.tlbHolders (s : State) (isle : Nat) (e : InvExtent) (upto : Nat) : Bool :=
  let mine (core id : Nat) : Bool := decide (id < upto) && decide (s.isleOfCore core = some isle)
  s.ops.any (fun o => mine o.core o.id && holdsPage e o.page) ||
    s.pushes.any (fun o => mine o.core o.id && e.covers o.page) ||
    s.copies.any (fun o => mine o.core o.id && (o.spages.any e.covers || o.dpages.any e.covers || holdsPage e o.cpage ||
      o.ring.any (fun x => e.covers x.2.2))) ||
    s.fabs.any (fun o => mine o.core o.id && (o.lpages.any e.covers || o.rpages.any e.covers || holdsPage e o.cpage)) ||
    s.cores.any (fun c => (c.2.matQ ++ c.2.matWait).any (fun m => mine c.1 m.id &&
      (match m.kind with
       | .accld _ _ page _ => e.covers page
       | .accst _ _ page _ => e.covers page
       | _ => false)))

/-- The extent that a tlbinv names. -/
def invExtent (ext : BitVec 2) (a : DWord) : InvExtent := { ext := ext.toNat, va := a.toNat % 2 ^ 48 }

/-- TLBINV (R327): translations go at once; the issuer waits for the operations that hold one. -/
def execTlbinv (a : Opnd) (ext : BitVec 2) (s : State) : Out :=
  bothOp (.tlbinv a ext) noTrapS
    (fun c s =>
      match s.thread c.core c.slot c.tid with
      | none => .next (s, .stall)
      | some th =>
        if !s.settled c then .next (s, .stall)
        else
          let e := invExtent ext (th.readP c a)
          .next ((s.dropTlb (s.isleNo c.core) e).onThread c.core c.slot c.tid (fun t =>
            { t with sysWait := .tlbinv e s.nextId }), .next))
    (fun core l s =>
      let e := invExtent ext (l.readP a)
      .next ((s.dropTlb (s.isleNo core) e).onLane core (fun l => { l with wait := .tlbinv e s.nextId }), .next)) s

/-- TLBINV_COMPLETE (R327): no operation holds a removed translation any more. -/
def execTlbinvComplete (who : IssuerId) (s : State) : Out :=
  match who with
  | .thread core slot tid =>
    match s.thread core slot tid with
    | none => .next s
    | some th =>
      match th.sysWait with
      | .tlbinv e upto =>
        if s.tlbHolders (s.isleNo core) e upto then .next s
        else .next (s.onThread core slot tid (fun t => { t with sysWait := .none }))
      | .none => .next s
  | .lane core =>
    match (s.core core).lane.wait with
    | .tlbinv e upto =>
      if s.tlbHolders (s.isleNo core) e upto then .next s else .next (s.onLane core (fun l => { l with wait := .none }))
    | _ => .next s

/-! ### atp -/

/-- The level of a leaf by the size of its page (R311). -/
def Tlb.level (t : Tlb) : Nat := if t.bits = 30 then 1 else if t.bits = 21 then 2 else 3

/-- The size code of a page (R328). -/
def Tlb.sizeCode (t : Tlb) : Nat := if t.bits = 30 then 3 else if t.bits = 21 then 2 else if t.bits = 16 then 1 else 0

/-- The number of a coherence mode (R310). -/
def CMode.code : CMode → Nat
  | .dir => 0
  | .selfInv => 1
  | .uncached => 2

/-- The result of atp for what a walk has found (R328). -/
def Walk.word (w : Walk) (va : Nat) : DWord :=
  BitVec.ofNat 64
    (match w with
     | .leaf t _ =>
       2 ^ 63 + t.mode.code * 2 ^ 61 + b2n t.sc * 2 ^ 60 + t.sizeCode * 2 ^ 58 + t.level * 2 ^ 56 + b2n t.u * 2 ^ 54 +
         b2n t.x * 2 ^ 53 + b2n t.w * 2 ^ 52 + b2n t.r * 2 ^ 51 + t.pa va % 2 ^ 48
     | .absent level mal => level % 4 * 2 ^ 56 + b2n mal * 2 ^ 55)

/-- The translation of an address for atp, and the state after it (R325, R328). -/
def State.atpWalk (s : State) (core va : Nat) : State × DWord :=
  (s.noteWalk false core va, (s.translate core (s.isleNo core) va).word va)

/-- ATP (R328). -/
def execAtp (d a : Opnd) (s : State) : Out :=
  bothOp (.atp d a) noTrapS
    (fun c s =>
      match s.thread c.core c.slot c.tid with
      | none => .next (s, .stall)
      | some th =>
        match s.atpWalk c.core ((th.readP c a).toNat % 2 ^ 48) with
        | (s1, v) =>
          .next (s1.onThread c.core c.slot c.tid (fun t =>
            (t.setReg d.toNat (lo32 v)).setReg (d.toNat + 1) (hi32 v)), .next))
    (fun core l s =>
      match s.atpWalk core ((l.readP a).toNat % 2 ^ 48) with
      | (s1, v) => .next (s1.onLane core (fun l => l.writeP d v), .next)) s

end Sys2Proof.Machine
end

