-- ==== Sys2Proof/Machine/Tasks.lean ====
section
/-! DEFINITION. Spawning (R361 to R363), range tasks and declared ranges (R364 to R368), futures (R369 to R378), reclamation
points (R379 to R382), and the placement of queued pieces (R357, R358). -/

namespace Sys2Proof.Machine

/-- The task of a resident crew. -/
def State.taskOf (s : State) (core slot : Nat) : Option Task := (s.crew core slot).bind (fun w => s.task w.task)

/-- Whether a thread's task is stopping and its guard depth is 0: it retires at a reclamation point (R379). -/
def State.retires (s : State) (c : Ctx) (th : Thread) : Bool :=
  decide (th.guard = 0) && ((s.crew c.core c.slot).map (fun w => s.stoppingCrew w)).getD false

/-- The reason for which an entry is refused (R362, R363). -/
def Entry.reason (e : Entry) (fspawn acc : Bool) : Option Nat :=
  if bits e.options 15 5 ≠ 0 then some 1
  else if 256 < shScratch e.shape ∨ 64 < shAcc e.shape then some 2
  else if e.hi < e.lo then some 3
  else if e.grain = 0 ∧ e.lo < e.hi then some 4
  else if fspawn = decide (e.cell = 0) then some 5
  else if e.join ∧ (1 < e.crews ∨ shAcc e.shape ≠ 0 ∨ acc = false) then some 6
  else none

/-- A block read in space 0 for a thread, checked under R149: the state after it, and its bytes. -/
def State.readBlock (s : State) (v : Viewer) (i : Instr) (va n : Nat) : Except Raise (State × Nat) :=
  let w := wantOf i 0 n 0 true false
  if v.sRefuses w then .error ⟨causePriv, v.detail w false 0, va⟩
  else
    match s.checkFormed v w (formAddr (v.seg 0) 0 n va 0) with
    | .error r => .error r
    | .ok h =>
      let t := h.page.getD (mPage h.pa)
      match (s.noteHit v h).readHome v.core t.mode t.lease h.pa n with
      | (s1, x, bad) => if bad then .error ⟨causeMachine, v.detail w false 0, va⟩ else .ok (s1, x)

/-- A descriptor of declared ranges (R366). -/
def State.readDecl (s : State) (v : Viewer) (i : Instr) (va : Nat) : Except Raise (State × Nat) :=
  match s.readBlock v i va 64 with
  | .error r => .error r
  | .ok (s1, x) => if bits x 511 384 ≠ 0 then .error ⟨causeTask, taskDetail 1, va⟩ else .ok (s1, x)

/-- The check of a cell (R370). -/
def State.checkCell (s : State) (v : Viewer) (i : Instr) (va : Nat) (wr : Bool) : Except Raise Hit :=
  s.checkFormed v (wantOf i 0 32 0 true wr) (formAddr (v.seg 0) 0 32 va 0)

/-- The place of a cell that has been checked. -/
def cellOf (h : Hit) : Nat × Tlb := (h.pa, h.page.getD (mPage h.pa))

/-- The raise of an answer, if it is one. -/
def raiseOf {α : Type} (x : Except Raise α) : List Raise :=
  match x with
  | .error r => [r]
  | .ok _ => []

/-- The detail of a FUTURE trap (R377). -/
def futureDetail (reason c : Nat) : Nat :=
  if reason = 2 then 2 * 2 ^ 28 else reason * 2 ^ 28 + cState c * 2 ^ 26 + cCount c

/-- What fspawn makes of its cell at the bank: MACHINE of a poisoned one (R427), FUTURE 5 of one in use. -/
def State.cellTrap (s : State) (v : Viewer) (i : Instr) (va : Nat) (h : Hit) : List Raise :=
  let x := cellOf h
  match s.readCell v.core x with
  | (_, c, bad) =>
    if bad then [⟨causeMachine, v.detail (wantOf i 0 32 0 true true) false 0, va⟩]
    else if (cState c = cEmpty ∨ cState c = cOrphaned) ∧ cOwner c ≠ 0 then [⟨causeFuture, futureDetail 5 c, va⟩]
    else []

/-- A new task of a thread, its control block taken; nothing where the task area is full (R354, R355). -/
def State.newTask (s : State) (c : Ctx) (isle : Nat) (e : Entry) (cell : Option Nat) (decl : Nat) (parent : Word) :
    Option (Word × State) :=
  let die := dieOfCore c.core
  match s.freeUnit isle with
  | none => none
  | some u =>
    match (s.takeUnit isle u).newTaskId isle die with
    | (id, s1) =>
      let t : Task :=
        { id := id, isle := isle, die := die, entry := e, cell := cell, decl := BitVec.ofNat 512 decl,
          pos := (s1.domain isle die).nextPos, state := .held, stopping := false, pieces := 0, mstat := 0, slots := [], tcb := some u,
          overs := [], cluster := clusterOf c.core, spawner := c.core, joinCore := c.core, joinUid := c.uid, parent := parent }
      some (id, s1.onDomain isle die (fun d => { d with tasks := d.tasks ++ [t], nextPos := d.nextPos + 1 }))

/-- A task spawned is queued, or held by ranges (R367). -/
def State.startTask (s : State) (isle die : Nat) (id : Word) : State :=
  match s.task id with
  | none => s
  | some t => if (s.domain isle die).holdsBack t then s.mirror id else s.queueTask id

/-- The handle of a cell of a task (R370). -/
def handleOf (id : Word) (va : Nat) : DWord := BitVec.ofNat 64 (id.toNat % 2 ^ 16 * 2 ^ 48 + va % 2 ^ 48)

/-- A cell as fspawn creates it (R361). -/
def newCell (id : Word) : Nat := 2 ^ 64 + id.toNat * 2 ^ 96

/-- The task is made, its cell created, its handle given (R361): nothing where the task area has no room. -/
def State.makeTask (s : State) (c : Ctx) (isle : Nat) (e : Entry) (decl : Nat) (parent : Word) (cell : Option (Nat × Hit)) :
    Option (State × DWord) :=
  let die := dieOfCore c.core
  match s.newTask c isle e (cell.map (fun x => x.1)) decl parent with
  | none => none
  | some (id, s1) =>
    match cell with
    | none => some (s1.startTask isle die id, 0#64)
    | some (va, h) =>
      let x := cellOf h
      let hd := handleOf id va
      match ((s1.putParks x.1 []).writeCell c.core x (newCell id)).addRef parent hd with
      | none => none
      | some s2 => some (s2.startTask isle die id, hd)

/-- TSPAWN and FSPAWN (R361); `p` is the pair that takes the handle. -/
def spawnOp (i : Instr) (p : Option Opnd) (q : Opnd) (s : State) : Out :=
  let w := wantOf i 0 32 0 true false
  sharedOp i (accessPre w q)
    (fun c s =>
      match s.thread c.core c.slot c.tid, s.crew c.core c.slot with
      | some th, some cw =>
        if !s.released c 3 then .next (s, .stall)
        else
          let v := s.viewer c th
          let isle := v.isle
          let ea := (th.readP c q).toNat % 2 ^ 48
          if s.blocksWait c isle 32 [ea] then .next (s, .stall)
          else
          match s.readBlock v i ea 32 with
          | .error r => .next (s, .trap r)
          | .ok (s1, raw) =>
            let e := entryOf raw
            if s.blocksWait c isle 64 [e.declVa, e.cellVa] then .next (s, .stall)
            else
            let bad := ((e.reason p.isSome (decide (0 < cw.accLen + cw.grant.acc))).map (fun n =>
              (⟨causeTask, taskDetail n, ea⟩ : Raise))).toList
            let decl := if e.decl ≠ 0 then s1.readDecl v i e.declVa else .ok (s1, th.decl.toNat)
            let cell := if p.isSome && decide (e.cell ≠ 0) then (s1.checkCell v i e.cellVa true).map some else .ok none
            let early := bad ++ raiseOf decl ++ raiseOf cell
            let at' := match cell with
              | .ok (some h) => s1.cellTrap v i e.cellVa h
              | _ => []
            let full : Raise := ⟨causeTask, taskDetail 7, ea⟩
            match decl, cell with
            | .ok (s2, d), .ok hit =>
              let room := (s2.freeUnit isle).isSome
              let made := if (early ++ at').isEmpty then s2.makeTask c isle e d cw.task (hit.map (fun h => (e.cellVa, h))) else none
              match made with
              | some (s3, hd) =>
                let s4 := match p with
                  | some o => s3.onThread c.core c.slot c.tid (fun t => (t.setReg o.toNat (lo32 hd)).setReg (o.toNat + 1) (hi32 hd))
                  | none => s3
                .next (s4, .next)
              | none =>
                let r := (firstRaise (early ++ at' ++ [full])).getD full
                if early.isEmpty && room then .next ((s.newTaskId isle (dieOfCore c.core)).2, .trapOn r) else .next (s, .trap r)
            | _, _ => .next (s, .trap ((firstRaise (early ++ at')).getD full))
      | _, _ => .next (s, .stall)) s

/-- FSPAWN (R361). -/
def execFspawn (flag : BitVec 4) (p q : Opnd) (s : State) : Out := spawnOp (.fspawn flag p q) (some p) q s

/-- TSPAWN (R361). -/
def execTspawn (flag : BitVec 4) (q : Opnd) (s : State) : Out := spawnOp (.tspawn flag q) none q s

/-! ### Declared ranges and ranges (R364 to R366) -/

/-- TDECL (R366). -/
def execTdecl (a : Opnd) (s : State) : Out :=
  let i := Instr.tdecl a
  sharedOp i (accessPre (wantOf i 0 64 0 true false) a)
    (fun c s =>
      match s.thread c.core c.slot c.tid with
      | none => .next (s, .stall)
      | some th =>
        let va := (th.readP c a).toNat % 2 ^ 48
        let v := s.viewer c th
        if s.blocksWait c v.isle 64 [va] then .next (s, .stall)
        else
          match s.readDecl v i va with
          | .error r => .next (s, .trap r)
          | .ok (s1, x) => .next (s1.onThread c.core c.slot c.tid (fun t => { t with decl := BitVec.ofNat 512 x }), .next)) s

/-- The next chunk of a piece with a grain (R365): its bounds. -/
def Piece.chunk (p : Piece) (grain : Nat) : Nat × Nat := (p.cur, min (p.cur + grain) p.hi)

/-- RNEXT (R365): a reclamation point, else the next chunk of the piece's range. -/
def execRnext (d : Opnd) (s : State) : Out :=
  sharedOp (.rnext d) noTrapS
    (fun c s =>
      match s.thread c.core c.slot c.tid, s.crew c.core c.slot with
      | some th, some w =>
        if s.retires c th then .next (s, .leave)
        else
          let die := dieOfCore c.core
          let grain := ((s.task w.task).map (fun t => t.entry.grain)).getD 0
          let x := (((s.domain w.isle die).pieces.find w.piece).map (fun p => p.chunk grain)).getD (0, 0)
          let s1 := s.onDomain w.isle die (fun y => { y with pieces := y.pieces.modify w.piece (fun p => { p with cur := x.2 }) })
          .next (s1.onThread c.core c.slot c.tid (fun t =>
            (t.result c 4 d.toNat (BitVec.ofNat 32 x.1)).result c 4 (d.toNat + 1) (BitVec.ofNat 32 x.2)), .next)
      | _, _ => .next (s, .stall)) s

/-! ### Reclamation points (R380 to R382) -/

/-- FPOINT (R381). -/
def execFpoint (s : State) : Out :=
  sharedOp .fpoint noTrapS
    (fun c s =>
      match s.thread c.core c.slot c.tid with
      | none => .next (s, .stall)
      | some th => .next (s, if s.retires c th then .leave else .progress)) s

/-- FGUARD (R381). -/
def execFguard (s : State) : Out :=
  sharedOp .fguard noTrapS
    (fun c s =>
      match s.thread c.core c.slot c.tid with
      | none => .next (s, .stall)
      | some th =>
        if 15 ≤ th.guard then .next (s, .trap ⟨causeTask, taskDetail 8, 0⟩)
        else .next (s.onThread c.core c.slot c.tid (fun t => { t with guard := t.guard + 1 }), .next)) s

/-- FEND (R381). -/
def execFend (s : State) : Out :=
  sharedOp .fend noTrapS
    (fun c s =>
      match s.thread c.core c.slot c.tid with
      | none => .next (s, .stall)
      | some th =>
        let s1 := s.onThread c.core c.slot c.tid (fun t => { t with guard := t.guard - 1 })
        .next (s1, if s.retires c { th with guard := th.guard - 1 } then .leave else .next)) s

/-- TEND (R382): the task stops, and the thread retires at once. -/
def execTend (s : State) : Out :=
  sharedOp .tend noTrapS
    (fun c s =>
      match s.crew c.core c.slot with
      | none => .next (s, .stall)
      | some w => .next (s.work [.stop w.task], .leave)) s

/-! ### Futures (R369 to R377) -/

/-- What a future instruction meets at the bank: the state after the read, the cell, the issuing task. -/
structure AtCell where
  s : State
  x : Nat × Tlb
  cell : Nat
  handle : DWord
  task : Word
  holds : Bool

/-- Whether a handle is stale at its cell (R370). -/
def staleAt (h : DWord) (c : Nat) : Bool := decide (cOwner c = 0) || decide (cOwner c % 2 ^ 16 ≠ bits h.toNat 63 48)

/-- A future instruction (R370, R373, R427): the handle's cell is checked, then `f` says what the bank does. -/
def futureOp (i : Instr) (q : Opnd) (wr : Bool) (ready : State → Ctx → Bool) (f : Ctx → Thread → AtCell → Except Nat (State × Eff))
    (s : State) : Out :=
  let w := wantOf i 0 32 0 true wr
  sharedOp i (accessPre w q)
    (fun c s => s.access c w q (fun th h s1 =>
      if s.mustWait c h.pa 32 || !ready s c then .next (s, .stall)
      else
        match s1.readCell c.core (cellOf h) with
        | (s2, cell, bad) =>
          let hd := th.readP c q
          let t := s.taskOf c.core c.slot
          let a : AtCell :=
            { s := s2, x := cellOf h, cell := cell, handle := hd, task := (t.map (fun y => y.id)).getD 0#32,
              holds := (t.map (fun y => y.holds hd)).getD false }
          if bad then .next (s, .trap ⟨causeMachine, (s.viewer c th).detail w false 0, h.addr⟩)
          else
            match f c th a with
            | .ok r => .next r
            | .error n => .next (s, .trap ⟨causeFuture, futureDetail n cell, h.addr⟩))) s

/-- Every future instruction but fput may be applied at once. -/
def atOnce (_ : State) (_ : Ctx) : Bool := true

/-- FREF (R371, R372). -/
def execFref (flag : BitVec 4) (q : Opnd) (s : State) : Out :=
  futureOp (.fref flag q) q true atOnce
    (fun c _ a =>
      if staleAt a.handle a.cell then .error 2
      else if cState a.cell = cOrphaned ∨ cState a.cell = cReclaimed then .error 6
      else if cCount a.cell = 2 ^ 24 - 1 then .error 3
      else
        match a.s.addRef a.task a.handle with
        | none => .error 9
        | some s1 => .ok (s1.writeCell c.core a.x (putCount a.cell (cCount a.cell + 1)), .next)) s

/-- FDROP (R371, R372): with the last reference to an EMPTY cell its owner stops. -/
def execFdrop (flag : BitVec 4) (q : Opnd) (s : State) : Out :=
  futureOp (.fdrop flag q) q true atOnce
    (fun c _ a =>
      if staleAt a.handle a.cell then .error 2
      else if !a.holds then .error 1
      else
        let n := cCount a.cell - 1
        let s1 := a.s.subRef a.task a.handle
        if cState a.cell = cEmpty ∧ n = 0 then
          .ok ((s1.writeCell c.core a.x (putState (putCount a.cell 0) cOrphaned)).work [.stop (BitVec.ofNat 32 (cOwner a.cell))], .next)
        else .ok (s1.writeCell c.core a.x (putCount a.cell n), .next)) s

/-- FGET (R374): the value, a park, or FUTURE 4. -/
def execFget (p q : Opnd) (k : BitVec 5) (s : State) : Out :=
  futureOp (.fget p q k) q false atOnce
    (fun c _ a =>
      if staleAt a.handle a.cell then .error 2
      else if !a.holds then .error 1
      else if cState a.cell = cReclaimed then .error 4
      else if cState a.cell = cFull then
        let v := cValue a.cell
        let s1 := a.s.acquire (clusterOf c.core) k.toNat none
        .ok (s1.onThread c.core c.slot c.tid (fun t =>
          (t.setReg p.toNat (BitVec.ofNat 32 v)).setReg (p.toNat + 1) (BitVec.ofNat 32 (v >>> 32))), .next)
      else
        .ok (a.s.setParks c.core a.x a.cell (indexWord c.core c.slot c.tid :: a.s.parked a.x.1 a.cell),
          .park (.future a.x.1) true)) s

/-- FPUT (R375): a release, then FULL with the value, and every parked thread wakes. -/
def execFput (flag : BitVec 4) (p q : Opnd) (k : BitVec 5) (s : State) : Out :=
  futureOp (.fput flag p q k) q true (fun s c => s.released c k.toNat)
    (fun c th a =>
      if staleAt a.handle a.cell then .error 2
      else if BitVec.ofNat 32 (cOwner a.cell) ≠ a.task ∧ a.holds = false then .error 8
      else if cState a.cell = cFull ∨ cState a.cell = cReclaimed then .error 7
      else if cState a.cell = cOrphaned then .ok (a.s, .next)
      else
        let full := putState (putBits a.cell 0 64 (th.readP c p).toNat) cFull
        .ok (a.s.wakeCell c.core a.x full, .next)) s

/-- The result of fstate (R376). -/
def stateWord (stale holds : Bool) (c : Nat) : Word :=
  if stale then BitVec.ofNat 32 (2 ^ 28) else BitVec.ofNat 32 (cState c * 2 ^ 30 + b2n holds * 2 ^ 29 + cCount c)

/-- FSTATE (R376). -/
def execFstate (p q : Opnd) (s : State) : Out :=
  futureOp (.fstate p q) q false atOnce
    (fun c _ a =>
      .ok (a.s.onThread c.core c.slot c.tid (fun t => t.setReg p.toNat (stateWord (staleAt a.handle a.cell) a.holds a.cell)), .next)) s

/-! ### Placement of queued pieces (R356 to R358, R364) -/

/-- Whether a piece goes before another in its cluster (R357). -/
def Queued.before (a b : Queued) : Bool := decide (b.cls < a.cls) || (decide (a.cls = b.cls) && decide (a.pos < b.pos))

/-- A piece put in its place among others. -/
def Queued.insert (q : Queued) : List Queued → List Queued
  | [] => [q]
  | x :: l => if q.before x then q :: x :: l else x :: q.insert l

/-- The 64 entries of a cluster's queue in the order of R357; the others wait in the task area (R356). -/
def Cluster.order (c : Cluster) : List Queued := (c.queue.take 64).foldl (fun l q => q.insert l) []

/-- Whether a piece is overdue (R357). -/
def State.overdue (s : State) (q : Queued) : Bool := decide (q.cls = 3) && decide (q.since + 2 ^ 20 ≤ s.cycle)

/-- A queued piece leaves its queue. -/
def State.unqueue (s : State) (cluster : Nat) (q : Queued) : State :=
  s.onCluster cluster (fun c => { c with queue := c.queue.filter (fun x => decide (x ≠ q)) })

/-- The first of some pieces that fits on some cores, placed (R357). -/
def State.placeFirst (s : State) (cluster : Nat) (cores : List Nat) : List Queued → Option State
  | [] => none
  | q :: l =>
    match (s.task q.task).bind (fun t => s.placePiece t q.lo q.hi cores) with
    | some s1 => some (s1.unqueue cluster q)
    | none => if s.overdue q then none else s.placeFirst cluster cores l

/-- PIECE_PLACEMENT (R357). -/
def execPiecePlacement (cluster : Nat) (s : State) : Out :=
  .next ((s.placeFirst cluster (coresOf cluster) (s.cluster cluster).order).getD s)

/-- PIECE_AGING (R358): a queued piece rises a class for each 2^20 cycles. -/
def execPieceAging (cluster : Nat) (s : State) : Out :=
  .next (s.onCluster cluster (fun c => { c with queue := c.queue.map (fun q =>
    if q.cls < 3 ∧ q.since + 2 ^ 20 ≤ s.cycle then { q with cls := q.cls + 1, since := s.cycle } else q) }))

/-- Mesh hops between two clusters of a die (R305). -/
def meshHops (a b : Nat) : Nat :=
  let d (x y : Nat) : Nat := if x < y then y - x else x - y
  d (a % 48 % 8) (b % 48 % 8) + d (a % 48 / 8) (b % 48 / 8)

/-- The cores on which a piece may be placed for an asking core: that core, or its cluster's for a squad (R358, R364). -/
def askCores (core : Nat) (t : Task) : List Nat := if 1 < t.entry.crews then coresOf (clusterOf core) else [core]

/-- The first of some pieces that fits for an asking core, placed. -/
def State.takeFirst (s : State) (core cluster : Nat) : List Queued → Option State
  | [] => none
  | q :: l =>
    match (s.task q.task).bind (fun t => s.placePiece t q.lo q.hi (askCores core t)) with
    | some s1 => some (s1.unqueue cluster q)
    | none => if s.overdue q then none else s.takeFirst core cluster l

/-- Clusters by their distance from one, ties by number. -/
def nearFirst (here : Nat) (l : List Nat) : List Nat :=
  ((List.range 14).map (fun d => l.filter (fun n => decide (meshHops here n = d)))).flatten

/-- The crew ids of a piece's resident crews on a die's cores of an isle. -/
def State.pieceCrews (s : State) (p : Piece) : List Nat :=
  (s.cores.map (fun c => (c.2.crews.filter (fun w => p.crews.contains w.2.uid)).map (fun w => crewId c.1 w.1))).flatten

/-- The pieces of a domain that may be split for an asking core (R364). -/
def State.victims (s : State) (core i die : Nat) : List (Nat × Piece × Task) :=
  ((s.domain i die).pieces.filterMap (fun (p : Nat × Piece) => (s.task p.2.task).map (fun t => (p.1, p.2, t)))).filter (fun x =>
    decide (x.2.1.cur < x.2.1.hi) && decide (2 * x.2.2.entry.grain ≤ x.2.1.hi - x.2.1.cur) && !x.2.2.entry.join &&
      !x.2.2.stopping && !(s.pieceCrews x.2.1).isEmpty &&
      (s.placePiece x.2.2 x.2.1.cur x.2.1.hi (askCores core x.2.2)).isSome)

/-- The piece that is split (R364): the largest range, then the earliest spawn position, then the lowest crew id. -/
def State.splitVictim (s : State) (core i die : Nat) : Option (Nat × Piece × Task) :=
  bestOf (fun (a b : Nat × Piece × Task) =>
    let size (x : Nat × Piece × Task) : Nat := x.2.1.hi - x.2.1.cur
    let id (x : Nat × Piece × Task) : Nat := (s.pieceCrews x.2.1).foldl min (2 ^ 14)
    decide (size b < size a) || (decide (size a = size b) && (decide (a.2.2.pos < b.2.2.pos) ||
      (decide (a.2.2.pos = b.2.2.pos) && decide (id a < id b))))) (s.victims core i die)

/-- A split for an asking core (R364). -/
def State.split (s : State) (core i die : Nat) : State :=
  match s.splitVictim core i die with
  | none => s
  | some (k, p, t) =>
    let mid := p.cur + (p.hi - p.cur) / 2
    let s1 := s.onDomain i die (fun d => { d with pieces := d.pieces.modify k (fun x => { x with hi := mid }) })
    (s1.placePiece t mid p.hi (askCores core t)).getD s

/-- ASK_FOR_WORK (R358): a core that has an event to ask at takes a piece of the nearest cluster that has one, or asks for a
split. -/
def execAskForWork (core : Nat) (s : State) : Out :=
  if !(s.core core).asks then .next s
  else
    let s1 := s.onCore core (fun c => { c with asks := false })
    match s.isleOfCore core with
    | none => .next s1
    | some i =>
      let die := dieOfCore core
      let own := clusterOf core
      if (s.freeSlot core).isNone || (s1.placeFirst own [core] (s.cluster own).order).isSome then .next s1
      else
        let others := nearFirst own ((s.isleClusters i).filter (fun n => decide (dieOfCore (4 * n) = die) && decide (n ≠ own)))
        match others.findSome? (fun n => s1.takeFirst core n (s.cluster n).order) with
        | some s2 => .next s2
        | none => .next (s1.split core i die)

end Sys2Proof.Machine
end

