-- ==== Sys2Proof/Machine/Fabric.lean ====
section
/-! DEFINITION. Fengor's fabric operations (R417 to R424), and the outside agents that reach memory: RDMA peers and drives
(R415, R416). -/

namespace Sys2Proof.Machine

/-! ### Descriptors and checks (R418 to R420) -/

/-- The descriptor that 64 bytes hold (R418). -/
def fabDescOf (x : Nat) : FabDesc :=
  { laddr := bits x 47 0, raddr := bits x 111 64, len := bits x 159 128, tgt := bits x 175 160, sub := bits x 179 176,
    wide := bit x 180, gen := BitVec.ofNat 32 (x >>> 192), op1 := BitVec.ofNat 64 (x >>> 256),
    op2 := BitVec.ofNat 64 (x >>> 320), rcnt := bits x 431 384 }

/-- Whether an operation goes to a group. -/
def FabKind.grouped (k : FabKind) : Bool := decide (k = .red) || decide (k = .mcast)

/-- Whether an operation reads local source bytes. -/
def FabKind.sends (k : FabKind) : Bool := decide (k = .put) || k.grouped

/-- Whether a field that R418 wants zero is not. -/
def fabZero (k : FabKind) (x : Nat) : Bool :=
  decide (bits x 255 224 ≠ 0) || decide (bits x 511 448 ≠ 0) || decide (bits x 191 181 ≠ 0) ||
    (k.grouped && decide (bits x 175 168 ≠ 0)) || (decide (k ≠ .red) && decide (bits x 223 192 ≠ 0)) ||
    (!(decide (k = .atom) && decide (bits x 179 176 = 7)) && decide (bits x 383 320 ≠ 0)) ||
    (decide (k ≠ .put) && decide (k ≠ .mcast) && decide (bits x 447 384 ≠ 0))

/-- Whether a sub-operation is undefined for its operation (R418). -/
def fabBadSub (k : FabKind) (d : FabDesc) : Bool :=
  match k with
  | .atom => decide (8 < d.sub) || (decide (d.sub = 8) && d.wide)
  | .red => decide (8 < d.sub)
  | _ => decide (d.sub ≠ 0)

/-- Whether a length is out of range (R418). -/
def fabBadLen (k : FabKind) (d : FabDesc) : Bool :=
  match k with
  | .atom => decide (d.len ≠ if d.wide then 8 else 4)
  | .red => decide (d.len < 16) || decide (2 ^ 20 < d.len) || decide (d.len % 16 ≠ 0)
  | _ => decide (d.len < 16) || decide (2 ^ 24 < d.len) || decide (d.len % 16 ≠ 0)

/-- A byte of an isle's fabric group table (R417). -/
def Isle.groupByte (x : Isle) (g n : Nat) : Nat :=
  bits (FMap.get 0#64 x.fabGroups (32 * g + n / 8)).toNat (8 * (n % 8) + 7) (8 * (n % 8))

/-- The members of a group of an isle, as (package, isle) (R417). -/
def Isle.members (x : Isle) (g : Nat) : List (Nat × Nat) :=
  (List.range (min (x.groupByte g 0) 64)).map (fun m =>
    let v := x.groupByte g (16 + 2 * m) + 256 * x.groupByte g (17 + 2 * m)
    (v % 4096, v / 4096))

/-- The targets of an operation as (package, isle). -/
def State.fabTargets (s : State) (isle : Nat) (k : FabKind) (d : FabDesc) : List (Nat × Nat) :=
  if k.grouped then (s.isle isle).members (d.tgt % 256) else [(d.tgt % 4096, d.tgt / 4096)]

/-- The detail of the FABRIC trap of a descriptor, if its fields are refused (R420). -/
def State.fabReason (s : State) (isle : Nat) (k : FabKind) (x : Nat) : Option Nat :=
  let d := fabDescOf x
  if fabZero k x then some (2 ^ 28)
  else if fabBadSub k d then some (2 * 2 ^ 28)
  else if fabBadLen k d then some (3 * 2 ^ 28)
  else if k.grouped && !(s.fabTargets isle k d).contains (s.board.pkgId, isle) then some (4 * 2 ^ 28)
  else none

/-- The pages of an extent, each by its lowest byte touched. -/
def extentPages (va n : Nat) : List Nat :=
  va :: (List.range ((va + n - 1) / 4096 - va / 4096)).map (fun k => (va / 4096 + k + 1) * 4096)

/-- The checks of a local extent of a fabric operation (R419 step 4): its translations. -/
def State.checkExtent (s : State) (v : Viewer) (i : Instr) (va n : Nat) (wr : Bool) (al : Nat) : Except Raise (List Tlb) :=
  let w := wantOf i 0 n 0 (!wr) wr
  let a := formAddr (v.seg 0) 0 n va 0
  if v.sRefuses w then .error ⟨causePriv, v.detail w false 0, va⟩
  else if !a.inside then .error ⟨causeSeg, v.detail w false 0, a.fault⟩
  else if va % al ≠ 0 then .error ⟨causeAlign, v.detail w false 0, va⟩
  else
    match s.checkPages v w (extentPages va n) with
    | .error r => .error r
    | .ok hits => .ok (pagesOf hits)

/-- The check of a fabric counter (R419 step 5). -/
def State.checkFabCounter (s : State) (v : Viewer) (i : Instr) (va : Nat) : Except Raise Hit :=
  let w := wantOf i 0 32 0 true true
  if v.sRefuses w then .error ⟨causePriv, v.detail w false 0, va⟩
  else s.checkFormed v w (formAddr (v.seg 0) 0 32 va 0)

/-- The alignment of a remote address, which the issuer checks too (R419). -/
def checkRemote (v : Viewer) (i : Instr) (k : FabKind) (d : FabDesc) (al : Nat) : List Raise :=
  if k ≠ .red ∧ d.raddr % al ≠ 0 then
    [⟨causeAlign, v.detail (wantOf i 0 d.len 0 (decide (k = .get)) (decide (k ≠ .get))) false 0, d.raddr⟩]
  else []

/-- A fabric operation accepted (R421): with source bytes to read its flag rises. It keeps the translations it was checked with, and the
remote windows as they stand (R417). -/
def State.acceptFab (s : State) (f : FabOp) : State :=
  let id := s.fresh.1
  let s1 := s.fresh.2
  let s2 : State := { s1 with fabs := s1.fabs ++ [{ f with id := id }] }
  let s3 := s2.notePages f.core (f.lpages ++ f.rpages ++ f.cpage.toList)
  if f.kind.sends then s3.onThread f.core f.slot f.tid (fun t => t.raiseFlag f.flag) else s3

/-- A fabric operation whose descriptor has been read and passed. -/
def State.fabChecked (s : State) (c : Ctx) (v : Viewer) (i : Instr) (k : FabKind) (flag : BitVec 4) (d : FabDesc)
    (counter : Except Raise Hit) : Act1 :=
  let al := if k = .atom then d.len else 16
  let wr := decide (k = .get) || decide (k = .atom)
  let left := s.checkExtent v i d.laddr d.len wr al
  let right : Except Raise (List Tlb) := if k = .red then s.checkExtent v i d.raddr d.len true al else .ok []
  match left, right, checkRemote v i k d al, counter with
  | .ok a, .ok b, [], .ok h =>
    .next (s.acceptFab
      { id := 0, core := c.core, slot := c.slot, tid := c.tid, uid := c.uid, isle := v.isle, flag := flag.toNat, kind := k,
        desc := d, members := s.fabTargets v.isle k d, counter := h.pa, lpages := a, rpages := b, cpage := h.page, src := none,
        served := [], back := [],
        wins := s.isles.map (fun (x : Nat × Isle) => (x.1, x.2.windows)), contributed := false, limit := (s.isle v.isle).redtimeout.toNat, since := s.cycle }, .next)
  | a, b, l, h =>
    match firstRaise (raiseOf a ++ raiseOf b ++ l ++ raiseOf h) with
    | some r => .next (s, .trap r)
    | none => .next (s, .stall)

/-- The fabric instructions (R419). -/
def fabOp (i : Instr) (k : FabKind) (flag : BitVec 4) (p q : Opnd) (s : State) : Out :=
  sharedOp i (accessPre (wantOf i 0 64 0 true false) p)
    (fun c s =>
      match s.thread c.core c.slot c.tid with
      | none => .next (s, .stall)
      | some th =>
        let v := s.viewer c th
        let dva := (th.readP c p).toNat % 2 ^ 48
        let cva := (th.readP c q).toNat % 2 ^ 48
        let counter := s.checkFabCounter v i cva
        if s.blocksWait c v.isle 64 [dva] then .next (s, .stall)
        else
          match s.readBlock v i dva 64 with
          | .error r =>
            match firstRaise (r :: raiseOf counter) with
            | some x => .next (s, .trap x)
            | none => .next (s, .stall)
          | .ok (s1, x) =>
            match s1.fabReason v.isle k x with
            | some n => .next (s, .trap ⟨causeFabric, n, dva⟩)
            | none => s1.fabChecked c v i k flag (fabDescOf x) counter) s

/-- FAB_PUT (R419, R421). -/
def execFabPut (flag : BitVec 4) (p q : Opnd) (s : State) : Out := fabOp (.fabPut flag p q) .put flag p q s

/-- FAB_GET (R419, R421). -/
def execFabGet (flag : BitVec 4) (p q : Opnd) (s : State) : Out := fabOp (.fabGet flag p q) .get flag p q s

/-- FAB_ATOM (R419, R421). -/
def execFabAtom (flag : BitVec 4) (p q : Opnd) (s : State) : Out := fabOp (.fabAtom flag p q) .atom flag p q s

/-- FAB_RED (R419, R422). -/
def execFabRed (flag : BitVec 4) (p q : Opnd) (s : State) : Out := fabOp (.fabRed flag p q) .red flag p q s

/-- FAB_MCAST (R419, R421). -/
def execFabMcast (flag : BitVec 4) (p q : Opnd) (s : State) : Out := fabOp (.fabMcast flag p q) .mcast flag p q s

/-! ### Extents of memory read and written by an engine -/

/-- An extent cut at 32-byte granules, as (address, bytes); the fuel bounds the number of parts. -/
def granules (va : Nat) : Nat → Nat → List (Nat × Nat)
  | 0, _ => []
  | k + 1, n => if n = 0 then [] else
      let r := min n (32 - va % 32)
      (va, r) :: granules (va + r) k (n - r)

/-- The granules of an extent. -/
def extentParts (va n : Nat) : List (Nat × Nat) := granules va (n / 32 + 2) n

/-- The translation of an address among some. -/
def pageFor (pages : List Tlb) (va : Nat) : Tlb := (pages.find? (fun (t : Tlb) => t.covers va)).getD (mPage va)

/-- Some parts of an extent read at their homes, poison with them. -/
def State.readParts (core : Nat) (pages : List Tlb) : List (Nat × Nat) → State → State × List PByte
  | [], s => (s, [])
  | (a, n) :: l, s =>
    let t := pageFor pages a
    match s.readHome core t.mode t.lease (t.pa a) n with
    | (s1, v, bad) =>
      match State.readParts core pages l s1 with
      | (s2, bs) => (s2, (leBytes n v).map (fun b => ⟨b, bad⟩) ++ bs)

/-- Bytes written over some parts of an extent at their homes; poisoned bytes as poison (R424). -/
def State.writeParts (core : Nat) (pages : List Tlb) : List (Nat × Nat) → List PByte → State → State
  | [], _, s => s
  | (a, n) :: l, bs, s =>
    let t := pageFor pages a
    let pa := t.pa a
    let now := bs.take n
    let bad := if now.any (fun b => b.bad) then granulesOf (pa % 128) n else 0
    State.writeParts core pages l (bs.drop n) (s.writeHome core t.mode pa n (leNat (now.map (fun b => b.val))) bad [])

/-- What some parts of an extent wait for at the homes of their lines (R156, R308, R315). -/
def State.partsWait (s : State) (pages : List Tlb) (l : List (Nat × Nat)) (wr : Bool) : Option State :=
  s.awaitLines (l.map (fun x => (lineOf ((pageFor pages x.1).pa x.1), (pageFor pages x.1).mode))) wr

/-- Bytes without poison. -/
def cleanBytes (l : List Byte) : List PByte := l.map (fun b => ⟨b, false⟩)

/-! ### Targets (R417, R421, R424) -/

/-- The permissions that a remote window grants (R417; layout: log 18). -/
structure Grants where
  rd : Bool
  wr : Bool
  at' : Bool
deriving DecidableEq, Repr

/-- Window `w` of an isle's remote windows: base, limit, permissions (log 18). -/
def windowOf (m : FMap DWord) (w : Nat) : Nat × Nat × Grants :=
  let word (k : Nat) : Nat := (FMap.get 0#64 m (4 * w + k)).toNat
  (word 0 % 2 ^ 48, word 1, ⟨bit (word 2) 0, bit (word 2) 1, bit (word 2) 2⟩)

/-- How far the windows that satisfy `ok` cover an extent from `va` up; sixteen windows bound the fuel. -/
def windowReach (m : FMap DWord) (ok : Grants → Bool) : Nat → Nat → Nat
  | 0, va => va
  | k + 1, va =>
    let ends := (List.range 16).filterMap (fun w =>
      let y := windowOf m w
      if ok y.2.2 && decide (y.1 ≤ va) && decide (va < y.1 + y.2.1) then some (y.1 + y.2.1) else none)
    match ends with
    | [] => va
    | e :: l => windowReach m ok k (l.foldl max e)

/-- Whether an extent lies in windows that grant its access (R417). -/
def inWindows (m : FMap DWord) (ok : Grants → Bool) (va n : Nat) : Bool := decide (va + n ≤ windowReach m ok 16 va)

/-- The translations of an extent for a remote agent, if every page of it may be accessed (R421, R415). -/
def State.remotePages (s : State) (isle va n : Nat) (rd wr : Bool) : Option (List Tlb) :=
  let l := (extentPages va n).map (fun a =>
    match s.walk isle a with
    | .leaf t _ => if (!rd || t.r) && (!wr || t.w) && s.inPartition isle (t.pa a) then some t else none
    | .absent _ _ => none)
  if l.all Option.isSome then some (l.filterMap id) else none

/-- A remote counter counted up, with release at .sys (R421). -/
def State.countRemote (s : State) (core isle rcnt : Nat) : State :=
  if rcnt = 0 then s
  else
    match s.walk isle rcnt with
    | .leaf t _ => s.updateCounter core (t.pa (rcnt / 16 * 16)) (some t) (fun v => counterNext v 1 0 false)
    | .absent _ _ => s

/-- What serving a request comes to: the state after it, and its outcome with the bytes it gave; none while it waits for a home. -/
abbrev Served := State × Option (Nat × List Byte)

/-- A put served at its target under its remote windows (R417, R421). -/
def State.servePut (s : State) (core isle : Nat) (wins : FMap DWord) (raddr : Nat) (data : List PByte) (rcnt : Nat) : Served :=
  let ok (g : Grants) : Bool := g.wr
  let c := rcnt / 16 * 16
  if (s.isle isle).inReset then (s, some (7, []))
  else if !inWindows wins ok raddr data.length || !(decide (rcnt = 0) || inWindows wins ok c 32) then (s, some (2, []))
  else
    match s.remotePages isle raddr data.length false true,
      (if rcnt = 0 then some [] else s.remotePages isle c 32 true true) with
    | some pages, some cpages =>
      match s.partsWait (cpages ++ pages) ((if rcnt = 0 then [] else [(c, 16)]) ++ extentParts raddr data.length) true with
      | some s1 => (s1, none)
      | none => ((State.writeParts core pages (extentParts raddr data.length) data s).countRemote core isle rcnt, some (0, []))
    | _, _ => (s, some (3, []))

/-- A get served at its target (R417, R421). -/
def State.serveGet (s : State) (core isle : Nat) (wins : FMap DWord) (raddr len : Nat) : Served :=
  if (s.isle isle).inReset then (s, some (7, []))
  else if !inWindows wins (fun g => g.rd) raddr len then (s, some (2, []))
  else
    match s.remotePages isle raddr len true false with
    | none => (s, some (3, []))
    | some pages =>
      match s.partsWait pages (extentParts raddr len) false, State.readParts core pages (extentParts raddr len) s with
      | some s1, _ => (s1, none)
      | none, (s1, bs) => if bs.any (fun b => b.bad) then (s1, some (4, [])) else (s1, some (0, bs.map (fun b => b.val)))

/-- The new value of a fabric atomic (R418, R421): as the atom of the same name (R344), on four or eight bytes. -/
def fabAtomNew (sub : Nat) (wide : Bool) (old op1 op2 : Nat) : Nat :=
  let n := if wide then 64 else 32
  let a := old % 2 ^ n
  let b := op1 % 2 ^ n
  match sub with
  | 0 => (a + b) % 2 ^ n
  | 1 => if signed n b < signed n a then b else a
  | 2 => if signed n a < signed n b then b else a
  | 3 => a &&& b
  | 4 => a ||| b
  | 5 => a ^^^ b
  | 6 => b
  | 7 => if a = b then op2 % 2 ^ n else a
  | _ => (Fpu.fadd .rne false false (BitVec.ofNat 32 a) (BitVec.ofNat 32 b)).toNat

/-- An atomic served at its target (R417, R421). -/
def State.serveAtom (s : State) (core isle : Nat) (wins : FMap DWord) (raddr sub : Nat) (wide : Bool) (op1 op2 : DWord) : Served :=
  let n := if wide then 8 else 4
  if (s.isle isle).inReset then (s, some (7, []))
  else if !inWindows wins (fun g => g.at') raddr n then (s, some (2, []))
  else
    match s.remotePages isle raddr n true true with
    | none => (s, some (3, []))
    | some pages =>
      let t := pageFor pages raddr
      match s.partsWait pages [(raddr, n)] true, s.readHome core t.mode t.lease (t.pa raddr) n with
      | some s1, _ => (s1, none)
      | none, (s1, old, bad) =>
        if bad then (s1, some (4, []))
        else
          let new := fabAtomNew sub wide old op1.toNat op2.toNat
          (if sub = 7 ∧ new = old ∧ old ≠ op1.toNat % 2 ^ (8 * n) then s1 else s.writeHome core t.mode (t.pa raddr) n new 0 [],
            some (0, leBytes n old))

/-! ### The engine's steps (R421) -/

/-- A fabric operation in flight. -/
def State.fab (s : State) (id : Nat) : Option FabOp := s.fabs.find? (fun f => decide (f.id = id))

/-- A fabric operation replaced by `f` of it. -/
def State.onFab (s : State) (id : Nat) (f : FabOp → FabOp) : State :=
  { s with fabs := s.fabs.map (fun x => if x.id = id then f x else x) }

/-- Whether an earlier access of an operation's thread holds back a read or a write of a local extent (R162, R297). -/
def State.fabHeld (s : State) (f : FabOp) (pages : List Tlb) (wr : Bool) (va : Nat) : Bool :=
  (extentParts va f.desc.len).any (fun x =>
    s.earlierHolds f.id f.core f.slot f.uid f.tid false wr ((pageFor pages x.1).pa x.1) x.2)

/-- FABRIC_SOURCE_READ (R421): the local source bytes are read, and the flag falls. -/
def execFabricSourceRead (op : Nat) (s : State) : Out :=
  match s.fab op with
  | none => .next s
  | some f =>
    if !f.kind.sends || f.src.isSome || s.fabHeld f f.lpages false f.desc.laddr then .next s
    else
      match s.partsWait f.lpages (extentParts f.desc.laddr f.desc.len) false with
      | some s1 => .next s1
      | none =>
      match State.readParts f.core f.lpages (extentParts f.desc.laddr f.desc.len) s with
      | (s1, bs) =>
        .next ((s1.onFab op (fun x => { x with src := some bs })).onUid f.core f.slot f.uid f.tid (fun t => t.dropFlag f.flag))

/-- Whether a member of an operation is an isle of this package. -/
def State.localMember (s : State) (m : Nat × Nat) : Bool := decide (m.1 = s.board.pkgId)

/-- What a target answers to an operation of this package, under the windows that stood at its acceptance (R417); nothing before its
source has been read. -/
def State.serveOwn (s : State) (f : FabOp) (isle : Nat) : Option Served :=
  let d := f.desc
  let wins := FMap.get [] f.wins isle
  match f.kind, f.src with
  | .get, _ => some (s.serveGet f.core isle wins d.raddr d.len)
  | .atom, _ => some (s.serveAtom f.core isle wins d.raddr d.sub d.wide d.op1 d.op2)
  | .put, some bs => some (s.servePut f.core isle wins d.raddr bs d.rcnt)
  | .mcast, some bs => some (s.servePut f.core isle wins d.raddr bs d.rcnt)
  | _, _ => none

/-- The core that stands for an isle's fabric engine. -/
def State.engineCore (s : State) (isle : Nat) : Nat := (s.isleCores isle).headD 0

/-- FABRIC_REMOTE_REQUEST (R417, R421, R424): a put, get or atomic is checked and served at its target in this package. The
issuer's engine has checked an atomic's alignment (R419). -/
def execFabricRemoteRequest (req : FabRequest) (s : State) : Out :=
  match req with
  | .own op member =>
    match s.fab op with
    | none => .next s
    | some f =>
      match f.members[member]? with
      | none => .next s
      | some m =>
        if !s.localMember m || (f.served.find member).isSome then .next s
        else
          match s.serveOwn f m.2 with
          | none => .next s
          | some (s1, none) => .next s1
          | some (s1, some (o, bs)) => .next (s1.onFab op (fun x => { x with served := x.served.put member o, back := bs }))
  | .outside isle raddr verb =>
    let core := s.engineCore isle
    let wins := (s.isle isle).windows
    match verb with
    | .put data rcnt => .next (s.servePut core isle wins raddr data rcnt).1
    | .get len => .next (s.serveGet core isle wins raddr len).1
    | .atom sub wide op1 op2 =>
      .next (if raddr % (if wide then 8 else 4) = 0 then (s.serveAtom core isle wins raddr sub wide op1 op2).1 else s)

/-! ### Completion (R421) -/

/-- A fabric status word (R418). -/
def fabStatus (outcome : Nat) (gen : Word) (contrib : Nat) : Nat := outcome + gen.toNat * 2 ^ 32 + contrib * 2 ^ 64

/-- A failure told to a fabric counter, unless it is poisoned (R421): err and the status word. -/
def State.failCounter (s : State) (f : FabOp) (outcome : Nat) (gen : Word) (contrib : Nat) : State :=
  let t := f.cpage.getD (mPage f.counter)
  match s.readHome f.core t.mode t.lease f.counter 32 with
  | (s1, v, bad) =>
    if bad then s1
    else
      s.writeHome f.core t.mode f.counter 32 (counterNext (v % 2 ^ 128) 0 0 true + fabStatus outcome gen contrib * 2 ^ 128) 0 []

/-- An operation that is over. -/
def State.dropFab (s : State) (id : Nat) : State := { s with fabs := s.fabs.filter (fun f => decide (f.id ≠ id)) }

/-- An operation fails (R421). -/
def State.failFab (s : State) (f : FabOp) (outcome : Nat) (gen : Word) (contrib : Nat) : State :=
  (s.failCounter f outcome gen contrib).dropFab f.id

/-- An operation succeeds (R421). -/
def State.succeedFab (s : State) (f : FabOp) (n refused : Nat) : State :=
  (s.updateCounter f.core f.counter f.cpage (fun v => counterNext v n refused false)).dropFab f.id

/-- What the end of some operations waits for: the homes of their counters, and of the lines of a result (R156, R308, R315). -/
def State.endWaits (s : State) (l : List FabOp) (result : Option Nat) : Option State :=
  match s.awaitLines (l.map (fun f => (lineOf f.counter, (f.cpage.getD (mPage f.counter)).mode))) true with
  | some s1 => some s1
  | none =>
    match result with
    | some len => l.findSome? (fun f => s.partsWait f.rpages (extentParts f.desc.raddr len) true)
    | none => none

/-- An operation that ends, once the home of its counter is free. -/
def State.endFab (s : State) (f : FabOp) (k : State) : Out :=
  match s.endWaits [f] none with
  | some s1 => .next s1
  | none => .next k

/-- The outcome of an operation with one target, and the bytes it gave, once known. -/
def State.fabOutcome (s : State) (f : FabOp) (r : FabReply) : Option (Nat × List Byte) :=
  match f.members with
  | [m] =>
    if s.localMember m then (f.served.find 0).map (fun o => (o, f.back))
    else if f.kind.sends && f.src.isNone then none
    else some (r.outcome, r.data)
  | _ => none

/-- The places in a list that satisfy `p`. -/
def placesOf {α : Type} (p : α → Bool) (l : List α) : List Nat :=
  (List.range l.length).filter (fun k => ((l[k]?).map p).getD false)

/-- FABRIC_COMPLETE (R421): a put, get, atomic or multicast has been answered by all its targets; the local bytes are
written, then the counter. A reduction completes at its aggregation point. -/
def execFabricComplete (op : Nat) (reply : FabReply) (s : State) : Out :=
  match s.fab op with
  | none => .next s
  | some f =>
    match f.kind with
    | .red => .next s
    | .mcast =>
      let mine := placesOf s.localMember f.members
      let others := f.members.length - mine.length
      if f.src.isNone || mine.any (fun k => (f.served.find k).isNone) || decide (others < reply.accepted + reply.refused) then .next s
      else
        let good := (mine.filter (fun k => decide (f.served.find k = some 0))).length
        if reply.outcome = 1 ∧ mine = [] then s.endFab f (s.failFab f 1 0#32 0)
        else s.endFab f (s.succeedFab f (good + reply.accepted) (mine.length - good + reply.refused))
    | k =>
      match s.fabOutcome f reply with
      | none => .next s
      | some (0, bs) =>
        let parts := extentParts f.desc.laddr f.desc.len
        if k = .put then s.endFab f (s.succeedFab f 1 0)
        else if bs.length ≠ f.desc.len || s.fabHeld f f.lpages true f.desc.laddr then .next s
        else
          match s.partsWait f.lpages parts true with
          | some s1 => .next s1
          | none => s.endFab f ((State.writeParts f.core f.lpages parts (cleanBytes bs) s).succeedFab f 1 0)
      | some (n, _) => s.endFab f (s.failFab f n 0#32 0)

/-- FABRIC_UNREACHABLE (R424): a target outside the package has not been reached for 2^24 cycles. -/
def execFabricUnreachable (op : Nat) (s : State) : Out :=
  match s.fab op with
  | none => .next s
  | some f =>
    if f.kind ≠ .red && f.members.all (fun m => !s.localMember m) && decide (f.since + 2 ^ 24 ≤ s.cycle) &&
        !(f.kind.sends && f.src.isNone) then s.endFab f (s.failFab f 1 0#32 0)
    else .next s

/-! ### Reductions (R422) -/

/-- Whether a generation is after another, modulo 2^32 (R422). -/
def genAfter (a b : Word) : Bool :=
  let d := (a - b).toNat
  decide (1 ≤ d) && decide (d ≤ 2 ^ 31 - 1)

/-- The aggregation state of a group. -/
def State.reduction (s : State) (g : Nat) : Reduction := FMap.get Reduction.blank s.reductions g

/-- Two elements combined (R418, R422). -/
def combineWord (sub : Nat) (a b : Word) : Word :=
  match sub with
  | 0 => a + b
  | 1 => Fpu.fadd .rne false false a b
  | 2 => Fpu.padd .bf16 .rne false false a b
  | 3 => if b.slt a then b else a
  | 4 => if a.slt b then b else a
  | 5 => Fpu.fmin false a b
  | 6 => Fpu.fmax false a b
  | 7 => a &&& b
  | _ => a ||| b

/-- Two vectors combined word by word; poison of either spoils a word. The fuel is the number of words. -/
def combineBytes (sub : Nat) : Nat → List PByte → List PByte → List PByte
  | 0, _, _ => []
  | n + 1, a, b =>
    let x := a.take 4
    let y := b.take 4
    let word (l : List PByte) : Word := BitVec.ofNat 32 (leNat (l.map (fun c => c.val)))
    let bad := x.any (fun c => c.bad) || y.any (fun c => c.bad)
    (leBytes 4 (combineWord sub (word x) (word y)).toNat).map (fun c => ⟨c, bad⟩) ++ combineBytes sub n (a.drop 4) (b.drop 4)

/-- Two members of a list taken out: the `i`-th, and then the `j`-th of the rest. -/
def takeTwo {α : Type} (i j : Nat) (l : List α) : Option (α × α × List α) :=
  match l[i % l.length]? with
  | none => none
  | some a =>
    let r := l.eraseIdx (i % l.length)
    match r[j % r.length]? with
    | none => none
    | some b => some (a, b, r.eraseIdx (j % r.length))

/-- Vectors combined along a tree that is not fixed (R422, log 27). -/
def combineTree (group : Nat) (gen : Word) (sub words : Nat) : Nat → List (List PByte) → List PByte
  | _, [] => []
  | _, [v] => v
  | 0, v :: _ => v
  | n + 1, l =>
    match takeTwo (Config.freeTree group gen.toNat n).1 (Config.freeTree group gen.toNat n).2 l with
    | none => []
    | some (a, b, r) => combineTree group gen sub words n (combineBytes sub words a b :: r)

/-- The mask of the members that have contributed. -/
def Gather.mask (x : Gather) : Nat := x.got.foldl (fun m c => m ||| 2 ^ (c.member % 64)) 0

/-- A generation of a group closed (R422). -/
def State.closeGen (s : State) (g : Nat) (gen : Word) : State :=
  let r := s.reduction g
  { s with reductions := s.reductions.put g { closed := gen, pending := r.pending.del gen.toNat } }

/-- The operations of this package among some contributions. -/
def State.ownOps (s : State) (l : List Contrib) : List FabOp := l.filterMap (fun c => c.own.bind (fun id => s.fab id))

/-- A generation abandoned (R422): every contributor of this package is told. -/
def State.abandonGen (s : State) (g : Nat) (gen : Word) (x : Gather) (outcome : Nat) : State :=
  (s.ownOps x.got).foldl (fun (u : State) f => u.failFab f outcome gen x.mask) (s.closeGen g gen)

/-- Whether a generation is complete (R417, R422): its contributors list the group alike, and each member of the list has
contributed. -/
def State.gathered (s : State) (x : Gather) : Bool :=
  match x.got with
  | [] => false
  | c :: _ => !(s.ownOps x.got).isEmpty && x.got.all (fun d => decide (d.members = c.members)) &&
      (List.range c.members.length).all (fun m => x.got.any (fun d => decide (d.member = m)))

/-- The result of a generation written to the members of this package, and their counters updated (R422). -/
def State.finishGen (s : State) (g : Nat) (gen : Word) (x : Gather) (sub len : Nat) : State :=
  let result := combineTree g gen sub (len / 4) x.got.length (x.got.map (fun c => c.data))
  (s.ownOps x.got).foldl (fun (u : State) f =>
    (State.writeParts f.core f.rpages (extentParts f.desc.raddr len) result u).succeedFab f 1 0) (s.closeGen g gen)

/-- A contribution enters its generation (R422). A member that has contributed to it waits for it to close; one that ends it waits for
the homes of what is written then. -/
def State.contribute (s : State) (g : Nat) (gen : Word) (limit : Nat) (c : Contrib) : State :=
  let r := s.reduction g
  let x := FMap.get { limit := limit, since := s.cycle, got := [] } r.pending gen.toNat
  if x.got.any (fun d => decide (d.member = c.member)) then s
  else
    let y : Gather := { x with got := x.got ++ [c] }
    let ends := x.got.any (fun d => decide (d.sub ≠ c.sub) || decide (d.len ≠ c.len))
    let full := s.gathered y
    let s1 : State := { s with reductions := s.reductions.put g { r with pending := r.pending.put gen.toNat y } }
    let s2 := match c.own with
      | some id => s1.onFab id (fun f => { f with contributed := true })
      | none => s1
    match if ends then s.endWaits (s.ownOps y.got) none else if full then s.endWaits (s.ownOps y.got) (some c.len) else none with
    | some s3 => s3
    | none => if ends then s2.abandonGen g gen y 8 else if full then s2.finishGen g gen y c.sub c.len else s2

/-- The place of an isle of this package in an operation's group (R417). -/
def State.memberOf (s : State) (f : FabOp) : Nat :=
  ((List.range f.members.length).find? (fun k => decide (f.members[k]? = some (s.board.pkgId, f.isle)))).getD 0

/-- REDUCTION_CONTRIBUTION (R422); one whose generation has been abandoned fails once the home of its counter is free. -/
def execReductionContribution (c : Contribution) (s : State) : Out :=
  match c with
  | .own op =>
    match s.fab op with
    | none => .next s
    | some f =>
      match f.kind, f.src with
      | .red, some bs =>
        let g := f.desc.tgt % 256
        if f.contributed then
          match f.failing with
          | some (outcome, gen, mask) => s.endFab f (s.failFab f outcome gen mask)
          | none => .next s
        else if s.fabHeld f f.rpages true f.desc.raddr then .next s
        else if !genAfter f.desc.gen (s.reduction g).closed then s.endFab f (s.failFab f 6 f.desc.gen 0)
        else
          .next (s.contribute g f.desc.gen f.limit
            { member := s.memberOf f, members := f.members, own := some op, sub := f.desc.sub, len := f.desc.len, data := bs })
      | _, _ => .next s
  | .outside g member members gen sub len limit data =>
    if genAfter gen (s.reduction g).closed ∧ data.length = len then
      .next (s.contribute g gen limit { member := member, members := members, own := none, sub := sub, len := len, data := data })
    else .next s

/-- A generation abandoned while the home of a contributor's counter is busy (R315, R422): it is closed at once, so that what comes
later is stale, and each contributor of this package is told as soon as its counter's home is free. -/
def State.abandonLater (s : State) (g : Nat) (gen : Word) (x : Gather) (outcome : Nat) : State :=
  (s.ownOps x.got).foldl (fun (u : State) f => u.onFab f.id (fun y => { y with failing := some (outcome, gen, x.mask) })) (s.closeGen g gen)

/-- REDUCTION_TIMEOUT (R422, R423): the generations of a group whose limit has passed are abandoned. -/
def execReductionTimeout (group : Nat) (s : State) : Out :=
  .next (((s.reduction group).pending.filter (fun x => decide (x.2.since + x.2.limit ≤ s.cycle))).foldl
    (fun (u : State) x =>
      match u.endWaits (u.ownOps x.2.got) none with
      | some u1 => u1.abandonLater group (BitVec.ofNat 32 x.1) x.2 5
      | none => u.abandonGen group (BitVec.ofNat 32 x.1) x.2 5) s)

/-! ### RDMA peers and drives (R415, R416) -/

/-- The mode in which a home holds a line. -/
def State.modeOf (s : State) (pa : Nat) : CMode := ((s.lines.find (lineOf pa)).map (fun h => h.mode)).getD .dir

/-- A peer's 8-byte atomic (R415): the new value, if one is written. -/
def peerNew (v : PeerVerb) (old : DWord) : Option DWord :=
  match v with
  | .cmpSwap cmp new => if old = cmp then some new else none
  | .fetchAdd x => some (old + x)
  | _ => none

/-- What a region of an isle's memory-region table grants (R410, R415; layout: log 94): key, base, length, permissions. -/
def Isle.region (x : Isle) (r : Nat) : Option (Nat × Nat × Nat × Grants) :=
  let word (k : Nat) : Nat := (FMap.get 0#64 x.regions (4 * r + k)).toNat
  if bit (word 0) 63 then some (word 0 % 2 ^ 32, word 1 % 2 ^ 48, word 2, ⟨bit (word 3) 0, bit (word 3) 1, bit (word 3) 2⟩) else none

/-- Whether a peer may access an extent: a region of the key holds it and grants the access (R415). -/
def Isle.peerMay (x : Isle) (key va n : Nat) (ok : Grants → Bool) : Bool :=
  (List.range 256).any (fun r =>
    match x.region r with
    | some (k, base, len, g) => decide (k = key) && decide (base ≤ va) && decide (va + n ≤ base + len) && ok g
    | none => false)

/-- The pages of an extent that a peer reaches through a queue pair, with the queue pair's isle; none where the access fails (R415). -/
def State.peerPages (s : State) (r : PeerAccess) (n : Nat) (rd wr : Bool) (ok : Grants → Bool) : Option (Nat × List Tlb) :=
  match (s.board.pair r.qp).isle with
  | none => none
  | some i => if (s.isle i).peerMay r.key r.va n ok then (s.remotePages i r.va n rd wr).map (fun l => (i, l)) else none

/-- A peer's atomic at its word. -/
def State.peerAtom (s : State) (r : PeerAccess) : State :=
  if r.va % 8 ≠ 0 then s
  else
    match s.peerPages r 8 true true (fun g => g.at') with
    | none => s
    | some (i, pages) =>
      let t := pageFor pages r.va
      match s.partsWait pages [(r.va, 8)] true, s.readHome (s.engineCore i) t.mode t.lease (t.pa r.va) 8 with
      | some s1, _ => s1
      | none, (s1, old, bad) =>
        match (if bad then none else peerNew r.verb (BitVec.ofNat 64 old)) with
        | some v => s.writeHome (s.engineCore i) t.mode (t.pa r.va) 8 v.toNat 0 []
        | none => s1

/-- A peer's bytes written. -/
def State.peerWrite (s : State) (r : PeerAccess) (data : List Byte) : State :=
  match s.peerPages r data.length false true (fun g => g.wr) with
  | none => s
  | some (i, pages) =>
    (s.partsWait pages (extentParts r.va data.length) true).getD
      (State.writeParts (s.engineCore i) pages (extentParts r.va data.length) (cleanBytes data) s)

/-- RDMA_PEER_ACCESS (R415): through a queue pair, a memory region and the isle's page tables; one that fails writes nothing. -/
def execRdmaPeerAccess (req : PeerAccess) (s : State) : Out :=
  match req.verb with
  | .send data => .next (s.peerWrite req data)
  | .write data => .next (s.peerWrite req data)
  | .read len =>
    match s.peerPages req len true false (fun g => g.rd) with
    | some (i, pages) =>
      .next ((s.partsWait pages (extentParts req.va len) false).getD
        (State.readParts (s.engineCore i) pages (extentParts req.va len) s).1)
    | none => .next s
  | _ => .next (s.peerAtom req)

/-- The device interrupt raised on cores of an isle (R242, R415, R416). -/
def State.raiseDevice (s : State) (isle : Nat) (cores : List Nat) : State :=
  (cores.filter (fun k => decide (s.isleOfCore k = some isle))).foldl (fun (u : State) k =>
    u.onLane k (fun l => { l with ipend := l.ipend ||| 0x100#64 })) s

/-- RDMA_WORK_COMPLETION (R415): the device interrupt on the cores that the queue pair names. -/
def execRdmaWorkCompletion (port qp : Nat) (s : State) : Out :=
  let q := s.board.pair (1024 * port + qp)
  match q.isle with
  | some i => .next (s.raiseDevice i ((List.range Config.cores).filter (fun k => bit q.cores.toNat k)))
  | none => .next s

/-- Whether a physical extent lies in an isle's memory ranges. -/
def State.extentOwned (s : State) (isle pa n : Nat) : Bool :=
  (extentPages pa n).all (fun a => s.inPartition isle a) && s.inPartition isle (pa + n - 1)

/-- A DMA access that may be made, at its port's isle: the isle, the lines' pages and the parts. One outside the isle's ranges is
aborted (R416). -/
def State.dmaPlan (s : State) (req : DmaAccess) : Option (Nat × List Tlb × List (Nat × Nat)) :=
  let n := match req.data with
    | some bs => bs.length
    | none => req.len
  let page (a : Nat) : Tlb :=
    { mPage a with vbase := a / 128 * 128, bits := 7, pbase := a / 128 * 128, mode := s.modeOf a }
  match s.board.portIsle.find req.port with
  | none => none
  | some i =>
    if n = 0 ∨ s.extentOwned i req.pa n = false then none
    else some (i, (extentParts req.pa n).map (fun x => page x.1), extentParts req.pa n)

/-- What a DMA access waits for at the homes of its lines (R308, R315). -/
def State.dmaWaits (s : State) (req : DmaAccess) : Option State :=
  match s.dmaPlan req with
  | some (_, pages, parts) => s.partsWait pages parts req.data.isSome
  | none => none

/-- A DMA access made (R416). -/
def State.doDma (s : State) (req : DmaAccess) : State :=
  match s.dmaPlan req with
  | none => s
  | some (i, pages, parts) =>
    match req.data with
    | some bs => State.writeParts (s.engineCore i) pages parts (cleanBytes bs) s
    | none => (State.readParts (s.engineCore i) pages parts s).1

/-- NVME_DMA (R416): drive DMA at physical addresses; outside the ranges of its port's isle it is aborted. -/
def execNvmeDma (req : DmaAccess) (s : State) : Out := .next ((s.dmaWaits req).getD (s.doDma req))

/-- NVME_COMPLETION (R416): every data write of the command is performed, then the device interrupt of its completion entry is
raised. -/
def execNvmeCompletion (port : Nat) (entry : NvmeEntry) (s : State) : Out :=
  match entry.writes.findSome? s.dmaWaits, s.board.portIsle.find port with
  | some s1, _ => .next s1
  | none, some i => .next ((entry.writes.foldl State.doDma s).raiseDevice i entry.cores)
  | none, none => .next s

end Sys2Proof.Machine
end

