-- ==== Sys2Proof/Machine/Alu.lean ====
section
/-! DEFINITION. The results of the R-class instructions (R118 to R126), as functions of their operand values. -/

namespace Sys2Proof.Machine.Alu

/-- add (R118). -/
def add (a b : Word) : Word := a + b
/-- sub (R118). -/
def sub (a b : Word) : Word := a - b
/-- add64 (R118). -/
def add64 (a b : DWord) : DWord := a + b
/-- sub64 (R118). -/
def sub64 (a b : DWord) : DWord := a - b
/-- mul (R118). -/
def mul (a b : Word) : Word := a * b
/-- mulhi.s (R118): bits [63:32] of the exact signed product. -/
def mulhiS (a b : Word) : Word := BitVec.ofInt 32 (a.toInt * b.toInt / (2 ^ 32 : Nat))
/-- mulhi.u (R118). -/
def mulhiU (a b : Word) : Word := BitVec.ofNat 32 (a.toNat * b.toNat / 2 ^ 32)
/-- mad (R118); `d` is the addend. -/
def mad (d a b : Word) : Word := a * b + d
/-- mad64 (R118): unsigned 32-bit factors. -/
def mad64 (d : DWord) (a b : Word) : DWord := BitVec.setWidth 64 a * BitVec.setWidth 64 b + d

/-- divu (R119). -/
def divu (a b : Word) : Word := if b = 0#32 then 0xFFFFFFFF#32 else BitVec.ofNat 32 (a.toNat / b.toNat)
/-- remu (R119). -/
def remu (a b : Word) : Word := if b = 0#32 then a else BitVec.ofNat 32 (a.toNat % b.toNat)
/-- divs (R119): truncating toward zero. -/
def divs (a b : Word) : Word :=
  if b = 0#32 then 0xFFFFFFFF#32
  else if a = 0x80000000#32 ∧ b = 0xFFFFFFFF#32 then 0x80000000#32
  else BitVec.ofInt 32 (Int.tdiv a.toInt b.toInt)
/-- rems (R119): the dividend's sign. -/
def rems (a b : Word) : Word :=
  if b = 0#32 then a
  else if a = 0x80000000#32 ∧ b = 0xFFFFFFFF#32 then 0#32
  else BitVec.ofInt 32 (a.toInt - b.toInt * Int.tdiv a.toInt b.toInt)

/-- shl (R120): the whole amount counts. -/
def shl (a b : Word) : Word := if 32 ≤ b.toNat then 0#32 else a <<< b.toNat
/-- shr (R120). -/
def shr (a b : Word) : Word := if 32 ≤ b.toNat then 0#32 else a >>> b.toNat
/-- sra (R120). -/
def sra (a b : Word) : Word := if 32 ≤ b.toNat then a.sshiftRight 31 else a.sshiftRight b.toNat
/-- rotl (R120). -/
def rotl (a b : Word) : Word := (a <<< (b.toNat % 32)) ||| (a >>> (32 - b.toNat % 32))
/-- shl64 (R120). -/
def shl64 (a : DWord) (b : Word) : DWord := if 64 ≤ b.toNat then 0#64 else a <<< b.toNat
/-- shr64 (R120). -/
def shr64 (a : DWord) (b : Word) : DWord := if 64 ≤ b.toNat then 0#64 else a >>> b.toNat
/-- sra64 (R120). -/
def sra64 (a : DWord) (b : Word) : DWord := if 64 ≤ b.toNat then a.sshiftRight 63 else a.sshiftRight b.toNat

/-- andn (R121). -/
def andn (a b : Word) : Word := a &&& ~~~b
/-- orn (R121). -/
def orn (a b : Word) : Word := a ||| ~~~b

/-- abs (R123): wrapping. -/
def abs (a : Word) : Word := if 0 ≤ a.toInt then a else -a

/-- Zero bits above the highest set bit, among the low `n` bits. -/
def clzAux (x : Nat) : Nat → Nat
  | 0 => 0
  | n + 1 => if Nat.testBit x n then 0 else 1 + clzAux x n

/-- Zero bits below the lowest set bit, `n` bits from bit `i` up. -/
def ctzAux (x i : Nat) : Nat → Nat
  | 0 => 0
  | n + 1 => if Nat.testBit x i then 0 else 1 + ctzAux x (i + 1) n

/-- Set bits among the low `n` bits. -/
def popAux (x : Nat) : Nat → Nat
  | 0 => 0
  | n + 1 => b2n (Nat.testBit x n) + popAux x n

/-- clz (R123). -/
def clz (a : Word) : Word := BitVec.ofNat 32 (clzAux a.toNat 32)
/-- ctz (R123). -/
def ctz (a : Word) : Word := BitVec.ofNat 32 (ctzAux a.toNat 0 32)
/-- popc (R123). -/
def popc (a : Word) : Word := BitVec.ofNat 32 (popAux a.toNat 32)
/-- brev (R123). -/
def brev (a : Word) : Word := a.reverse

/-- pos of a field word (R124). -/
def fieldPos (b : Word) : Nat := bits b.toNat 4 0
/-- The effective length of a field word (R124). -/
def fieldLen (b : Word) : Nat := min (bits b.toNat 13 8) (32 - fieldPos b)

/-- bfx (R124). -/
def bfx (a b : Word) : Word :=
  let l := fieldLen b
  if l = 0 then 0#32
  else
    let f := (a.toNat >>> fieldPos b) % 2 ^ l
    if bit b.toNat 16 then wordOfInt (signed l f) else BitVec.ofNat 32 f

/-- bfi (R124); `d` is the destination's old value. -/
def bfi (d a b : Word) : Word :=
  if fieldLen b = 0 then d else BitVec.ofNat 32 (putBits d.toNat (fieldPos b) (fieldLen b) a.toNat)

/-- One result byte of bmix (R125): `src` holds b over a, `s` the five-bit selector field. -/
def bmixByte (src s : Nat) : Nat :=
  let byte := (src >>> (8 * (s % 8))) % 256
  match (s / 8) % 4 with
  | 0 => byte
  | 1 => if bit byte 7 then 0xFF else 0
  | 2 => 0
  | _ => 0xFF

/-- bmix (R125); `d` is the selector. -/
def bmix (d a b : Word) : Word :=
  let src := (pair64 b a).toNat
  let byte (i : Nat) : Nat := bmixByte src (bits d.toNat (5 * i + 4) (5 * i))
  BitVec.ofNat 32 (byte 0 + byte 1 * 2 ^ 8 + byte 2 * 2 ^ 16 + byte 3 * 2 ^ 24)

/-- sel (R126); `d` is tested. -/
def sel (d a b : Word) : Word := if d = 0#32 then b else a

/-- dp4 (R139): exact, then clamped with `sat` or wrapped. -/
def dp4 (sat : Bool) (d a b : Word) : Word :=
  let term (i : Nat) : Int :=
    signed 8 (a.toNat >>> (8 * i)) * signed 8 (b.toNat >>> (8 * i))
  let s := d.toInt + term 0 + term 1 + term 2 + term 3
  if sat then wordOfInt (clampInt s (-(2 ^ 31 : Nat)) ((2 ^ 31 - 1 : Nat))) else wordOfInt s

end Sys2Proof.Machine.Alu
end

