-- ==== Sys2Proof/Machine/Approx.lean ====
section
/-! DEFINITION. The approximated functions (R135, R136): a free value of Config that is taken where it lies within the
bound of R136, and elsewhere a value that does. The bound is judged by exact arithmetic for frcp and frsq, and by an
enclosure of the function's value in fixed point for the others (log 7). -/

namespace Sys2Proof.Machine.Approx

/-- Binary places of the fixed-point values. -/
def places : Nat := 400

/-- One in fixed point. -/
def one : Int := ((2 ^ places : Nat) : Int)

/-- A bound on the error of every fixed-point value below, 2^-250. -/
def slack : Int := ((2 ^ (places - 250) : Nat) : Int)

/-- A fixed-point product. -/
def fmulFix (x y : Int) : Int := x * y / one

/-- A dyadic value in fixed point, rounded down. -/
def fix (neg : Bool) (m : Nat) (e : Int) : Int :=
  let s : Int := e + places
  let u : Int := if 0 ≤ s then ((m <<< s.toNat : Nat) : Int) else ((m >>> (-s).toNat : Nat) : Int)
  if neg then -u else u

/-- The sum over k from 0 of `t` / (`d` (2k + 1)), `t` multiplied by `r` / `den` at each term. -/
def oddSeries (r den : Int) : Nat → Int → Nat → Int
  | 0, _, _ => 0
  | n + 1, t, k => t / ((2 * k + 1 : Nat) : Int) + oddSeries r den n (t * r / den) (k + 1)

/-- arctan of 1 / q. -/
def atanInv (q : Nat) : Int := oddSeries (-1) ((q * q : Nat) : Int) 180 (one / (q : Int)) 0

/-- pi, by Machin's sum. -/
def pi : Int := 16 * atanInv 5 - 4 * atanInv 239

/-- The natural logarithm of 2, as 2 artanh(1/3). -/
def ln2 : Int := 2 * oddSeries 1 9 140 (one / 3) 0

/-- The sum over k of `t`, each term the one before times `x` / `c k`. -/
def powSeries (x : Int) (c : Nat → Int) : Nat → Int → Nat → Int
  | 0, _, _ => 0
  | n + 1, t, k => t + powSeries x c n (fmulFix t x / c k) (k + 1)

/-- 2^f for 0 ≤ f < 1. -/
def exp2Frac (f : Int) : Int := powSeries (fmulFix f ln2) (fun k => ((k + 1 : Nat) : Int)) 90 one 0

/-- log2 of y for 1 ≤ y < 2. -/
def log2Frac (y : Int) : Int :=
  let z := (y - one) * one / (y + one)
  2 * oddSeries (fmulFix z z) one 140 z 0 * one / ln2

/-- sin r for 0 ≤ r < 2 pi. -/
def sinFix (r : Int) : Int :=
  powSeries (-(fmulFix r r)) (fun k => (((2 * k + 2) * (2 * k + 3) : Nat) : Int)) 80 r 0

/-- cos r for 0 ≤ r < 2 pi. -/
def cosFix (r : Int) : Int :=
  powSeries (-(fmulFix r r)) (fun k => (((2 * k + 1) * (2 * k + 2) : Nat) : Int)) 80 one 0

/-- The exponent of ulp(z) for a positive z with 2^E ≤ z < 2^(E + 1) (R135). -/
def ulpExp (E : Int) : Int := (if E < -126 then -126 else E) - 23

/-- Floor of log2 of a positive dyadic value. -/
def topExp (m : Nat) (e : Int) : Int := e + (Nat.log2 m : Int)

/-- A finite FP32 pattern's value in fixed point; exact. -/
def fixOf (y : Word) : Int :=
  let c := y.toNat % 2 ^ 31
  fix (bit y.toNat 31) (FloatFmt.f32.units c) FloatFmt.f32.emin

/-- Whether a pattern is a finite number. -/
def isFinite (y : Word) : Bool := decide (y.toNat % 2 ^ 31 < 0x7F800000)

/-- Whether `y` is a finite number certainly within `bound` of a value known within the slack (R135). -/
def near (y : Word) (value bound : Int) : Bool :=
  isFinite y && decide (fixOf y - value + slack ≤ bound) && decide (value - fixOf y + slack ≤ bound)

/-- The free value where it is allowed, else a value that is. -/
def choose (free : Word) (ok : Bool) (other : Word) : Word := if ok then free else other

/-- A fixed-point value rounded to FP32 by truncation, so within one ulp. -/
def fromFix (v : Int) : Word :=
  toFp32 .rz false (if v = 0 then .zero false else .fin (decide (v < 0)) v.natAbs (-(places : Int)))

/-- Whether |y - 1/x| ≤ ulp(1/x) for x = m * 2^e positive, y positive: multiplied by x (R136). -/
def rcpOk (y : Word) (m : Nat) (e : Int) : Bool :=
  let E : Int := if m = 2 ^ Nat.log2 m then -(topExp m e) else -(topExp m e) - 1
  let yu : Int := ((FloatFmt.f32.units (y.toNat % 2 ^ 31) : Nat) : Int)
  let sc : Int := 149 - e
  let unit : Int := ((2 ^ sc.toNat : Nat) : Int)
  let ulp : Int := ((2 ^ (ulpExp E + 149).toNat : Nat) : Int)
  isFinite y && decide (yu * m - unit ≤ ulp * m) && decide (unit - yu * m ≤ ulp * m)

/-- frcp (R136); a power of two is done before `top` is compared, so that 126 ≤ top is |x| > 2^126, whose result is subnormal or
zero. -/
def frcp (sat ftz : Bool) (a : Word) : Word :=
  match fp32 ftz a with
  | .nan => 0x7FC00000#32
  | .inf neg => if neg then 0x80000000#32 else 0#32
  | .zero neg => toFp32 .rne sat (.inf neg)
  | .fin neg m0 e0 =>
    let k := Nat.log2 m0 - 23
    let m := m0 >>> k
    let e := e0 + k
    let top := topExp m e
    if top < -128 then toFp32 .rne sat (.inf neg)
    else if m = 2 ^ Nat.log2 m ∧ top ≤ 126 ∧ -127 ≤ top then toFp32 .rne false (.fin neg 1 (-top))
    else
      let q := (2 ^ (200 + Nat.log2 m)) / m
      let y := Config.freeRcp a
      let small := decide (top < 126) || decide (y.toNat % 2 ^ 31 < 0x00800000)
      choose y (rcpOk y m e && (bit y.toNat 31 == neg) && small)
        (toFp32 .rz false (.fin neg q (-e - 200 - (Nat.log2 m : Int))))

/-- Whether |y - x^(-1/2)| ≤ ulp(x^(-1/2)) for x = m * 2^e positive, y positive (R136). -/
def rsqOk (y : Word) (m : Nat) (e : Int) (E : Int) : Bool :=
  let yu : Int := ((FloatFmt.f32.units (y.toNat % 2 ^ 31) : Nat) : Int)
  let ulp : Int := ((2 ^ (ulpExp E + 149).toNat : Nat) : Int)
  -- (v / 2^149)^2 * m * 2^e compared with 1
  let sq (v : Int) : Int := v * v * m * ((2 ^ (e + 149).toNat : Nat) : Int)
  let unit : Int := ((2 ^ 447 : Nat) : Int)
  isFinite y && (decide (yu ≤ ulp) || decide (sq (yu - ulp) ≤ unit)) && decide (unit ≤ sq (yu + ulp))

/-- frsq (R136). -/
def frsq (sat ftz : Bool) (a : Word) : Word :=
  match fp32 ftz a with
  | .nan => 0x7FC00000#32
  | .inf neg => if neg then 0x7FC00000#32 else 0#32
  | .zero neg => toFp32 .rne sat (.inf neg)
  | .fin true _ _ => 0x7FC00000#32
  | .fin false m0 e0 =>
    let k := Nat.log2 m0 - 23
    let m := m0 >>> k
    let e := e0 + k
    let top := topExp m e
    if m = 2 ^ Nat.log2 m ∧ top % 2 = 0 then toFp32 .rne false (.fin false 1 (-(top / 2)))
    else
      -- floor(2^200 / sqrt(m * 2^(e mod 2))) from the integer root of 2^400 / m'
      let odd := e % 2 ≠ 0
      let m1 := if odd then 2 * m else m
      let e1 : Int := if odd then e - 1 else e
      let r := Fpu.isqrtAux (2 ^ 400 / m1) 201 0
      let E := topExp r (-200 - e1 / 2)
      choose (Config.freeRsq a) (rsqOk (Config.freeRsq a) m e E && !(bit (Config.freeRsq a).toNat 31))
        (toFp32 .rz false (.fin false r (-200 - e1 / 2)))

/-- fexp2 (R136). -/
def fexp2 (sat ftz : Bool) (a : Word) : Word :=
  match fp32 ftz a with
  | .nan => 0x7FC00000#32
  | .inf neg => if neg then 0#32 else toFp32 .rne sat (.inf false)
  | .zero _ => 0x3F800000#32
  | .fin neg m e =>
    let x := fix neg m e
    if 128 * one ≤ x then toFp32 .rne sat (.inf false)
    else if x ≤ -150 * one then 0#32
    else if x % one = 0 then toFp32 .rne false (.fin false 1 (x / one))
    else
      let n := x / one
      let v := exp2Frac (x - n * one)
      let value := if 0 ≤ n then v * ((2 ^ n.toNat : Nat) : Int) else v / ((2 ^ (-n).toNat : Nat) : Int)
      let ulp := fix false 1 (ulpExp n)
      choose (Config.freeExp2 a) (near (Config.freeExp2 a) value (2 * ulp)) (fromFix value)

/-- flog2 (R136). -/
def flog2 (sat ftz : Bool) (a : Word) : Word :=
  match fp32 ftz a with
  | .nan => 0x7FC00000#32
  | .inf neg => if neg then 0x7FC00000#32 else toFp32 .rne sat (.inf false)
  | .zero _ => toFp32 .rne sat (.inf true)
  | .fin true _ _ => 0x7FC00000#32
  | .fin false m e =>
    let top := topExp m e
    if m = 2 ^ Nat.log2 m then toFp32 .rne false (FVal.ofInt top)
    else
      let value := top * one + log2Frac (fix false m (-(Nat.log2 m : Int)))
      let mag := value.natAbs
      let inside := decide (top = -1) || decide (top = 0)
      let bound := if inside then fix false 1 (-22) else 2 * fix false 1 (ulpExp ((Nat.log2 mag : Int) - places))
      choose (Config.freeLog2 a) (near (Config.freeLog2 a) value bound) (fromFix value)

/-- The argument less a multiple of 2 pi, in [0, 2 pi). -/
def reduceArg (neg : Bool) (m : Nat) (e : Int) : Int := (fix neg m e) % (2 * pi)

/-- Whether a pattern lies in [-1, 1]. -/
def inUnit (y : Word) : Bool := decide (y.toNat % 2 ^ 31 ≤ 0x3F800000)

/-- fsin (R136). -/
def fsin (ftz : Bool) (a : Word) : Word :=
  match fp32 ftz a with
  | .nan => 0x7FC00000#32
  | .inf _ => 0x7FC00000#32
  | .zero neg => if neg then 0x80000000#32 else 0#32
  | .fin neg m e =>
    if a.toNat % 2 ^ 31 ≤ 0x39800000 then a
    else
      let value := sinFix (reduceArg neg m e)
      choose (Config.freeSin a) (near (Config.freeSin a) value (fix false 1 (-22)) && inUnit (Config.freeSin a))
        (fromFix value)

/-- fcos (R136); cos x is at most 1, so 1 - 2^-22 is within the bound wherever cos x is no less. -/
def fcos (ftz : Bool) (a : Word) : Word :=
  match fp32 ftz a with
  | .nan => 0x7FC00000#32
  | .inf _ => 0x7FC00000#32
  | .zero _ => 0x3F800000#32
  | .fin neg m e =>
    let value := cosFix (reduceArg neg m e)
    let least : Int := one - fix false 1 (-22)
    let edge := decide (Config.freeCos a = 0x3F7FFFFC#32) && decide (least + slack ≤ value)
    choose (Config.freeCos a) ((near (Config.freeCos a) value (fix false 1 (-22)) || edge) && inUnit (Config.freeCos a))
      (fromFix value)

end Sys2Proof.Machine.Approx
end

