-- ==== Sys2Proof/Machine/Floating.lean ====
section
/-! DEFINITION. The F-class instructions (R129 to R141, cvt R111) with their result distances (R117). -/

namespace Sys2Proof.Machine

/-- The result of a cvt: a pair for the 64-bit formats (R111). -/
def cvtRes (t : Fmt) (v : Nat) : Res := if t.wide then .p (BitVec.ofNat 64 v) else .w (BitVec.ofNat 32 v)

/-- FADD (R131): FP32 add rounded once. -/
def execFadd (nw : Bool) (d a b : Opnd) (s : State) : Out :=
  regOp (.fadd nw d a b) 6 nw d (fun r => .w (Fpu.fadd r.round r.sat r.ftz (r.w a) (r.w b))) s

/-- FSUB (R131): FP32 subtract rounded once. -/
def execFsub (nw : Bool) (d a b : Opnd) (s : State) : Out :=
  regOp (.fsub nw d a b) 6 nw d (fun r => .w (Fpu.fsub r.round r.sat r.ftz (r.w a) (r.w b))) s

/-- FMUL (R131): FP32 multiply rounded once. -/
def execFmul (nw : Bool) (d a b : Opnd) (s : State) : Out :=
  regOp (.fmul nw d a b) 6 nw d (fun r => .w (Fpu.fmul r.round r.sat r.ftz (r.w a) (r.w b))) s

/-- FFMA (R131): FP32 fused multiply-add into d. -/
def execFfma (nw : Bool) (d a b : Opnd) (s : State) : Out :=
  regOp (.ffma nw d a b) 6 nw d (fun r => .w (Fpu.ffma r.round r.sat r.ftz (r.w d) (r.w a) (r.w b))) s

/-- FMIN (R132): FP32 minimum with NaN rules. -/
def execFmin (nw : Bool) (d a b : Opnd) (s : State) : Out :=
  regOp (.fmin nw d a b) 6 nw d (fun r => .w (Fpu.fmin r.ftz (r.w a) (r.w b))) s

/-- FMAX (R132): FP32 maximum with NaN rules. -/
def execFmax (nw : Bool) (d a b : Opnd) (s : State) : Out :=
  regOp (.fmax nw d a b) 6 nw d (fun r => .w (Fpu.fmax r.ftz (r.w a) (r.w b))) s

/-- FNEG (R133): flip the sign bit. -/
def execFneg (nw : Bool) (d a : Opnd) (s : State) : Out :=
  regOp (.fneg nw d a) 6 nw d (fun r => .w (Fpu.fneg (r.w a))) s

/-- FCLASS (R133): classify an FP32 value into a one-hot mask. -/
def execFclass (nw : Bool) (d a : Opnd) (s : State) : Out :=
  regOp (.fclass nw d a) 6 nw d (fun r => .w (Fpu.fclass (r.w a))) s

/-- FCMP_EQ (R134): float equality compare. -/
def execFcmpEq (nw : Bool) (d a b : Opnd) (s : State) : Out :=
  regOp (.fcmpEq nw d a b) 6 nw d (fun r => .w (Fpu.fcmp .eq r.ftz (r.w a) (r.w b))) s

/-- FCMP_NE (R134): float inequality compare. -/
def execFcmpNe (nw : Bool) (d a b : Opnd) (s : State) : Out :=
  regOp (.fcmpNe nw d a b) 6 nw d (fun r => .w (Fpu.fcmp .ne r.ftz (r.w a) (r.w b))) s

/-- FCMP_LT (R134): float less-than compare. -/
def execFcmpLt (nw : Bool) (d a b : Opnd) (s : State) : Out :=
  regOp (.fcmpLt nw d a b) 6 nw d (fun r => .w (Fpu.fcmp .lt r.ftz (r.w a) (r.w b))) s

/-- FCMP_LE (R134): float less-or-equal compare. -/
def execFcmpLe (nw : Bool) (d a b : Opnd) (s : State) : Out :=
  regOp (.fcmpLe nw d a b) 6 nw d (fun r => .w (Fpu.fcmp .le r.ftz (r.w a) (r.w b))) s

/-- FCMP_UNORD (R134): unordered compare. -/
def execFcmpUnord (nw : Bool) (d a b : Opnd) (s : State) : Out :=
  regOp (.fcmpUnord nw d a b) 6 nw d (fun r => .w (Fpu.fcmp .unord r.ftz (r.w a) (r.w b))) s

/-- FRCP (R136): approximate reciprocal. -/
def execFrcp (nw : Bool) (d a : Opnd) (s : State) : Out :=
  regOp (.frcp nw d a) 8 nw d (fun r => .w (Approx.frcp r.sat r.ftz (r.w a))) s

/-- FRSQ (R136): approximate reciprocal square root. -/
def execFrsq (nw : Bool) (d a : Opnd) (s : State) : Out :=
  regOp (.frsq nw d a) 8 nw d (fun r => .w (Approx.frsq r.sat r.ftz (r.w a))) s

/-- FSQRT (R136): correctly rounded square root. -/
def execFsqrt (nw : Bool) (d a : Opnd) (s : State) : Out :=
  regOp (.fsqrt nw d a) 8 nw d (fun r => .w (Fpu.fsqrt r.round r.sat r.ftz (r.w a))) s

/-- FEXP2 (R136): approximate 2^x. -/
def execFexp2 (nw : Bool) (d a : Opnd) (s : State) : Out :=
  regOp (.fexp2 nw d a) 8 nw d (fun r => .w (Approx.fexp2 r.sat r.ftz (r.w a))) s

/-- FLOG2 (R136): approximate log2. -/
def execFlog2 (nw : Bool) (d a : Opnd) (s : State) : Out :=
  regOp (.flog2 nw d a) 8 nw d (fun r => .w (Approx.flog2 r.sat r.ftz (r.w a))) s

/-- FSIN (R136): approximate sine. -/
def execFsin (nw : Bool) (d a : Opnd) (s : State) : Out :=
  regOp (.fsin nw d a) 8 nw d (fun r => .w (Approx.fsin r.ftz (r.w a))) s

/-- FCOS (R136): approximate cosine. -/
def execFcos (nw : Bool) (d a : Opnd) (s : State) : Out :=
  regOp (.fcos nw d a) 8 nw d (fun r => .w (Approx.fcos r.ftz (r.w a))) s

/-- FINT_FLOOR (R137): round to integer toward minus infinity. -/
def execFintFloor (nw : Bool) (d a : Opnd) (s : State) : Out :=
  regOp (.fintFloor nw d a) 6 nw d (fun r => .w (Fpu.fint .rd r.ftz (r.w a))) s

/-- FINT_CEIL (R137): round to integer toward plus infinity. -/
def execFintCeil (nw : Bool) (d a : Opnd) (s : State) : Out :=
  regOp (.fintCeil nw d a) 6 nw d (fun r => .w (Fpu.fint .ru r.ftz (r.w a))) s

/-- FINT_TRUNC (R137): round to integer toward zero. -/
def execFintTrunc (nw : Bool) (d a : Opnd) (s : State) : Out :=
  regOp (.fintTrunc nw d a) 6 nw d (fun r => .w (Fpu.fint .rz r.ftz (r.w a))) s

/-- FINT_ROUND (R137): round to nearest integer, ties to even. -/
def execFintRound (nw : Bool) (d a : Opnd) (s : State) : Out :=
  regOp (.fintRound nw d a) 6 nw d (fun r => .w (Fpu.fint .rne r.ftz (r.w a))) s

/-- PADD_BF (R138): packed BF16 add. -/
def execPaddBf (nw : Bool) (d a b : Opnd) (s : State) : Out :=
  regOp (.paddBf nw d a b) 6 nw d (fun r => .w (Fpu.padd .bf16 r.round r.sat r.ftz (r.w a) (r.w b))) s

/-- PMUL_BF (R138): packed BF16 multiply. -/
def execPmulBf (nw : Bool) (d a b : Opnd) (s : State) : Out :=
  regOp (.pmulBf nw d a b) 6 nw d (fun r => .w (Fpu.pmul .bf16 r.round r.sat r.ftz (r.w a) (r.w b))) s

/-- PFMA_BF (R138): packed BF16 fused multiply-add. -/
def execPfmaBf (nw : Bool) (d a b : Opnd) (s : State) : Out :=
  regOp (.pfmaBf nw d a b) 6 nw d (fun r => .w (Fpu.pfma .bf16 r.round r.sat r.ftz (r.w d) (r.w a) (r.w b))) s

/-- PADD_H (R138): packed FP16 add. -/
def execPaddH (nw : Bool) (d a b : Opnd) (s : State) : Out :=
  regOp (.paddH nw d a b) 6 nw d (fun r => .w (Fpu.padd .f16 r.round r.sat r.ftz (r.w a) (r.w b))) s

/-- PMUL_H (R138): packed FP16 multiply. -/
def execPmulH (nw : Bool) (d a b : Opnd) (s : State) : Out :=
  regOp (.pmulH nw d a b) 6 nw d (fun r => .w (Fpu.pmul .f16 r.round r.sat r.ftz (r.w a) (r.w b))) s

/-- PFMA_H (R138): packed FP16 fused multiply-add. -/
def execPfmaH (nw : Bool) (d a b : Opnd) (s : State) : Out :=
  regOp (.pfmaH nw d a b) 6 nw d (fun r => .w (Fpu.pfma .f16 r.round r.sat r.ftz (r.w d) (r.w a) (r.w b))) s

/-- DP4 (R139): four INT8 products added to an INT32 accumulator. -/
def execDp4 (nw : Bool) (d a b : Opnd) (s : State) : Out :=
  regOp (.dp4 nw d a b) 6 nw d (fun r => .w (Alu.dp4 r.sat (r.w d) (r.w a) (r.w b))) s

/-- F8DOT4_E4 (R140): four E4M3 products added to FP32. -/
def execF8dot4E4 (nw : Bool) (d a b : Opnd) (s : State) : Out :=
  regOp (.f8dot4E4 nw d a b) 6 nw d (fun r => .w (Fpu.f8dot4 .e4m3 r.round r.sat r.ftz (r.w d) (r.w a) (r.w b))) s

/-- F8DOT4_E5 (R140): four E5M2 products added to FP32. -/
def execF8dot4E5 (nw : Bool) (d a b : Opnd) (s : State) : Out :=
  regOp (.f8dot4E5 nw d a b) 6 nw d (fun r => .w (Fpu.f8dot4 .e5m2 r.round r.sat r.ftz (r.w d) (r.w a) (r.w b))) s

/-- QPACK (R141): encode FP32 as a four-bit block-scaled code. -/
def execQpack (nw : Bool) (d a b : Opnd) (s : State) : Out :=
  regOp (.qpack nw d a b) 6 nw d (fun r => .w (Fpu.qpack r.round r.ftz (r.w a) (r.w b))) s

/-- QUNPACK (R141): decode a four-bit code to FP32. -/
def execQunpack (nw : Bool) (d a b : Opnd) (s : State) : Out :=
  regOp (.qunpack nw d a b) 6 nw d (fun r => .w (Fpu.qunpack (r.w a) (r.w b))) s

/-- CVT (R111): convert between the scalar formats. -/
def execCvt (nw : Bool) (t f : Fmt) (d a : Opnd) (s : State) : Out :=
  regOp (.cvt nw t f d a) 6 nw d (fun r => cvtRes t (cvtValue t f r.round r.sat r.ftz (if f.wide then (r.p a).toNat else (r.w a).toNat))) s

end Sys2Proof.Machine
end

