-- ==== Sys2Proof/Machine/Hints.lean ====
section
/-! DEFINITION. The hints (R42 to R56) and words that are not instructions (R69). -/

namespace Sys2Proof.Machine

/-- A hint's effect on a thread: the thread after it, or ILLEGAL at the hint itself (R43, R48). -/
inductive HintEff where
  | ok (th : Thread)
  | illegal
deriving DecidableEq, Repr

/-- Whether a word is the last of its code segment (R56). -/
def lastWord (g : BitVec 128) (pc : Word) : Bool := decide (segLimit g < 4 * (pc.toNat + 1) + 4)

/-- Whether a hint is a live hint, which in a hold window closes it and traps at its own PC (R48). -/
def isLiveHint (i : Instr) : Bool :=
  match i with
  | .live _ _ => true
  | .livescratch _ _ => true
  | _ => false

/-- A hint decoded by a thread (R42): the PC moves on; in an mcall it is one operation (R57). -/
def Thread.hint (th : Thread) (cycle : Nat) (i : Instr) (f : Thread → HintEff) : Thread :=
  match th.mac with
  | some m =>
    match f th with
    | .ok t =>
      if m.idx + 1 < m.len then { t with mac := some { m with idx := m.idx + 1 }, lastIssue := some cycle }
      else t.macNext cycle m none
    | _ => th.takeTrap ⟨causeIllegal, wordOf i, 0⟩
  | none =>
    let at0 : Thread := { th with bind := none, win := if isLiveHint i then none else th.win }
    if lastWord (th.segs.getD 5 0#128) th.pc then at0.takeTrap ⟨causeIllegal, wordOf i, 0⟩
    else
      match f th with
      | .ok t => { t with pc := th.pc + 1 }
      | .illegal => at0.takeTrap ⟨causeIllegal, wordOf i, 0⟩

/-- A hint decoded by a lane (R236): no effect, unless it binds. -/
def State.laneHint (s : State) (core : Nat) (i : Instr) (f : Lane → Option Lane) : State :=
  let l := (s.core core).lane
  match (if lastWord (l.segs.getD 5 0#128) l.pc then none else f l) with
  | some x => s.onLane core (fun _ => { x with pc := l.pc + 1 })
  | none => (s.onLane core (fun l => { l with bind := none })).beaconException core ⟨causeIllegal, wordOf i, 0⟩

/-- A hint decoded by who acts. -/
def hintOp (i : Instr) (f : Thread → HintEff) (g : Lane → Option Lane) (s : State) : Out :=
  match s.acting with
  | .none => .next s
  | .gang core slot tids _ => .next (s.onCrew core slot (fun w =>
      { w with threads := w.threads.mapVal (fun t th =>
          if tids.contains t && decide (th.life = .ready) then th.hint s.cycle i f else th) }))
  | .lane core => .next (s.laneHint core i g)

/-- A hint that does not bind: misplaced between a binding hint and its instruction (R43). -/
def freeHint (g : Lane) : Option Lane := if g.bind.isSome then none else some g

/-- SCHED (R44, R45, R47): coverage of the next four instructions. -/
def execSched (wait : BitVec 12) (hold yld : Bool) (d3 d2 d1 d0 : BitVec 3) (s : State) : Out :=
  hintOp (.sched wait hold yld d3 d2 d1 d0)
    (fun th =>
      if th.bind.isSome then .illegal
      else
        let win := if hold then th.win else none
        .ok { th with
          cover := some { dists := [d0.toNat, d1.toNat, d2.toNat, d3.toNat], wait := wait, hold := hold, yld := yld, pc := th.pc }
          win := win, lvalid := if win.isSome then th.lvalid else 0#8
          live := th.live.map (fun r => { r with active := false }) })
    freeHint s

/-- The binding hints of a thread or lane with one more, unless one of its kind stands there already (R43). -/
def addBind (b : Option Bind) (pc : Word) (taken : Bind → Bool) (put : Bind → Bind) : Option Bind :=
  match b with
  | some x => if taken x then none else some (put x)
  | none => some (put { start := pc, imm := none, mod := none, fmt := none, bad := false })

/-- A binding hint (R43). -/
def bindHint (taken : Bind → Bool) (put : Bind → Bind) (th : Thread) : HintEff :=
  match addBind th.bind th.pc taken put with
  | some b => .ok { th with bind := some b, live := th.live.map (fun r => { r with active := false }) }
  | none => .illegal

/-- IMM (R51). -/
def execImm (payload : BitVec 26) (s : State) : Out :=
  let taken (b : Bind) : Bool := b.imm.isSome
  let put (b : Bind) : Bind := { b with imm := some payload }
  hintOp (.imm payload) (bindHint taken put)
    (fun l => (addBind l.bind l.pc taken put).map (fun b => { l with bind := some b })) s

/-- MOD (R52). -/
def execMod (round : Round) (sat ftz : Bool) (cache : BitVec 2) (s : State) : Out :=
  let taken (b : Bind) : Bool := b.mod.isSome || b.bad
  let put (b : Bind) : Bind := { b with mod := some { round := round, sat := sat, ftz := ftz, cache := cache.toNat } }
  hintOp (.mod round sat ftz cache) (bindHint taken put)
    (fun l => (addBind l.bind l.pc taken put).map (fun b => { l with bind := some b })) s

/-- FMT (R53); ILLEGAL on a beacon lane (R236). -/
def execFmt (payload : BitVec 26) (s : State) : Out :=
  hintOp (.fmt payload) (bindHint (fun b => b.fmt.isSome) (fun b => { b with fmt := some payload })) (fun _ => none) s

/-- The live run that a live or livescratch hint continues or begins (R54). -/
def Thread.liveRun (th : Thread) : LiveRun :=
  match th.live with
  | some r => if r.active then r else { parts := [], ranges := [], active := true }
  | none => { parts := [], ranges := [], active := true }

/-- LIVE (R54): marks live registers. -/
def execLive (part : BitVec 2) (mask : BitVec 24) (s : State) : Out :=
  hintOp (.live part mask)
    (fun th =>
      if th.win.isSome || th.bind.isSome then .illegal
      else
        let r := th.liveRun
        .ok { th with live := some { r with parts := r.parts.put part.toNat (FMap.get 0#24 r.parts part.toNat ||| mask) } })
    freeHint s

/-- LIVESCRATCH (R55): names a live scratchpad range; at most four in a run. -/
def execLivescratch (base len : BitVec 13) (s : State) : Out :=
  hintOp (.livescratch base len)
    (fun th =>
      if th.win.isSome || th.bind.isSome then .illegal
      else
        let r := th.liveRun
        if 4 ≤ r.ranges.length then .illegal
        else .ok { th with live := some { r with ranges := r.ranges ++ [(base.toNat, len.toNat)] } })
    freeHint s

/-- A mod hint with a bad payload: it binds, and its compound is ILLEGAL (R52). -/
def badModHint (w : Word) (s : State) : Out :=
  let taken (b : Bind) : Bool := b.mod.isSome || b.bad
  let put (b : Bind) : Bind := { b with bad := true }
  hintOp (.illegalWord w) (fun th => if th.mac.isSome then .illegal else bindHint taken put th)
    (fun l => (addBind l.bind l.pc taken put).map (fun b => { l with bind := some b })) s

/-- ILLEGAL_WORD (R69): a word that is not an instruction: ILLEGAL at its compound's PC. A mod hint with a bad payload
binds to the next word, and the ILLEGAL is the compound's (R52). -/
def execIllegalWord (w : Word) (s : State) : Out :=
  if badMod w then badModHint w s else
  match s.acting with
  | .none => .next s
  | .gang core slot tids gsize => .next (s.gangMap core slot tids gsize (.illegalWord w) noTrap
      (fun _ th => (th, .trap ⟨causeIllegal, w.toNat, 0⟩)))
  | .lane core => .next (s.beaconException core ⟨causeIllegal, w.toNat, 0⟩)

end Sys2Proof.Machine
end

