-- ==== Sys2Proof/Machine/Flags.lean ====
section
/-! DEFINITION. Comparisons. The N4 has no condition flags: a comparison writes 1 or 0 to a register (R127, R134). -/

namespace Sys2Proof.Machine

/-- The relations of R127. -/
inductive Rel where
  | eq | ne | lt | le | gt | ge
deriving DecidableEq, Repr

/-- A relation between two integers (R127). -/
def Rel.holds (r : Rel) (x y : Int) : Bool :=
  match r with
  | .eq => decide (x = y)
  | .ne => decide (x ≠ y)
  | .lt => decide (x < y)
  | .le => decide (x ≤ y)
  | .gt => decide (x > y)
  | .ge => decide (x ≥ y)

/-- The signed comparisons of R127. -/
def cmpS (r : Rel) (a b : Word) : Word := b2w (r.holds a.toInt b.toInt)

/-- The unsigned comparisons of R127. -/
def cmpU (r : Rel) (a b : Word) : Word := b2w (r.holds a.toNat b.toNat)

/-- min.s (R122). -/
def minSigned (a b : Word) : Word := if b.toInt < a.toInt then b else a

/-- min.u (R122). -/
def minUnsigned (a b : Word) : Word := if b.toNat < a.toNat then b else a

/-- max.s (R122). -/
def maxSigned (a b : Word) : Word := if a.toInt < b.toInt then b else a

/-- max.u (R122). -/
def maxUnsigned (a b : Word) : Word := if a.toNat < b.toNat then b else a

end Sys2Proof.Machine
end

