-- ==== Sys2Proof/Machine/Immediate.lean ====
section
/-! DEFINITION. The I-class instructions (R128): the R-class effect with the immediate in place of b. -/

namespace Sys2Proof.Machine

/-- MOVI (R128): move an immediate into d. -/
def execMovi (nw : Bool) (d : Opnd) (imm : BitVec 10) (s : State) : Out :=
  regOp (.movi nw d imm) 4 nw d (fun r => .w (r.imm false imm)) s

/-- ADDI (R128): add immediate. -/
def execAddi (nw : Bool) (d a : Opnd) (imm : BitVec 10) (s : State) : Out :=
  regOp (.addi nw d a imm) 4 nw d (fun r => .w (Alu.add (r.w a) (r.imm false imm))) s

/-- MULI (R128): multiply by immediate. -/
def execMuli (nw : Bool) (d a : Opnd) (imm : BitVec 10) (s : State) : Out :=
  regOp (.muli nw d a imm) 6 nw d (fun r => .w (Alu.mul (r.w a) (r.imm false imm))) s

/-- ANDI (R128): AND with zero-extended immediate. -/
def execAndi (nw : Bool) (d a : Opnd) (imm : BitVec 10) (s : State) : Out :=
  regOp (.andi nw d a imm) 4 nw d (fun r => .w (r.w a &&& r.imm true imm)) s

/-- ORI (R128): OR with zero-extended immediate. -/
def execOri (nw : Bool) (d a : Opnd) (imm : BitVec 10) (s : State) : Out :=
  regOp (.ori nw d a imm) 4 nw d (fun r => .w (r.w a ||| r.imm true imm)) s

/-- XORI (R128): XOR with zero-extended immediate. -/
def execXori (nw : Bool) (d a : Opnd) (imm : BitVec 10) (s : State) : Out :=
  regOp (.xori nw d a imm) 4 nw d (fun r => .w (r.w a ^^^ r.imm true imm)) s

/-- SHLI (R128): shift left by immediate. -/
def execShli (nw : Bool) (d a : Opnd) (amt : BitVec 5) (s : State) : Out :=
  regOp (.shli nw d a amt) 4 nw d (fun r => .w (Alu.shl (r.w a) (BitVec.setWidth 32 amt))) s

/-- SHRI (R128): logical shift right by immediate. -/
def execShri (nw : Bool) (d a : Opnd) (amt : BitVec 5) (s : State) : Out :=
  regOp (.shri nw d a amt) 4 nw d (fun r => .w (Alu.shr (r.w a) (BitVec.setWidth 32 amt))) s

/-- SRAI (R128): arithmetic shift right by immediate. -/
def execSrai (nw : Bool) (d a : Opnd) (amt : BitVec 5) (s : State) : Out :=
  regOp (.srai nw d a amt) 4 nw d (fun r => .w (Alu.sra (r.w a) (BitVec.setWidth 32 amt))) s

/-- CMPEQI (R128): compare equal with immediate. -/
def execCmpeqi (nw : Bool) (d a : Opnd) (imm : BitVec 10) (s : State) : Out :=
  regOp (.cmpeqi nw d a imm) 4 nw d (fun r => .w (cmpS .eq (r.w a) (r.imm false imm))) s

/-- CMPNEI (R128): compare not-equal with immediate. -/
def execCmpnei (nw : Bool) (d a : Opnd) (imm : BitVec 10) (s : State) : Out :=
  regOp (.cmpnei nw d a imm) 4 nw d (fun r => .w (cmpS .ne (r.w a) (r.imm false imm))) s

/-- CMPLTI (R128): signed less-than with immediate. -/
def execCmplti (nw : Bool) (d a : Opnd) (imm : BitVec 10) (s : State) : Out :=
  regOp (.cmplti nw d a imm) 4 nw d (fun r => .w (cmpS .lt (r.w a) (r.imm false imm))) s

/-- CMPLTUI (R128): unsigned less-than with immediate. -/
def execCmpltui (nw : Bool) (d a : Opnd) (imm : BitVec 10) (s : State) : Out :=
  regOp (.cmpltui nw d a imm) 4 nw d (fun r => .w (cmpU .lt (r.w a) (r.imm true imm))) s

/-- CMPGEI (R128): signed greater-or-equal with immediate. -/
def execCmpgei (nw : Bool) (d a : Opnd) (imm : BitVec 10) (s : State) : Out :=
  regOp (.cmpgei nw d a imm) 4 nw d (fun r => .w (cmpS .ge (r.w a) (r.imm false imm))) s

/-- CMPGEUI (R128): unsigned greater-or-equal with immediate. -/
def execCmpgeui (nw : Bool) (d a : Opnd) (imm : BitVec 10) (s : State) : Out :=
  regOp (.cmpgeui nw d a imm) 4 nw d (fun r => .w (cmpU .ge (r.w a) (r.imm true imm))) s

end Sys2Proof.Machine
end

