-- ==== Sys2Proof/Machine/Integer.lean ====
section
/-! DEFINITION. The R-class instructions (R118 to R127) with their result distances (R117). -/

namespace Sys2Proof.Machine

/-- ADD (R118): 32-bit add modulo 2^32. -/
def execAdd (nw : Bool) (d a b : Opnd) (s : State) : Out :=
  regOp (.add nw d a b) 4 nw d (fun r => .w (Alu.add (r.w a) (r.w b))) s

/-- SUB (R118): 32-bit subtract modulo 2^32. -/
def execSub (nw : Bool) (d a b : Opnd) (s : State) : Out :=
  regOp (.sub nw d a b) 4 nw d (fun r => .w (Alu.sub (r.w a) (r.w b))) s

/-- ADD64 (R118): 64-bit add of pairs modulo 2^64. -/
def execAdd64 (nw : Bool) (d a b : Opnd) (s : State) : Out :=
  regOp (.add64 nw d a b) 4 nw d (fun r => .p (Alu.add64 (r.p a) (r.p b))) s

/-- SUB64 (R118): 64-bit subtract of pairs modulo 2^64. -/
def execSub64 (nw : Bool) (d a b : Opnd) (s : State) : Out :=
  regOp (.sub64 nw d a b) 4 nw d (fun r => .p (Alu.sub64 (r.p a) (r.p b))) s

/-- MUL (R118): low 32 bits of the product. -/
def execMul (nw : Bool) (d a b : Opnd) (s : State) : Out :=
  regOp (.mul nw d a b) 6 nw d (fun r => .w (Alu.mul (r.w a) (r.w b))) s

/-- MULHI_S (R118): high 32 bits of the signed product. -/
def execMulhiS (nw : Bool) (d a b : Opnd) (s : State) : Out :=
  regOp (.mulhiS nw d a b) 6 nw d (fun r => .w (Alu.mulhiS (r.w a) (r.w b))) s

/-- MULHI_U (R118): high 32 bits of the unsigned product. -/
def execMulhiU (nw : Bool) (d a b : Opnd) (s : State) : Out :=
  regOp (.mulhiU nw d a b) 6 nw d (fun r => .w (Alu.mulhiU (r.w a) (r.w b))) s

/-- MAD (R118): 32-bit multiply-add into d. -/
def execMad (nw : Bool) (d a b : Opnd) (s : State) : Out :=
  regOp (.mad nw d a b) 6 nw d (fun r => .w (Alu.mad (r.w d) (r.w a) (r.w b))) s

/-- MAD64 (R118): unsigned 32x32 product added to a 64-bit pair. -/
def execMad64 (nw : Bool) (d a b : Opnd) (s : State) : Out :=
  regOp (.mad64 nw d a b) 6 nw d (fun r => .p (Alu.mad64 (r.p d) (r.w a) (r.w b))) s

/-- DIVU (R119): unsigned divide with defined zero-divisor result. -/
def execDivu (nw : Bool) (d a b : Opnd) (s : State) : Out :=
  regOp (.divu nw d a b) 8 nw d (fun r => .w (Alu.divu (r.w a) (r.w b))) s

/-- DIVS (R119): signed divide truncating toward zero. -/
def execDivs (nw : Bool) (d a b : Opnd) (s : State) : Out :=
  regOp (.divs nw d a b) 8 nw d (fun r => .w (Alu.divs (r.w a) (r.w b))) s

/-- REMU (R119): unsigned remainder. -/
def execRemu (nw : Bool) (d a b : Opnd) (s : State) : Out :=
  regOp (.remu nw d a b) 8 nw d (fun r => .w (Alu.remu (r.w a) (r.w b))) s

/-- REMS (R119): signed remainder with the dividend's sign. -/
def execRems (nw : Bool) (d a b : Opnd) (s : State) : Out :=
  regOp (.rems nw d a b) 8 nw d (fun r => .w (Alu.rems (r.w a) (r.w b))) s

/-- SHL (R120): 32-bit shift left by the whole amount. -/
def execShl (nw : Bool) (d a b : Opnd) (s : State) : Out :=
  regOp (.shl nw d a b) 4 nw d (fun r => .w (Alu.shl (r.w a) (r.w b))) s

/-- SHR (R120): 32-bit logical shift right. -/
def execShr (nw : Bool) (d a b : Opnd) (s : State) : Out :=
  regOp (.shr nw d a b) 4 nw d (fun r => .w (Alu.shr (r.w a) (r.w b))) s

/-- SRA (R120): 32-bit arithmetic shift right. -/
def execSra (nw : Bool) (d a b : Opnd) (s : State) : Out :=
  regOp (.sra nw d a b) 4 nw d (fun r => .w (Alu.sra (r.w a) (r.w b))) s

/-- ROTL (R120): 32-bit rotate left. -/
def execRotl (nw : Bool) (d a b : Opnd) (s : State) : Out :=
  regOp (.rotl nw d a b) 4 nw d (fun r => .w (Alu.rotl (r.w a) (r.w b))) s

/-- SHL64 (R120): 64-bit shift left. -/
def execShl64 (nw : Bool) (d a b : Opnd) (s : State) : Out :=
  regOp (.shl64 nw d a b) 4 nw d (fun r => .p (Alu.shl64 (r.p a) (r.w b))) s

/-- SHR64 (R120): 64-bit logical shift right. -/
def execShr64 (nw : Bool) (d a b : Opnd) (s : State) : Out :=
  regOp (.shr64 nw d a b) 4 nw d (fun r => .p (Alu.shr64 (r.p a) (r.w b))) s

/-- SRA64 (R120): 64-bit arithmetic shift right. -/
def execSra64 (nw : Bool) (d a b : Opnd) (s : State) : Out :=
  regOp (.sra64 nw d a b) 4 nw d (fun r => .p (Alu.sra64 (r.p a) (r.w b))) s

/-- AND (R121): bitwise AND. -/
def execAnd (nw : Bool) (d a b : Opnd) (s : State) : Out :=
  regOp (.and nw d a b) 4 nw d (fun r => .w (r.w a &&& r.w b)) s

/-- OR (R121): bitwise OR. -/
def execOr (nw : Bool) (d a b : Opnd) (s : State) : Out :=
  regOp (.or nw d a b) 4 nw d (fun r => .w (r.w a ||| r.w b)) s

/-- XOR (R121): bitwise XOR. -/
def execXor (nw : Bool) (d a b : Opnd) (s : State) : Out :=
  regOp (.xor nw d a b) 4 nw d (fun r => .w (r.w a ^^^ r.w b)) s

/-- ANDN (R121): a AND NOT b. -/
def execAndn (nw : Bool) (d a b : Opnd) (s : State) : Out :=
  regOp (.andn nw d a b) 4 nw d (fun r => .w (Alu.andn (r.w a) (r.w b))) s

/-- ORN (R121): a OR NOT b. -/
def execOrn (nw : Bool) (d a b : Opnd) (s : State) : Out :=
  regOp (.orn nw d a b) 4 nw d (fun r => .w (Alu.orn (r.w a) (r.w b))) s

/-- MIN_S (R122): signed minimum. -/
def execMinS (nw : Bool) (d a b : Opnd) (s : State) : Out :=
  regOp (.minS nw d a b) 4 nw d (fun r => .w (minSigned (r.w a) (r.w b))) s

/-- MIN_U (R122): unsigned minimum. -/
def execMinU (nw : Bool) (d a b : Opnd) (s : State) : Out :=
  regOp (.minU nw d a b) 4 nw d (fun r => .w (minUnsigned (r.w a) (r.w b))) s

/-- MAX_S (R122): signed maximum. -/
def execMaxS (nw : Bool) (d a b : Opnd) (s : State) : Out :=
  regOp (.maxS nw d a b) 4 nw d (fun r => .w (maxSigned (r.w a) (r.w b))) s

/-- MAX_U (R122): unsigned maximum. -/
def execMaxU (nw : Bool) (d a b : Opnd) (s : State) : Out :=
  regOp (.maxU nw d a b) 4 nw d (fun r => .w (maxUnsigned (r.w a) (r.w b))) s

/-- ABS (R123): absolute value, wrapping. -/
def execAbs (nw : Bool) (d a : Opnd) (s : State) : Out :=
  regOp (.abs nw d a) 4 nw d (fun r => .w (Alu.abs (r.w a))) s

/-- CLZ (R123): count leading zeros. -/
def execClz (nw : Bool) (d a : Opnd) (s : State) : Out :=
  regOp (.clz nw d a) 4 nw d (fun r => .w (Alu.clz (r.w a))) s

/-- CTZ (R123): count trailing zeros. -/
def execCtz (nw : Bool) (d a : Opnd) (s : State) : Out :=
  regOp (.ctz nw d a) 4 nw d (fun r => .w (Alu.ctz (r.w a))) s

/-- POPC (R123): population count. -/
def execPopc (nw : Bool) (d a : Opnd) (s : State) : Out :=
  regOp (.popc nw d a) 4 nw d (fun r => .w (Alu.popc (r.w a))) s

/-- BREV (R123): bit reverse. -/
def execBrev (nw : Bool) (d a : Opnd) (s : State) : Out :=
  regOp (.brev nw d a) 4 nw d (fun r => .w (Alu.brev (r.w a))) s

/-- BFX (R124): bit-field extract under a field word. -/
def execBfx (nw : Bool) (d a b : Opnd) (s : State) : Out :=
  regOp (.bfx nw d a b) 4 nw d (fun r => .w (Alu.bfx (r.w a) (r.w b))) s

/-- BFI (R124): bit-field insert into d. -/
def execBfi (nw : Bool) (d a b : Opnd) (s : State) : Out :=
  regOp (.bfi nw d a b) 4 nw d (fun r => .w (Alu.bfi (r.w d) (r.w a) (r.w b))) s

/-- BMIX (R125): byte mix of a and b under a selector in d. -/
def execBmix (nw : Bool) (d a b : Opnd) (s : State) : Out :=
  regOp (.bmix nw d a b) 4 nw d (fun r => .w (Alu.bmix (r.w d) (r.w a) (r.w b))) s

/-- SEL (R126): select a or b by d being non-zero. -/
def execSel (nw : Bool) (d a b : Opnd) (s : State) : Out :=
  regOp (.sel nw d a b) 4 nw d (fun r => .w (Alu.sel (r.w d) (r.w a) (r.w b))) s

/-- CMP_EQ_S (R127): signed equality compare. -/
def execCmpEqS (nw : Bool) (d a b : Opnd) (s : State) : Out :=
  regOp (.cmpEqS nw d a b) 4 nw d (fun r => .w (cmpS .eq (r.w a) (r.w b))) s

/-- CMP_NE_S (R127): signed inequality compare. -/
def execCmpNeS (nw : Bool) (d a b : Opnd) (s : State) : Out :=
  regOp (.cmpNeS nw d a b) 4 nw d (fun r => .w (cmpS .ne (r.w a) (r.w b))) s

/-- CMP_LT_S (R127): signed less-than compare. -/
def execCmpLtS (nw : Bool) (d a b : Opnd) (s : State) : Out :=
  regOp (.cmpLtS nw d a b) 4 nw d (fun r => .w (cmpS .lt (r.w a) (r.w b))) s

/-- CMP_LE_S (R127): signed less-or-equal compare. -/
def execCmpLeS (nw : Bool) (d a b : Opnd) (s : State) : Out :=
  regOp (.cmpLeS nw d a b) 4 nw d (fun r => .w (cmpS .le (r.w a) (r.w b))) s

/-- CMP_GT_S (R127): signed greater-than compare. -/
def execCmpGtS (nw : Bool) (d a b : Opnd) (s : State) : Out :=
  regOp (.cmpGtS nw d a b) 4 nw d (fun r => .w (cmpS .gt (r.w a) (r.w b))) s

/-- CMP_GE_S (R127): signed greater-or-equal compare. -/
def execCmpGeS (nw : Bool) (d a b : Opnd) (s : State) : Out :=
  regOp (.cmpGeS nw d a b) 4 nw d (fun r => .w (cmpS .ge (r.w a) (r.w b))) s

/-- CMP_EQ_U (R127): unsigned equality compare. -/
def execCmpEqU (nw : Bool) (d a b : Opnd) (s : State) : Out :=
  regOp (.cmpEqU nw d a b) 4 nw d (fun r => .w (cmpU .eq (r.w a) (r.w b))) s

/-- CMP_NE_U (R127): unsigned inequality compare. -/
def execCmpNeU (nw : Bool) (d a b : Opnd) (s : State) : Out :=
  regOp (.cmpNeU nw d a b) 4 nw d (fun r => .w (cmpU .ne (r.w a) (r.w b))) s

/-- CMP_LT_U (R127): unsigned less-than compare. -/
def execCmpLtU (nw : Bool) (d a b : Opnd) (s : State) : Out :=
  regOp (.cmpLtU nw d a b) 4 nw d (fun r => .w (cmpU .lt (r.w a) (r.w b))) s

/-- CMP_LE_U (R127): unsigned less-or-equal compare. -/
def execCmpLeU (nw : Bool) (d a b : Opnd) (s : State) : Out :=
  regOp (.cmpLeU nw d a b) 4 nw d (fun r => .w (cmpU .le (r.w a) (r.w b))) s

/-- CMP_GT_U (R127): unsigned greater-than compare. -/
def execCmpGtU (nw : Bool) (d a b : Opnd) (s : State) : Out :=
  regOp (.cmpGtU nw d a b) 4 nw d (fun r => .w (cmpU .gt (r.w a) (r.w b))) s

/-- CMP_GE_U (R127): unsigned greater-or-equal compare. -/
def execCmpGeU (nw : Bool) (d a b : Opnd) (s : State) : Out :=
  regOp (.cmpGeU nw d a b) 4 nw d (fun r => .w (cmpU .ge (r.w a) (r.w b))) s

end Sys2Proof.Machine
end

