-- ==== Sys2Proof/Machine/Messages.lean ====
section
/-! DEFINITION. The opcode table's steps of the memory system that belong to no issue: data that returns, requests and
answers between L1s and homes, leases, ticks (R152, R153, R156, R272, R273, R305 to R325, R426). A step that is not due
changes nothing. -/

namespace Sys2Proof.Machine

/-- LOAD_DATA_RETURN (R152). -/
def execLoadDataReturn (op parts : Nat) (s : State) : Out := .next (s.loadReturn op parts)

/-- STORE_PERFORMED (R153). -/
def execStorePerformed (op : Nat) (s : State) : Out := .next (s.storePerformed op)

/-- A walk of a core's isle for an address, whose leaf a TLB keeps (R325, R326); it acquires whatever it finds. -/
def State.pageWalk (s : State) (core va : Nat) : State :=
  match s.isleOfCore core with
  | none => s
  | some i =>
    match s.walk i (va % 2 ^ 48) with
    | .leaf t _ => (s.recallTables i (va % 2 ^ 48)).walked false core t
    | .absent _ _ => (s.recallTables i (va % 2 ^ 48)).dropLeased (clusterOf core)

/-- PAGE_WALK (R325): a walker returns its result. -/
def execPageWalk (core va : Nat) (s : State) : Out := .next (s.pageWalk core va)

/-- PEER_PROBE (R272). -/
def execPeerProbe (op peer : Nat) (s : State) : Out := .next (s.peerProbe op peer)

/-- PEER_FORWARD_REGISTRATION (R273). -/
def execPeerForwardRegistration (op : Nat) (s : State) : Out := .next (s.peerRegister op)

/-- READ_REQUEST (R315). -/
def execReadRequest (op : Nat) (s : State) : Out := .next (s.readRequest op)

/-- OWNERSHIP_REQUEST (R315). -/
def execOwnershipRequest (op : Nat) (s : State) : Out := .next (s.ownershipRequest op)

/-- HOME_WRITE (R315). -/
def execHomeWrite (op : Nat) (s : State) : Out := .next (s.homeWrite op)

/-- WRITEBACK (R315). -/
def execWriteback (cluster line : Nat) (s : State) : Out := .next (s.writebackLine cluster line)

/-- DATA_REPLY (R314). -/
def execDataReply (op : Nat) (s : State) : Out := .next (s.dataReply op)

/-- INVALIDATE (R314). -/
def execInvalidate (cluster line : Nat) (s : State) : Out := .next (s.invalidateLine cluster line)

/-- RECALL (R314). -/
def execRecall (cluster line : Nat) (s : State) : Out := .next (s.recallLine cluster line)

/-- SET_RECALL (R313). -/
def execSetRecall (cluster set slice : Nat) (s : State) : Out := .next (s.setRecall cluster set slice)

/-- FILTER_ACK (R313). -/
def execFilterAck (cluster set slice : Nat) (s : State) : Out := .next (s.filterAck cluster set slice)

/-- ATOMIC_APPLY (R309). -/
def execAtomicApply (op : Nat) (s : State) : Out := .next (s.atomicApply op)

/-- LEASE_READ (R318). -/
def execLeaseRead (op : Nat) (s : State) : Out := .next (s.leaseRead op)

/-- LEASE_WRITE (R318). -/
def execLeaseWrite (op : Nat) (s : State) : Out := .next (s.leaseWrite op)

/-- HELD_WRITE_RELEASE (R320). -/
def execHeldWriteRelease (op : Nat) (s : State) : Out := .next (s.heldRelease op)

/-- SWEEP (R320). -/
def execSweep (op cluster : Nat) (s : State) : Out := .next (s.sweepFor op cluster)

/-- PTS_TICK (R316). -/
def execPtsTick (core : Nat) (s : State) : Out := .next (s.ptsTick core)

/-- FLOOR_DELIVERY (R426). -/
def execFloorDelivery (isle : Nat) (s : State) : Out := .next (s.floorDelivery isle)

/-- RECALL_DEFERRAL_EXPIRY (R156). -/
def execRecallDeferralExpiry (cluster line : Nat) (s : State) : Out := .next (s.recallExpiry cluster line)

end Sys2Proof.Machine
end

