-- ==== Sys2Proof/Machine/Package.lean ====
section
/-! DEFINITION. The package (R404 to R427): its reset and its isles' (R408, R411), the boot ROM's effect (R411, R412),
attestation (R413), soft errors (R324, R407), power, throttling and ports (R424, R425). -/

namespace Sys2Proof.Machine

/-! ### Package reset and the boot ROM (R411, R412) -/

/-- A core after a package reset in a cycle. -/
def freshCore (cycle : Nat) : Core := { Core.reset with born := cycle }

/-- PACKAGE_RESET (R411). Memory, flash, fuses and the boot controller's record of machine errors stay. -/
def execPackageReset (s : State) : Out :=
  let b := s.board
  let r := State.reset
  let nb : Board :=
    { Board.reset with
      rom := b.rom, flash := b.flash, keyDigest := b.keyDigest, revoked := b.revoked, secCount := b.secCount,
      machineErrors := b.machineErrors, pkgId := b.pkgId }
  .next
    { r with
      cycle := s.cycle, timing := s.timing, nextId := s.nextId, mem := s.mem, poison := s.poison, board := nb,
      cores := (List.range Config.cores).map (fun k => (k, freshCore s.cycle)) }

/-- Bytes of the flash. -/
def Board.flashBytes (b : Board) (a n : Nat) : List Byte := b.flash.readBytes a n

/-- A 4-byte field of a slot's header. -/
def Board.headerWord (b : Board) (slot off : Nat) : Nat := leNat (b.flashBytes (slot + off) 4)

/-- The first check of R412 that a slot fails. -/
def Board.badSlot (b : Board) (slot : Nat) : Option Nat :=
  let key := b.headerWord slot 0x1C
  let signed := b.flashBytes slot 0x80
  let ed := b.flashBytes (slot + 0x80) 32
  let ml := b.flashBytes (slot + 0x100) 1952
  if b.headerWord slot 0 ≠ 0x4B4C424F ∨ b.headerWord slot 4 ≠ 1 then some 0
  else if 4 ≤ key ∨ bit b.revoked.toNat key = true ∨ b.keyDigest.find key ≠ some (Config.sha384 (ed ++ ml)) then some 1
  else if b.headerWord slot 8 < b.secCount then some 2
  else if leNat (b.flashBytes (slot + 0x40) 48) ≠
      (Config.sha384 (b.flashBytes (slot + 0x2000) (b.headerWord slot 0xC))).toNat then some 3
  else if Config.ed25519 ed (b.flashBytes (slot + 0xA0) 64) signed = false then some 4
  else if Config.mlDsa65 ml (b.flashBytes (slot + 0x900) 3309) signed = false then some 5
  else none

/-- A slot that has passed its checks is loaded and entered (R412 step 4). -/
def State.bootSlot (s : State) (slot : Nat) : State :=
  let b := s.board
  let base := leNat (b.flashBytes (slot + 0x10) 8)
  let entry := BitVec.ofNat 32 (b.headerWord slot 0x18)
  let payload := b.flashBytes (slot + 0x2000) (b.headerWord slot 0xC)
  let digest := Config.sha384 (b.flashBytes slot 0x80)
  let nb : Board := { b.extend 0 (leBytes 48 digest.toNat) with imageBase := base }
  let s1 : State := { s with mem := s.mem.writeBytes base payload, poison := [], board := nb }
  s1.onLane 0 (fun l => { l with pc := entry, segs := s1.imageSegs })

/-- The ROM's primary path (R412): slot A, then slot B; with neither, core 0's lane halts. -/
def State.bootPrimary (s : State) : State :=
  match s.board.badSlot 0 with
  | none => s.bootSlot 0
  | some a =>
    match s.board.badSlot 0x08000000 with
    | none => s.bootSlot 0x08000000
    | some b =>
      ({ s with
          poison := []
          board := { s.board with bootStatus := [(0, Config.bootCode a), (1, Config.bootCode b)] } }).onLane 0
        (fun l => { l with wait := .bootFailed })

/-- The ROM's secondary path (R411). -/
def Lane.bootSecondary (l : Lane) : Lane := { l with ienable := 0x40#64, wait := .mailbox }

/-- The boot ROM run on a core's lane (log 8). -/
def State.bootRom (s : State) (core : Nat) : State :=
  if core = 0 then s.bootPrimary else s.onLane core (fun l => l.bootSecondary)

/-- Whether a lane executes the boot ROM, whose code the spec does not give: M mode, at a word of the ROM's segment. -/
def State.inRom (s : State) (core : Nat) : Bool :=
  let l := (s.core core).lane
  decide (l.mode = .m) && decide (segBase (l.segs.getD 5 0#128) = 0x007000000000) && decide (s.board.rom = [])

/-! ### Isle reset (R408) -/

/-- The crews of a core end with no save; its grants, moves, requests and records go (R408 step 1). -/
def Core.endCrews (c : Core) : Core :=
  { c with crews := [], grantQ := [], moves := [], asks := false, held := [],
           ctl := { c.ctl with pready := 0, dbgstat := 0, sliceexp := 0 } }

/-- Step 1 of an isle's reset (R408). -/
def State.endIsle (s : State) (i : Nat) : State :=
  let cores := s.isleCores i
  let s1 := cores.foldl (fun (u : State) k => u.onCore k Core.endCrews) s
  let s2 := (s.isleClusters i).foldl (fun (u : State) n => u.onCluster n (fun c => { c with queue := [], permits := [] })) s1
  let s3 := (s2.onDomain i 0 (fun _ => Domain.reset)).onDomain i 1 (fun _ => Domain.reset)
  let s4 := s3.onIsle i (fun x => { x with stackSlots := [], areaUsed := [] })
  { s4 with
    saved := s4.saved.filter (fun x => decide (x.isle ≠ i))
    forwards := s4.forwards.filter (fun f => decide (f.2.isle ≠ i))
    parks := s4.parks.filter (fun x => decide (s4.isleOfMem x.1 ≠ some i)) }

/-- Whether anything that an isle's cores issued is still in flight (R408 step 2). -/
def State.isleBusy (s : State) (i : Nat) : Bool :=
  let mine (core : Nat) : Bool := decide (s.isleOfCore core = some i)
  s.ops.any (fun o => mine o.core) || s.copies.any (fun o => mine o.core) || s.pushes.any (fun o => mine o.core) ||
    s.fabs.any (fun o => mine o.core) || s.cores.any (fun c => mine c.1 && (!c.2.matQ.isEmpty || !c.2.matWait.isEmpty))

/-- A cluster's L1 written back and emptied. -/
def State.emptyL1 (s : State) (n : Nat) : State :=
  (FMap.keys (s.cluster n).l1).foldl (fun (u : State) line => u.evictCopy n line) s

/-- A core's lane after its isle's reset (R408 step 5): the ROM's secondary path, or for core 0 S mode at the isle's reset
entry with the firmware's M-mode state in place. -/
def State.resetLane (s : State) (core : Nat) : Lane :=
  let l := (s.core core).lane
  if core = 0 then
    { Lane.reset with
      mode := .s, pc := s.board.core0Entry, segs := s.imageSegs, mepc := l.mepc, mcause := l.mcause,
      mstat := l.mstat, mvec := l.mvec }
  else Lane.reset

/-- Steps 3 to 5 of an isle's reset (R408), with the floor as it stood when it began. -/
def State.restartIsle (s : State) (i : Nat) (floor : Time) (auto : Bool) : State :=
  let clusters := s.isleClusters i
  let s1 := clusters.foldl (fun (u : State) n => (u.emptyL1 n).onCluster n (fun c => { Cluster.reset with powered := c.powered })) s
  let s2 := (s.isleCores i).foldl (fun (u : State) k =>
    let lane := s.resetLane k
    u.onCore k (fun _ => { Core.reset with pts := floor, born := s.cycle, lane := lane })) s1
  s2.onIsle i (fun x => { x with
    groups := [], redtimeout := 0x04000000#32, resets := x.resets + 1, inReset := x.inReset && !auto, resetDue := none })

/-- ISLE_RESET (R408): the crews end at once; the rest follows when all that the isle issued is over. -/
def execIsleReset (isle : Nat) (s : State) : Out :=
  match (s.isle isle).resetDue with
  | none => .next s
  | some d =>
    match d.floor with
    | none =>
      let f := s.floor isle
      .next ((s.endIsle isle).onIsle isle (fun x => { x with resetDue := some { d with floor := some f } }))
    | some f => if s.isleBusy isle then .next s else .next (s.restartIsle isle f d.auto)

/-! ### Attestation (R413) -/

/-- ATTESTATION_REPORT_READY (R413): the oldest request is served. -/
def execAttestationReportReady (s : State) : Out :=
  match s.board.reports with
  | [] => .next s
  | i :: rest =>
    let r : Report := { nonce := (s.isle i).nonce, measure := s.board.measure, secCount := s.board.secCount }
    let b : Board := { s.board with reports := rest, reportsDone := s.board.reportsDone.put i r }
    .next ({ s with board := b }.onIsle i (fun x => { x with request := false }))

/-! ### Soft errors (R270, R324, R407) -/

/-- The isle that a soft error is reported to: none for one that the firmware window counts. -/
def State.eccIsle (s : State) (site : EccSite) : Option Nat :=
  match site with
  | .hbm pa => s.isleOfMem pa
  | .scratch cl _ => s.isleOfCluster cl
  | .accum core _ => s.isleOfCore core
  | .l1 cl _ _ => s.isleOfCluster cl
  | .shared => none

/-- A 32-bit count that saturates. -/
def countUp (w : Word) : Word := if w = 0xFFFFFFFF#32 then w else w + 1

/-- ECC_CORRECTED (R324): counted, and ctl.ipend.ecc set on the isle's cores. -/
def execEccCorrected (site : EccSite) (s : State) : Out :=
  match s.eccIsle site with
  | some i =>
    .next ((s.isleCores i).foldl (fun (u : State) k => u.raisePend k 9) (s.onIsle i (fun x => { x with eccCor := countUp x.eccCor })))
  | none => .next { s with board := { s.board with sharedCor := countUp s.board.sharedCor } }

/-- The granule, or word, of a site poisoned. -/
def State.poisonSite (s : State) (site : EccSite) : State :=
  match site with
  | .hbm pa => { s with poison := insertKey (pa / 32) s.poison }
  | .scratch cl off => s.poisonSpad cl (off / 4 * 4) 4
  | .accum core off => s.onCore core (fun c => { c with accPoison := insertKey (off / 4) c.accPoison })
  | .l1 cl line g =>
    match s.copyOf cl line with
    | some x => s.setCopy cl line (some { x with poison := putBit x.poison (g % 4) true })
    | none => s
  | .shared => s

/-- ECC_UNCORRECTABLE (R270, R324): the granule is poisoned and the error counted. -/
def execEccUncorrectable (site : EccSite) (s : State) : Out :=
  let s1 := s.poisonSite site
  match s.eccIsle site with
  | some i => .next (s1.onIsle i (fun x => { x with eccUnc := countUp x.eccUnc }))
  | none => .next { s1 with board := { s1.board with sharedUnc := countUp s1.board.sharedUnc } }

/-! ### Power, throttling, ports (R424, R425) -/

/-- THERMAL_THROTTLE (R425): a step is reported; nothing but timing changes. -/
def execThermalThrottle (s : State) : Out := .next { s with board := { s.board with throttle := s.board.throttle + 1 } }

/-- Whether anything that a cluster's cores issued is still in flight. -/
def State.clusterBusy (s : State) (n : Nat) : Bool :=
  let mine (core : Nat) : Bool := decide (clusterOf core = n)
  s.ops.any (fun o => mine o.core) || s.copies.any (fun o => mine o.core) || s.pushes.any (fun o => mine o.core) ||
    s.fabs.any (fun o => mine o.core) || s.cores.any (fun c => mine c.1 && (!c.2.matQ.isEmpty || !c.2.matWait.isEmpty))

/-- CLUSTER_POWER_DOWN (R425): a cluster that no isle owns is swept and powered down. -/
def execClusterPowerDown (cluster : Nat) (s : State) : Out :=
  if (s.isleOfCluster cluster).isSome || !(s.cluster cluster).powered || s.clusterBusy cluster then .next s
  else .next ((s.emptyL1 cluster).onCluster cluster (fun c => { c with powered := false }))

/-- CLUSTER_POWER_UP (R425): an empty L1, and pts at the isle floor. -/
def execClusterPowerUp (cluster : Nat) (s : State) : Out :=
  if (s.cluster cluster).powered || decide (Config.clusters ≤ cluster) then .next s
  else
    let s1 := match s.isleOfCluster cluster with
      | some i =>
        let f := s.floor i
        (coresOf cluster).foldl (fun (u : State) k => u.onCore k (fun c => { c with pts := f })) s
      | none => s
    .next (s1.onCluster cluster (fun c => { c with powered := true, l1 := [] }))

/-- FABRIC_PORT_DOWN (R424): traffic spreads over the ports that are left. -/
def execFabricPortDown (port : Nat) (s : State) : Out :=
  .next { s with board := { s.board with portsDown := s.board.portsDown ||| (1#8 <<< port) } }

end Sys2Proof.Machine
end

