-- ==== Sys2Proof/Machine/Dispatch.lean ====
section
/-! DEFINITION. What each instruction means: one arm per constructor, each a direct call of its meaning. -/

namespace Sys2Proof.Machine

/-- The meaning of an instruction, a hint or a step at a state. -/
def exec (i : Instr) (s : State) : Host.Outcome State Fault Refusal :=
  match i with
  | .add nw d a b => Sys2Proof.Machine.execAdd nw d a b s
  | .sub nw d a b => Sys2Proof.Machine.execSub nw d a b s
  | .add64 nw d a b => Sys2Proof.Machine.execAdd64 nw d a b s
  | .sub64 nw d a b => Sys2Proof.Machine.execSub64 nw d a b s
  | .mul nw d a b => Sys2Proof.Machine.execMul nw d a b s
  | .mulhiS nw d a b => Sys2Proof.Machine.execMulhiS nw d a b s
  | .mulhiU nw d a b => Sys2Proof.Machine.execMulhiU nw d a b s
  | .mad nw d a b => Sys2Proof.Machine.execMad nw d a b s
  | .mad64 nw d a b => Sys2Proof.Machine.execMad64 nw d a b s
  | .divu nw d a b => Sys2Proof.Machine.execDivu nw d a b s
  | .divs nw d a b => Sys2Proof.Machine.execDivs nw d a b s
  | .remu nw d a b => Sys2Proof.Machine.execRemu nw d a b s
  | .rems nw d a b => Sys2Proof.Machine.execRems nw d a b s
  | .shl nw d a b => Sys2Proof.Machine.execShl nw d a b s
  | .shr nw d a b => Sys2Proof.Machine.execShr nw d a b s
  | .sra nw d a b => Sys2Proof.Machine.execSra nw d a b s
  | .rotl nw d a b => Sys2Proof.Machine.execRotl nw d a b s
  | .shl64 nw d a b => Sys2Proof.Machine.execShl64 nw d a b s
  | .shr64 nw d a b => Sys2Proof.Machine.execShr64 nw d a b s
  | .sra64 nw d a b => Sys2Proof.Machine.execSra64 nw d a b s
  | .and nw d a b => Sys2Proof.Machine.execAnd nw d a b s
  | .or nw d a b => Sys2Proof.Machine.execOr nw d a b s
  | .xor nw d a b => Sys2Proof.Machine.execXor nw d a b s
  | .andn nw d a b => Sys2Proof.Machine.execAndn nw d a b s
  | .orn nw d a b => Sys2Proof.Machine.execOrn nw d a b s
  | .minS nw d a b => Sys2Proof.Machine.execMinS nw d a b s
  | .minU nw d a b => Sys2Proof.Machine.execMinU nw d a b s
  | .maxS nw d a b => Sys2Proof.Machine.execMaxS nw d a b s
  | .maxU nw d a b => Sys2Proof.Machine.execMaxU nw d a b s
  | .abs nw d a => Sys2Proof.Machine.execAbs nw d a s
  | .clz nw d a => Sys2Proof.Machine.execClz nw d a s
  | .ctz nw d a => Sys2Proof.Machine.execCtz nw d a s
  | .popc nw d a => Sys2Proof.Machine.execPopc nw d a s
  | .brev nw d a => Sys2Proof.Machine.execBrev nw d a s
  | .bfx nw d a b => Sys2Proof.Machine.execBfx nw d a b s
  | .bfi nw d a b => Sys2Proof.Machine.execBfi nw d a b s
  | .bmix nw d a b => Sys2Proof.Machine.execBmix nw d a b s
  | .sel nw d a b => Sys2Proof.Machine.execSel nw d a b s
  | .cmpEqS nw d a b => Sys2Proof.Machine.execCmpEqS nw d a b s
  | .cmpNeS nw d a b => Sys2Proof.Machine.execCmpNeS nw d a b s
  | .cmpLtS nw d a b => Sys2Proof.Machine.execCmpLtS nw d a b s
  | .cmpLeS nw d a b => Sys2Proof.Machine.execCmpLeS nw d a b s
  | .cmpGtS nw d a b => Sys2Proof.Machine.execCmpGtS nw d a b s
  | .cmpGeS nw d a b => Sys2Proof.Machine.execCmpGeS nw d a b s
  | .cmpEqU nw d a b => Sys2Proof.Machine.execCmpEqU nw d a b s
  | .cmpNeU nw d a b => Sys2Proof.Machine.execCmpNeU nw d a b s
  | .cmpLtU nw d a b => Sys2Proof.Machine.execCmpLtU nw d a b s
  | .cmpLeU nw d a b => Sys2Proof.Machine.execCmpLeU nw d a b s
  | .cmpGtU nw d a b => Sys2Proof.Machine.execCmpGtU nw d a b s
  | .cmpGeU nw d a b => Sys2Proof.Machine.execCmpGeU nw d a b s
  | .fadd nw d a b => Sys2Proof.Machine.execFadd nw d a b s
  | .fsub nw d a b => Sys2Proof.Machine.execFsub nw d a b s
  | .fmul nw d a b => Sys2Proof.Machine.execFmul nw d a b s
  | .ffma nw d a b => Sys2Proof.Machine.execFfma nw d a b s
  | .fmin nw d a b => Sys2Proof.Machine.execFmin nw d a b s
  | .fmax nw d a b => Sys2Proof.Machine.execFmax nw d a b s
  | .fneg nw d a => Sys2Proof.Machine.execFneg nw d a s
  | .fclass nw d a => Sys2Proof.Machine.execFclass nw d a s
  | .fcmpEq nw d a b => Sys2Proof.Machine.execFcmpEq nw d a b s
  | .fcmpNe nw d a b => Sys2Proof.Machine.execFcmpNe nw d a b s
  | .fcmpLt nw d a b => Sys2Proof.Machine.execFcmpLt nw d a b s
  | .fcmpLe nw d a b => Sys2Proof.Machine.execFcmpLe nw d a b s
  | .fcmpUnord nw d a b => Sys2Proof.Machine.execFcmpUnord nw d a b s
  | .frcp nw d a => Sys2Proof.Machine.execFrcp nw d a s
  | .frsq nw d a => Sys2Proof.Machine.execFrsq nw d a s
  | .fsqrt nw d a => Sys2Proof.Machine.execFsqrt nw d a s
  | .fexp2 nw d a => Sys2Proof.Machine.execFexp2 nw d a s
  | .flog2 nw d a => Sys2Proof.Machine.execFlog2 nw d a s
  | .fsin nw d a => Sys2Proof.Machine.execFsin nw d a s
  | .fcos nw d a => Sys2Proof.Machine.execFcos nw d a s
  | .fintFloor nw d a => Sys2Proof.Machine.execFintFloor nw d a s
  | .fintCeil nw d a => Sys2Proof.Machine.execFintCeil nw d a s
  | .fintTrunc nw d a => Sys2Proof.Machine.execFintTrunc nw d a s
  | .fintRound nw d a => Sys2Proof.Machine.execFintRound nw d a s
  | .paddBf nw d a b => Sys2Proof.Machine.execPaddBf nw d a b s
  | .pmulBf nw d a b => Sys2Proof.Machine.execPmulBf nw d a b s
  | .pfmaBf nw d a b => Sys2Proof.Machine.execPfmaBf nw d a b s
  | .paddH nw d a b => Sys2Proof.Machine.execPaddH nw d a b s
  | .pmulH nw d a b => Sys2Proof.Machine.execPmulH nw d a b s
  | .pfmaH nw d a b => Sys2Proof.Machine.execPfmaH nw d a b s
  | .dp4 nw d a b => Sys2Proof.Machine.execDp4 nw d a b s
  | .f8dot4E4 nw d a b => Sys2Proof.Machine.execF8dot4E4 nw d a b s
  | .f8dot4E5 nw d a b => Sys2Proof.Machine.execF8dot4E5 nw d a b s
  | .qpack nw d a b => Sys2Proof.Machine.execQpack nw d a b s
  | .qunpack nw d a b => Sys2Proof.Machine.execQunpack nw d a b s
  | .cvt nw t f d a => Sys2Proof.Machine.execCvt nw t f d a s
  | .movi nw d imm => Sys2Proof.Machine.execMovi nw d imm s
  | .addi nw d a imm => Sys2Proof.Machine.execAddi nw d a imm s
  | .muli nw d a imm => Sys2Proof.Machine.execMuli nw d a imm s
  | .andi nw d a imm => Sys2Proof.Machine.execAndi nw d a imm s
  | .ori nw d a imm => Sys2Proof.Machine.execOri nw d a imm s
  | .xori nw d a imm => Sys2Proof.Machine.execXori nw d a imm s
  | .shli nw d a amt => Sys2Proof.Machine.execShli nw d a amt s
  | .shri nw d a amt => Sys2Proof.Machine.execShri nw d a amt s
  | .srai nw d a amt => Sys2Proof.Machine.execSrai nw d a amt s
  | .cmpeqi nw d a imm => Sys2Proof.Machine.execCmpeqi nw d a imm s
  | .cmpnei nw d a imm => Sys2Proof.Machine.execCmpnei nw d a imm s
  | .cmplti nw d a imm => Sys2Proof.Machine.execCmplti nw d a imm s
  | .cmpltui nw d a imm => Sys2Proof.Machine.execCmpltui nw d a imm s
  | .cmpgei nw d a imm => Sys2Proof.Machine.execCmpgei nw d a imm s
  | .cmpgeui nw d a imm => Sys2Proof.Machine.execCmpgeui nw d a imm s
  | .ld seg flag d a size => Sys2Proof.Machine.execLd seg flag d a size s
  | .st seg flag d a size => Sys2Proof.Machine.execSt seg flag d a size s
  | .ldx seg flag d a size => Sys2Proof.Machine.execLdx seg flag d a size s
  | .stx seg flag d a size => Sys2Proof.Machine.execStx seg flag d a size s
  | .pf seg a => Sys2Proof.Machine.execPf seg a s
  | .lea seg d a => Sys2Proof.Machine.execLea seg d a s
  | .segq seg d w => Sys2Proof.Machine.execSegq seg d w s
  | .segld seg d => Sys2Proof.Machine.execSegld seg d s
  | .br off => Sys2Proof.Machine.execBr off s
  | .bz a off => Sys2Proof.Machine.execBz a off s
  | .bnz a off => Sys2Proof.Machine.execBnz a off s
  | .jmp a => Sys2Proof.Machine.execJmp a s
  | .call off => Sys2Proof.Machine.execCall off s
  | .callr a => Sys2Proof.Machine.execCallr a s
  | .ret => Sys2Proof.Machine.execRet s
  | .exit => Sys2Proof.Machine.execExit s
  | .yield => Sys2Proof.Machine.execYield s
  | .brk code => Sys2Proof.Machine.execBrk code s
  | .mcall p0 p1 entry => Sys2Proof.Machine.execMcall p0 p1 entry s
  | .mma flag p cv => Sys2Proof.Machine.execMma flag p cv s
  | .mmz flag p => Sys2Proof.Machine.execMmz flag p s
  | .accld flag p q => Sys2Proof.Machine.execAccld flag p q s
  | .accst flag p q => Sys2Proof.Machine.execAccst flag p q s
  | .thdl p h => Sys2Proof.Machine.execThdl p h s
  | .thfree h => Sys2Proof.Machine.execThfree h s
  | .waitf mask => Sys2Proof.Machine.execWaitf mask s
  | .pstWGroup flag p q k => Sys2Proof.Machine.execPstWGroup flag p q k s
  | .pstDGroup flag p q k => Sys2Proof.Machine.execPstDGroup flag p q k s
  | .pstQGroup flag p q k => Sys2Proof.Machine.execPstQGroup flag p q k s
  | .ppushGroup flag q k => Sys2Proof.Machine.execPpushGroup flag q k s
  | .pstWCore flag p q k => Sys2Proof.Machine.execPstWCore flag p q k s
  | .pstDCore flag p q k => Sys2Proof.Machine.execPstDCore flag p q k s
  | .pstQCore flag p q k => Sys2Proof.Machine.execPstQCore flag p q k s
  | .ppushCore flag q k => Sys2Proof.Machine.execPpushCore flag q k s
  | .tcopy flag p q => Sys2Proof.Machine.execTcopy flag p q s
  | .tseal p => Sys2Proof.Machine.execTseal p s
  | .twait p => Sys2Proof.Machine.execTwait p s
  | .cwait p q k => Sys2Proof.Machine.execCwait p q k s
  | .permitArm p k => Sys2Proof.Machine.execPermitArm p k s
  | .permitDrop k => Sys2Proof.Machine.execPermitDrop k s
  | .fabPut flag p q => Sys2Proof.Machine.execFabPut flag p q s
  | .fabGet flag p q => Sys2Proof.Machine.execFabGet flag p q s
  | .fabAtom flag p q => Sys2Proof.Machine.execFabAtom flag p q s
  | .fabRed flag p q => Sys2Proof.Machine.execFabRed flag p q s
  | .fabMcast flag p q => Sys2Proof.Machine.execFabMcast flag p q s
  | .ldAcq flag p dbl pair k => Sys2Proof.Machine.execLdAcq flag p dbl pair k s
  | .stRel flag p dbl pair k => Sys2Proof.Machine.execStRel flag p dbl pair k s
  | .atomAdd flag p ord pair k => Sys2Proof.Machine.execAtomAdd flag p ord pair k s
  | .atomSub flag p ord pair k => Sys2Proof.Machine.execAtomSub flag p ord pair k s
  | .atomMin flag p ord pair k => Sys2Proof.Machine.execAtomMin flag p ord pair k s
  | .atomMax flag p ord pair k => Sys2Proof.Machine.execAtomMax flag p ord pair k s
  | .atomAnd flag p ord pair k => Sys2Proof.Machine.execAtomAnd flag p ord pair k s
  | .atomOr flag p ord pair k => Sys2Proof.Machine.execAtomOr flag p ord pair k s
  | .atomXor flag p ord pair k => Sys2Proof.Machine.execAtomXor flag p ord pair k s
  | .atomExch flag p ord pair k => Sys2Proof.Machine.execAtomExch flag p ord pair k s
  | .atomCas flag p ord pair k => Sys2Proof.Machine.execAtomCas flag p ord pair k s
  | .atomFadd flag p ord pair k => Sys2Proof.Machine.execAtomFadd flag p ord pair k s
  | .atomFmin flag p ord pair k => Sys2Proof.Machine.execAtomFmin flag p ord pair k s
  | .atomFmax flag p ord pair k => Sys2Proof.Machine.execAtomFmax flag p ord pair k s
  | .atomBfadd2 flag p ord pair k => Sys2Proof.Machine.execAtomBfadd2 flag p ord pair k s
  | .fence ord k => Sys2Proof.Machine.execFence ord k s
  | .shfl m p q cv => Sys2Proof.Machine.execShfl m p q cv s
  | .vote m p q cv => Sys2Proof.Machine.execVote m p q cv s
  | .scan m p q cv => Sys2Proof.Machine.execScan m p q cv s
  | .red m p q cv => Sys2Proof.Machine.execRed m p q cv s
  | .fspawn flag p q => Sys2Proof.Machine.execFspawn flag p q s
  | .fget p q k => Sys2Proof.Machine.execFget p q k s
  | .fput flag p q k => Sys2Proof.Machine.execFput flag p q k s
  | .fref flag q => Sys2Proof.Machine.execFref flag q s
  | .fdrop flag q => Sys2Proof.Machine.execFdrop flag q s
  | .fstate p q => Sys2Proof.Machine.execFstate p q s
  | .tspawn flag q => Sys2Proof.Machine.execTspawn flag q s
  | .sys n => Sys2Proof.Machine.execSys n s
  | .eret => Sys2Proof.Machine.execEret s
  | .ctlr d n => Sys2Proof.Machine.execCtlr d n s
  | .ctlw a n => Sys2Proof.Machine.execCtlw a n s
  | .qpop d a c => Sys2Proof.Machine.execQpop d a c s
  | .qret a => Sys2Proof.Machine.execQret a s
  | .kgo d a => Sys2Proof.Machine.execKgo d a s
  | .mload d a => Sys2Proof.Machine.execMload d a s
  | .ipi a vec => Sys2Proof.Machine.execIpi a vec s
  | .wfi => Sys2Proof.Machine.execWfi s
  | .preempt a => Sys2Proof.Machine.execPreempt a s
  | .csave d a => Sys2Proof.Machine.execCsave d a s
  | .crestore d a => Sys2Proof.Machine.execCrestore d a s
  | .racq a => Sys2Proof.Machine.execRacq a s
  | .rrel a => Sys2Proof.Machine.execRrel a s
  | .barSet a b => Sys2Proof.Machine.execBarSet a b s
  | .barArrive b => Sys2Proof.Machine.execBarArrive b s
  | .barWait b => Sys2Proof.Machine.execBarWait b s
  | .barSync b => Sys2Proof.Machine.execBarSync b s
  | .rmset d a r => Sys2Proof.Machine.execRmset d a r s
  | .rjarrive r => Sys2Proof.Machine.execRjarrive r s
  | .rjwait r => Sys2Proof.Machine.execRjwait r s
  | .rjdrop r => Sys2Proof.Machine.execRjdrop r s
  | .cvset d a c => Sys2Proof.Machine.execCvset d a c s
  | .scgset a n => Sys2Proof.Machine.execScgset a n s
  | .tlbinv a ext => Sys2Proof.Machine.execTlbinv a ext s
  | .atp d a => Sys2Proof.Machine.execAtp d a s
  | .tdecl a => Sys2Proof.Machine.execTdecl a s
  | .rnext d => Sys2Proof.Machine.execRnext d s
  | .tend => Sys2Proof.Machine.execTend s
  | .tmove d a => Sys2Proof.Machine.execTmove d a s
  | .fpoint => Sys2Proof.Machine.execFpoint s
  | .fguard => Sys2Proof.Machine.execFguard s
  | .fend => Sys2Proof.Machine.execFend s
  | .sched wait hold yld d3 d2 d1 d0 => Sys2Proof.Machine.execSched wait hold yld d3 d2 d1 d0 s
  | .imm payload => Sys2Proof.Machine.execImm payload s
  | .live part mask => Sys2Proof.Machine.execLive part mask s
  | .livescratch base len => Sys2Proof.Machine.execLivescratch base len s
  | .mod round sat ftz cache => Sys2Proof.Machine.execMod round sat ftz cache s
  | .fmt payload => Sys2Proof.Machine.execFmt payload s
  | .illegalWord w => Sys2Proof.Machine.execIllegalWord w s
  | .loadDataReturn op parts => Sys2Proof.Machine.execLoadDataReturn op parts s
  | .storePerformed op => Sys2Proof.Machine.execStorePerformed op s
  | .pageWalk core va => Sys2Proof.Machine.execPageWalk core va s
  | .deferredMachineTrap core slot tid => Sys2Proof.Machine.execDeferredMachineTrap core slot tid s
  | .trapRecordMade core slot tid => Sys2Proof.Machine.execTrapRecordMade core slot tid s
  | .spillRecordReturn core => Sys2Proof.Machine.execSpillRecordReturn core s
  | .heldTrapRecord core => Sys2Proof.Machine.execHeldTrapRecord core s
  | .watchdogExpiry core slot tid => Sys2Proof.Machine.execWatchdogExpiry core slot tid s
  | .preemptGraceExpiry core slot => Sys2Proof.Machine.execPreemptGraceExpiry core slot s
  | .crewReadyToSave core slot => Sys2Proof.Machine.execCrewReadyToSave core slot s
  | .racqGrant core => Sys2Proof.Machine.execRacqGrant core s
  | .joinPatienceExpiry core slot rm => Sys2Proof.Machine.execJoinPatienceExpiry core slot rm s
  | .mmaEnterQueue core => Sys2Proof.Machine.execMmaEnterQueue core s
  | .mmaOperandArrival core => Sys2Proof.Machine.execMmaOperandArrival core s
  | .mmaKstep core => Sys2Proof.Machine.execMmaKstep core s
  | .mmaOperandFault core => Sys2Proof.Machine.execMmaOperandFault core s
  | .mmzExecute core => Sys2Proof.Machine.execMmzExecute core s
  | .accldExecute core => Sys2Proof.Machine.execAccldExecute core s
  | .accstExecute core => Sys2Proof.Machine.execAccstExecute core s
  | .copyStart core => Sys2Proof.Machine.execCopyStart core s
  | .copyLineRead copy => Sys2Proof.Machine.execCopyLineRead copy s
  | .copyLineWrite copy => Sys2Proof.Machine.execCopyLineWrite copy s
  | .spillSlotReadback copy => Sys2Proof.Machine.execSpillSlotReadback copy s
  | .copyComplete copy => Sys2Proof.Machine.execCopyComplete copy s
  | .multicastDelivery copy cluster => Sys2Proof.Machine.execMulticastDelivery copy cluster s
  | .cwaitWake core slot tid => Sys2Proof.Machine.execCwaitWake core slot tid s
  | .pushMergeAtHome push => Sys2Proof.Machine.execPushMergeAtHome push s
  | .pushFill push cluster => Sys2Proof.Machine.execPushFill push cluster s
  | .pushComplete push => Sys2Proof.Machine.execPushComplete push s
  | .quotaWindowStart cluster => Sys2Proof.Machine.execQuotaWindowStart cluster s
  | .forwardEntryExpiry fwd => Sys2Proof.Machine.execForwardEntryExpiry fwd s
  | .permitForwardExpiry cluster permit => Sys2Proof.Machine.execPermitForwardExpiry cluster permit s
  | .peerProbe op peer => Sys2Proof.Machine.execPeerProbe op peer s
  | .peerForwardRegistration op => Sys2Proof.Machine.execPeerForwardRegistration op s
  | .readRequest op => Sys2Proof.Machine.execReadRequest op s
  | .ownershipRequest op => Sys2Proof.Machine.execOwnershipRequest op s
  | .homeWrite op => Sys2Proof.Machine.execHomeWrite op s
  | .writeback cluster line => Sys2Proof.Machine.execWriteback cluster line s
  | .dataReply op => Sys2Proof.Machine.execDataReply op s
  | .invalidate cluster line => Sys2Proof.Machine.execInvalidate cluster line s
  | .recallLine cluster line => Sys2Proof.Machine.execRecall cluster line s
  | .setRecall cluster set slice => Sys2Proof.Machine.execSetRecall cluster set slice s
  | .filterAck cluster set slice => Sys2Proof.Machine.execFilterAck cluster set slice s
  | .atomicApply op => Sys2Proof.Machine.execAtomicApply op s
  | .leaseRead op => Sys2Proof.Machine.execLeaseRead op s
  | .leaseWrite op => Sys2Proof.Machine.execLeaseWrite op s
  | .heldWriteRelease op => Sys2Proof.Machine.execHeldWriteRelease op s
  | .sweep op cluster => Sys2Proof.Machine.execSweep op cluster s
  | .ptsTick core => Sys2Proof.Machine.execPtsTick core s
  | .floorDelivery isle => Sys2Proof.Machine.execFloorDelivery isle s
  | .tlbinvComplete who => Sys2Proof.Machine.execTlbinvComplete who s
  | .timerCompare core => Sys2Proof.Machine.execTimerCompare core s
  | .interruptEntry core => Sys2Proof.Machine.execInterruptEntry core s
  | .wfiWake core => Sys2Proof.Machine.execWfiWake core s
  | .sliceExpiry core slot => Sys2Proof.Machine.execSliceExpiry core slot s
  | .debugFreezeComplete core slot => Sys2Proof.Machine.execDebugFreezeComplete core slot s
  | .exitRetire core slot tid => Sys2Proof.Machine.execExitRetire core slot tid s
  | .piecePlacement cluster => Sys2Proof.Machine.execPiecePlacement cluster s
  | .pieceAging cluster => Sys2Proof.Machine.execPieceAging cluster s
  | .askForWork core => Sys2Proof.Machine.execAskForWork core s
  | .crewMove core slot => Sys2Proof.Machine.execCrewMove core slot s
  | .packageReset => Sys2Proof.Machine.execPackageReset s
  | .isleReset isle => Sys2Proof.Machine.execIsleReset isle s
  | .attestationReportReady => Sys2Proof.Machine.execAttestationReportReady s
  | .fabricSourceRead op => Sys2Proof.Machine.execFabricSourceRead op s
  | .fabricRemoteRequest req => Sys2Proof.Machine.execFabricRemoteRequest req s
  | .fabricComplete op reply => Sys2Proof.Machine.execFabricComplete op reply s
  | .reductionContribution c => Sys2Proof.Machine.execReductionContribution c s
  | .reductionTimeout group => Sys2Proof.Machine.execReductionTimeout group s
  | .fabricUnreachable op => Sys2Proof.Machine.execFabricUnreachable op s
  | .rdmaPeerAccess req => Sys2Proof.Machine.execRdmaPeerAccess req s
  | .rdmaWorkCompletion port qp => Sys2Proof.Machine.execRdmaWorkCompletion port qp s
  | .nvmeDma req => Sys2Proof.Machine.execNvmeDma req s
  | .nvmeCompletion port entry => Sys2Proof.Machine.execNvmeCompletion port entry s
  | .eccCorrected site => Sys2Proof.Machine.execEccCorrected site s
  | .eccUncorrectable site => Sys2Proof.Machine.execEccUncorrectable site s
  | .thermalThrottle => Sys2Proof.Machine.execThermalThrottle s
  | .clusterPowerDown cluster => Sys2Proof.Machine.execClusterPowerDown cluster s
  | .recallDeferralExpiry cluster line => Sys2Proof.Machine.execRecallDeferralExpiry cluster line s
  | .clusterPowerUp cluster => Sys2Proof.Machine.execClusterPowerUp cluster s
  | .fabricPortDown port => Sys2Proof.Machine.execFabricPortDown port s

end Sys2Proof.Machine
end

