-- ==== Sys2Proof/Machine/Choice.lean ====
section
/-! DEFINITION. The choice of the picker (R180 to R184): which thread is ready, which gang issues, which threads decode a hint
(R42). A thread whose instruction would wait is not ready, so this file stands after the meanings. -/

namespace Sys2Proof.Machine

/-! ### What an instruction waits for (R178, R180, R184, R290, R302) -/

/-- Whether an instruction may have to wait before it takes effect: for an earlier access of its thread (R162, R252, R327,
R333, R336), for room in a queue or table (R217, R289, R290, R302), for an mcall (R60), for copies and matrix operations
(R178). -/
def mayWait (i : Instr) : Bool :=
  match i with
  | .rrel _ | .qret _ | .mload _ _ | .csave _ _ | .crestore _ _ | .scgset _ _ | .tlbinv _ _ | .tdecl _ => true
  | .mmz _ _ | .accld _ _ _ | .accst _ _ _ | .tcopy _ _ _ | .tseal _ | .cwait _ _ _ => true
  | .fabPut _ _ _ | .fabGet _ _ _ | .fabAtom _ _ _ | .fabRed _ _ _ | .fabMcast _ _ _ => true
  | .fget _ _ _ | .fput _ _ _ _ | .fref _ _ | .fdrop _ _ | .fstate _ _ | .fspawn _ _ _ | .tspawn _ _ => true
  | _ => false

/-- Whether a thread has issued in this cycle, or is Ready no more. -/
def Thread.hasIssued (th : Thread) (cycle : Nat) : Bool := decide (th.life ≠ .ready) || decide (th.lastIssue = some cycle)

/-- Whether an instruction issues for some threads of a crew: what it does leaves none of them as it stood. -/
def State.issues (s : State) (core slot : Nat) (tids : List Nat) (i : Instr) : Bool :=
  if mayWait i then
    match exec i { s with acting := .gang core slot tids tids.length } with
    | .next t => tids.all (fun n => ((t.thread core slot n).map (fun th => th.hasIssued s.cycle)).getD true)
    | _ => true
  else true

/-- Whether a thread's next instruction waits (rule 5 of R180); with a full matrix queue every instruction for it does
(R217). -/
def State.stalls (s : State) (c : Ctx) (i : Instr) : Bool :=
  (match i with
   | .mmz _ _ => s.matFull c.core
   | .accld _ _ _ => s.matFull c.core
   | .accst _ _ _ => s.matFull c.core
   | _ => false) || !s.issues c.core c.slot [c.tid] i

/-- Whether what is due at a thread's boundary comes before its next instruction and hint: a boundary trap (R168), a freeze of
its crew (R262), a move of it (R386), its retirement (R380). -/
def State.stopsAt (s : State) (core slot uid : Nat) (th : Thread) : Bool :=
  s.trapDue core th || s.moveStops core slot uid th || (th.retireDue && decide (th.guard = 0)) ||
    (th.win.isNone && th.mac.isNone && ((s.crew core slot).map (fun w => decide (w.freeze ≠ .none))).getD false)

/-! ### Readiness (R180) -/

/-- Whether a thread is ready (R180). A boundary trap, a freeze or a move that is due stops it first (R168, R262, R386). -/
def State.isReady (s : State) (c : Ctx) (uid : Nat) (th : Thread) : Bool :=
  if !(th.free s) || th.skip || s.stopsAt c.core c.slot uid th then false
  else
    let far := match th.lastIssue with
      | some t => decide (t + (if th.mac.isSome then 1 else th.distance) ≤ s.cycle)
      | none => true
    let flags := th.mac.isSome || th.idleAll th.flagWait
    far && flags &&
      (match s.peekInstr c th with
       | none => true
       | some i =>
         (th.mac.isSome || !isHint i) && th.latchesReady s.cycle i &&
           (!isDivide i || decide (FMap.get 0 (s.core c.core).divFree (c.tid % 32) ≤ s.cycle)) &&
           decide (th.flags.getD (flagOf i) 0 < 63) && (!touchesMemory i || th.waitMem.all (fun k => !s.inFlight k)) &&
           (th.mac.isNone || s.loadsReady c uid i) && !s.stalls c i)

/-! ### The choice of a gang (R181 to R184) -/

/-- A thread that the picker considers. -/
structure Cand where
  slot : Nat
  tid : Nat
  th : Thread
  ready : Bool

/-- The threads of a core, in ascending slot and tid. -/
def State.cands (s : State) (core : Nat) : List Cand :=
  ((s.core core).crews.map (fun w => w.2.threads.map (fun t =>
    ({ slot := w.1, tid := t.1, th := t.2,
       ready := s.isReady (s.ctx core w.1 w.2 1 t.1) w.2.uid t.2 } : Cand)))).flatten

/-- The cycle in which the window or mcall of a held thread opened (R184). -/
def Thread.heldSince (th : Thread) : Option Nat :=
  match th.mac with
  | some m => some m.opened
  | none => th.win.map (fun w => w.opened)

/-- Whether a chosen gang's instruction issues for all of its members. -/
def State.gangIssues (s : State) (core : Nat) (g : Gang) : Bool :=
  match s.gangHead core g with
  | none => true
  | some (c, th) =>
    match s.peekInstr c th with
    | some i => s.issues core g.slot g.tids i
    | none => true

/-- Rule 1 of R182: the held gang that opened earliest among those whose members are all ready, all of them to issue
(R184). -/
def State.heldPick (s : State) (core : Nat) (l : List Cand) : Option Gang :=
  let opens := (l.filterMap (fun x => x.th.heldSince)).foldl (fun u t => insertKey t u) []
  (opens.filterMap (fun t =>
    let g := l.filter (fun x => decide (x.th.heldSince = some t))
    if g.all (fun x => x.ready) then
      (g.head?).map (fun x => ({ slot := x.slot, tids := g.map (fun y => y.tid), gsize := g.length } : Gang))
    else none)).find? (fun g => s.gangIssues core g)

/-- Whether two threads stand at the same place: one crew, one PC, one code segment, the same bound hints. -/
def Cand.sameGroup (x y : Cand) : Bool :=
  decide (x.slot = y.slot) && decide (x.th.pcOf = y.th.pcOf) && decide (x.th.pc = y.th.pc) &&
    decide (x.th.bind = y.th.bind) && decide (x.th.segs.getD 5 0#128 = y.th.segs.getD 5 0#128)

/-- A gang from a group (R183): on each lane the thread of greatest age, the lower tid of equals. -/
def formGang (group : List Cand) : Gang :=
  let on (lane : Nat) : Option Cand :=
    bestOf (fun x y => decide (y.th.age < x.th.age)) (group.filter (fun x => decide (x.tid % 32 = lane)))
  let tids := ((List.range 32).filterMap on).foldl (fun u x => insertKey x.tid u) []
  { slot := (group.head?.map (fun x => x.slot)).getD 0, tids := tids, gsize := tids.length }

/-- The size of a group: distinct lanes. -/
def laneCount (group : List Cand) : Nat :=
  ((List.range 32).filter (fun n => group.any (fun x => decide (x.tid % 32 = n)))).length

/-- The greatest age in a group. -/
def oldest (group : List Cand) : Nat := group.foldl (fun m x => max m x.th.age) 0

/-- Rules 2 and 3 of R182. -/
def freePick (l : List Cand) : Option Gang :=
  let ready := l.filter (fun x => x.ready && x.th.heldSince.isNone)
  match bestOf (fun x y => decide (y.th.age < x.th.age)) (ready.filter (fun x => decide (256 ≤ x.th.age))) with
  | some x => some (formGang (ready.filter (fun y => y.sameGroup x)))
  | none =>
    let group (x : Cand) : List Cand := ready.filter (fun y => y.sameGroup x)
    let beats (x y : Cand) : Bool :=
      let a := group x
      let b := group y
      decide (laneCount b < laneCount a) ||
        (decide (laneCount a = laneCount b) && (decide (oldest b < oldest a) ||
          (decide (oldest a = oldest b) && (decide (x.slot < y.slot) ||
            (decide (x.slot = y.slot) && decide (x.th.pcOf.toNat < y.th.pcOf.toNat))))))
    (bestOf beats ready).map (fun x => formGang (group x))

/-- The gang that a core issues for in this cycle (R182). -/
def State.pick (s : State) (core : Nat) : Option Gang :=
  let l := s.cands core
  match s.heldPick core l with
  | some g => some g
  | none => freePick l

/-- Ages and yields after an issue decision (R181, R146): every thread that was ready and is not in the gang ages. -/
def State.noteDecision (s : State) (core : Nat) (g : Option Gang) : State :=
  let readies := ((s.cands core).filter (fun x => x.ready)).map (fun x => (x.slot, x.tid))
  let picked (slot tid : Nat) : Bool :=
    match g with
    | some g => decide (g.slot = slot) && g.tids.contains tid
    | none => false
  s.onCore core (fun c => { c with crews := c.crews.mapVal (fun slot w => { w with threads := w.threads.mapVal (fun tid th =>
    if readies.contains (slot, tid) && !picked slot tid then { th with age := th.age + 1 } else { th with skip := false }) }) })


/-! ### The hint slot (R42) -/

/-- Whether a thread decodes a hint in this cycle: its next word is a hint, and it did not issue in this cycle. -/
def State.hintDue (s : State) (core slot tid : Nat) : Bool :=
  match s.crew core slot with
  | none => false
  | some w =>
    match w.threads.find tid with
    | none => false
    | some th =>
      th.free s && !s.stopsAt core slot w.uid th && th.mac.isNone && decide (th.lastIssue ≠ some s.cycle) &&
        (match s.peekInstr (s.ctx core slot w 1 tid) th with
         | some i => isHint i
         | none => false)

/-- The threads whose next word is a hint. -/
def State.hintThreads (s : State) : List (Nat × Nat × Nat) :=
  (s.cores.map (fun c => (c.2.crews.map (fun w => (w.2.threads.filter (fun t => s.hintDue c.1 w.1 t.1)).map
    (fun t => (c.1, w.1, t.1)))).flatten)).flatten

end Sys2Proof.Machine
end

