-- ==== Sys2Proof/Machine/Cycle.lean ====
section
/-! DEFINITION. What happens in a cycle, and in which order (R42, R181, R196, R264): the acts of a cycle, the events that come
about, what a gang or a lane executes next, the end of the cycle. -/

namespace Sys2Proof.Machine

/-! ### What there is -/

/-- The resident crews, as (core, slot, crew). -/
def State.allCrews (s : State) : List (Nat × Nat × Crew) :=
  (s.cores.map (fun c => c.2.crews.map (fun w => (c.1, w.1, w.2)))).flatten

/-- The threads of resident crews, as (core, slot, tid, thread). -/
def State.allThreads (s : State) : List (Nat × Nat × Nat × Thread) :=
  (s.allCrews.map (fun x => x.2.2.threads.map (fun t => (x.1, x.2.1, t.1, t.2)))).flatten

/-- The cores that hold a crew. -/
def State.busyCores (s : State) : List Nat := (s.cores.filter (fun c => !c.2.crews.isEmpty)).map Prod.fst

/-- Whether a core's beacon lane may issue. -/
def State.laneRuns (s : State) (k : Nat) : Bool :=
  decide ((s.core k).lane.wait = .none) && (s.cluster (clusterOf k)).powered

/-! ### One event after another -/

/-- Some events at one time, in order. -/
def runAll : List (State → Out) → State → Out
  | [], s => .next s
  | f :: l, s =>
    match f s with
    | .next s1 => runAll l s1
    | .fault x => .fault x
    | .refused x => .refused x

/-! ### Events that a cycle brings by its number -/

/-- The clocks of a cycle: logical time and quota windows (R281, R316), timers (R242). -/
def State.clockEvents (s : State) : List (State → Out) :=
  let ticks := (List.range Config.cores).filter (fun k => decide (s.coreCycle k % 1024 = 0))
  let timers := (FMap.keys s.cores).filter (fun k =>
    decide ((s.core k).lane.timecmp.toNat ≤ s.coreCycle k) && !bit (s.core k).lane.ipend.toNat 0)
  ticks.map execPtsTick ++ (clustersOf ticks).map execQuotaWindowStart ++ timers.map execTimerCompare

/-- The limits and expiries of a cycle (R156, R177, R256, R287, R288, R358, R422). -/
def State.limitEvents (s : State) : List (State → Out) :=
  let graces := s.allCrews.filter (fun x => (x.2.2.preempt.map (fun t => decide (t + 20000 ≤ s.cycle))).getD false)
  let waits (c : Cluster) : Bool := c.queue.any (fun q => decide (q.cls < 3) && decide (q.since + 2 ^ 20 ≤ s.cycle))
  let deferred := s.lines.filterMap (fun h =>
    match h.2.recalling, h.2.owner with
    | some (_, some d), some cl => if d ≤ s.cycle then some (execRecallDeferralExpiry cl h.1) else none
    | _, _ => none)
  let permits := (s.clusters.map (fun c => (c.2.permits.filter (fun p => p.2.fwd && p.2.armed)).map (fun p =>
    execPermitForwardExpiry c.1 p.1))).flatten
  graces.map (fun x => execPreemptGraceExpiry x.1 x.2.1) ++
  (s.clusters.filter (fun c => waits c.2)).map (fun c => execPieceAging c.1) ++
  (s.forwards.filter (fun f => decide (f.2.till ≤ s.cycle))).map (fun f => execForwardEntryExpiry f.1) ++
  permits ++ deferred ++
  (s.cores.filter (fun c => !c.2.grantQ.isEmpty)).map (fun c => execRacqGrant c.1) ++
  (s.reductions.filter (fun r => !r.2.pending.isEmpty)).map (fun r => execReductionTimeout r.1)

/-- The sweeps and releases of the writes that the guard band has held for 4096 cycles (R320), and the floors that have moved by 2^16
ticks since they were delivered (R426). -/
def State.floorEvents (s : State) : List (State → Out) :=
  ((s.ops.filter (fun o => (o.heldSince.map (fun t => decide (t + 4096 ≤ s.cycle))).getD false)).map (fun o =>
    (List.range Config.clusters).map (fun cl => execSweep o.id cl) ++ [execHeldWriteRelease o.id])).flatten ++
  (s.isles.filter (fun x => decide (2 ^ 16 ≤ (s.floor x.1 - x.2.floorSent).toNat))).map (fun x => execFloorDelivery x.1)

/-- What falls due at the start of a cycle. -/
def State.startCycle (s : State) : Out := runAll (s.clockEvents ++ s.limitEvents ++ s.floorEvents) s.serveDuties

/-- Whether an event comes about by the clock or at the end of a cycle only. -/
def clocked (i : Instr) : Bool :=
  match i with
  | .ptsTick _ => true
  | .quotaWindowStart _ => true
  | .racqGrant _ => true
  | .deferredMachineTrap _ _ _ => true
  | .watchdogExpiry _ _ _ => true
  | .sliceExpiry _ _ => true
  | .joinPatienceExpiry _ _ _ => true
  | _ => false

/-! ### Events that come about some time: the eager choice (log 5) -/

/-- The events of a line's coherence that an access may wait for. -/
def State.lineEvents (s : State) (line : Nat) : List (State → Out) :=
  let owner := ((s.lines.find line).bind (fun h => h.owner)).toList
  let invals := ((s.lines.find line).map (fun h => h.invals)).getD []
  owner.map (fun cl => execRecall cl line) ++ invals.map (fun cl => execInvalidate cl line)

/-- The lines whose homes have started recalls or invalidations (R315). -/
def State.recalledLines (s : State) : List Nat :=
  (s.lines.filter (fun h => h.2.recalling.isSome || !h.2.invals.isEmpty)).map Prod.fst

/-- The requests of an operation. -/
def requestEvents (id : Nat) : List (State → Out) :=
  [execReadRequest id, execOwnershipRequest id, execLeaseRead id, execLeaseWrite id, execHomeWrite id, execAtomicApply id]

/-- The filters that have saturated are flushed (R313). -/
def State.filterEvents (s : State) : List (State → Out) :=
  (s.filters.filter (fun f => decide (24 < filterCount f.2))).map (fun f =>
    execSetRecall (f.1 / 96 / 256) (f.1 / 96 % 256) (f.1 % 96))

/-- The end of a memory operation's way. -/
def replyEvents (id : Nat) : List (State → Out) :=
  [execDataReply id, execPeerForwardRegistration id, execLoadDataReturn id 15, execStorePerformed id]

/-- A memory operation goes as far as it can: its request, what that calls for, its request again, its answer. -/
def State.moveOp (s : State) (id : Nat) : Out :=
  match s.op id with
  | none => .next s
  | some o =>
    match runAll (requestEvents id) s with
    | .next s1 =>
      let sweeps := if ((s1.op id).map (fun p => p.held)).getD false then
        (List.range Config.clusters).map (fun cl => execSweep id cl) ++ [execHeldWriteRelease id] else []
      let line := if o.page.isSome then s1.lineEvents (lineOf o.addr) else []
      runAll (sweeps ++ line ++ requestEvents id ++ replyEvents id ++ s1.filterEvents) s1
    | x => x

/-- A push goes as far as it can. -/
def State.movePush (s : State) (id : Nat) : Out :=
  match s.push id with
  | none => .next s
  | some p =>
    match execPushMergeAtHome id s with
    | .next s1 =>
      runAll (s1.lineEvents (lineOf p.addr) ++ [execPushMergeAtHome id] ++ p.recv.map (fun cl => execPushFill id cl) ++
        [execPushComplete id]) s1
    | x => x

/-- A core's matrix unit does what it can; the rounds' operations that wait enter first, and as entries free (R217). -/
def State.moveMatrix (s : State) (k : Nat) : Out :=
  let enter := (s.core k).matWait.map (fun _ => execMmaEnterQueue k)
  runAll (enter ++ [execMmaOperandArrival k, execMmaOperandFault k, execMmaKstep k, execMmzExecute k, execAccldExecute k,
    execAccstExecute k] ++ enter) s

/-- The events of a copy. -/
def Copy.events (c : Copy) : List Instr :=
  [.spillSlotReadback c.id, .copyStart c.core, .copyLineRead c.id] ++
    c.recv.map (fun r => Instr.multicastDelivery c.id r.1) ++ [.copyLineWrite c.id, .copyComplete c.id]

/-- The events of a fabric operation: those of targets in this package, and the time limit of others. -/
def State.fabEvents (s : State) (f : FabOp) : List Instr :=
  let own := placesOf s.localMember f.members
  [.fabricSourceRead f.id] ++ own.map (fun m => Instr.fabricRemoteRequest (.own f.id m)) ++
    [.reductionContribution (.own f.id)] ++
    (if own.length = f.members.length then [.fabricComplete f.id { outcome := 0, data := [], accepted := 0, refused := 0 }] else []) ++
    [.fabricUnreachable f.id]

/-- The records to be made, those of each core in their order (R249). -/
def State.recordEvents (s : State) : List Instr :=
  (s.cores.map (fun c => (s.dueOrder c.1).map (fun x => Instr.trapRecordMade c.1 x.2.1 x.2.2))).flatten

/-- The events of a thread. -/
def threadEvents (k slot tid : Nat) (th : Thread) : List Instr :=
  let parked := match th.life with
    | .parked (.counter _ _) => [Instr.cwaitWake k slot tid]
    | _ => []
  parked ++ (if th.leaving || decide (th.life = .exited) then [Instr.exitRetire k slot tid] else []) ++
    (if th.sysWait = .none then [] else [Instr.tlbinvComplete (.thread k slot tid)])

/-- The events of a crew. -/
def crewEvents (k slot : Nat) (w : Crew) : List Instr :=
  (if w.preempt.isSome then [Instr.crewReadyToSave k slot] else []) ++
    (if w.freeze = .wanted then [Instr.debugFreezeComplete k slot] else [])

/-- The events of a core. -/
def coreEvents (k : Nat) (c : Core) : List Instr :=
  (if c.ringCount = 0 then [] else [.spillRecordReturn k]) ++ (if c.held.isEmpty then [] else [.heldTrapRecord k]) ++
    c.moves.map (fun m => Instr.crewMove k m.slot) ++ (if c.asks then [.askForWork k] else []) ++
    (match c.lane.wait with
     | .none => if c.wanted = 0 then [] else [.interruptEntry k]
     | .wfi => if c.wanted = 0 then [] else [.wfiWake k, .interruptEntry k]
     | .mailbox => [.wfiWake k]
     | .tlbinv _ _ => [.tlbinvComplete (.lane k)]
     | _ => [])

/-- The events of the package and its isles. -/
def State.packageEvents (s : State) : List Instr :=
  (if (s.core 0).lane.wait = .halted then [.packageReset] else []) ++
    (s.isles.filter (fun x => x.2.resetDue.isSome)).map (fun x => Instr.isleReset x.1) ++
    s.isles.map (fun x => Instr.floorDelivery x.1) ++ (if s.board.reports.isEmpty then [] else [.attestationReportReady])

/-- The cores whose matrix unit has work. -/
def State.matCores (s : State) : List Nat :=
  (s.cores.filter (fun c => !c.2.matQ.isEmpty || !c.2.matWait.isEmpty)).map Prod.fst

/-- Everything that can come about, once; pieces are placed first, so that what a crew's end returns is used from the next
cycle (R174). -/
def State.eagerActs (s : State) : List Act :=
  ((s.clusters.filter (fun c => !c.2.queue.isEmpty)).map (fun c => Instr.piecePlacement c.1)).map Act.event ++
  s.ops.map (fun o => Act.memory o.id) ++ s.pushes.map (fun p => Act.push p.id) ++ s.matCores.map Act.matrix ++
  s.recalledLines.map Act.line ++
  (((s.copies.map Copy.events).flatten ++
    (s.fabs.map s.fabEvents).flatten ++ (s.cores.map (fun c => coreEvents c.1 c.2)).flatten ++
    s.recordEvents ++ (s.allThreads.map (fun t => threadEvents t.1 t.2.1 t.2.2.1 t.2.2.2)).flatten ++
    (s.allCrews.map (fun x => crewEvents x.1 x.2.1 x.2.2)).flatten ++
    s.packageEvents).map Act.event)

/-- What comes about in a cycle: the events that the timing names, else the eager choice. -/
def State.freeActs (s : State) : List Act :=
  match s.timing with
  | [] => s.eagerActs
  | l :: _ => (l.filter (fun i => !clocked i)).map Act.event

/-! ### The acts of a cycle -/

/-- The acts of a cycle, in order. -/
def State.acts (s : State) : List Act :=
  .clock :: s.freeActs ++ s.busyCores.map Act.gang ++
    s.hintThreads.map (fun t => Act.hint t.1 t.2.1 t.2.2) ++
    ((List.range Config.cores).filter (fun k => s.laneRuns k)).map Act.lane ++ [.tick 0]

/-- A cycle begins. -/
def State.beginCycle (s : State) : State := { s with agenda := s.acts, timing := s.timing.tail }

/-- What a step comes to: the state after it, or an instruction to be executed at a state. -/
inductive Todo where
  | done (o : Out)
  | run (i : Instr) (s : State)

/-- A core issues (R180 to R187): the chosen gang's instruction, or a trap of its fetch. -/
def State.gangTodo (s : State) (core : Nat) : Todo :=
  match s.pick core with
  | none => .done (.next (s.noteDecision core none))
  | some g =>
    let s1 := s.noteDecision core (some g)
    match s.gangHead core g with
    | none => .done (.next s1)
    | some (c, th) =>
      match s.peekWord c th with
      | .error r => .done (.next ((s1.noteFetch c th).fetchTrap core g r))
      | .ok w =>
        let i := wordInstr w
        .run i { (s1.noteFetch c th).noteDivide core g.tids i with acting := .gang core g.slot g.tids g.gsize }

/-- A thread's hint slot (R42). -/
def State.hintTodo (s : State) (core slot tid : Nat) : Todo :=
  if !s.hintDue core slot tid then .done (.next s)
  else
    match s.crew core slot, s.thread core slot tid with
    | some w, some th =>
      let c := s.ctx core slot w 1 tid
      match s.peekInstr c th with
      | some i => .run i { s.noteFetch c th with acting := .gang core slot [tid] 1 }
      | none => .done (.next s)
    | _, _ => .done (.next s)

/-- The instruction that a word is for a beacon lane (R69, R235). -/
def laneInstr (w : Word) : Instr :=
  match decodeLane w with
  | some i => i
  | none => .illegalWord w

/-- The word that a beacon lane fetches (R238): HBM's through the L1, a device's, or the exception of the fetch. -/
def State.laneWord (s : State) (core : Nat) : Except Raise Word :=
  let v := s.laneViewer core
  match s.fetchHit v (s.core core).lane.pc with
  | .error r => .error r
  | .ok h => .ok (BitVec.ofNat 32 (if h.pa < hbmEnd then (s.fetchData core h).1 else s.devRead v.mmode h.pa 4))

/-- A beacon lane issues (R235, R236), or takes the interrupt that is due at its boundary (R242). -/
def State.laneTodo (s : State) (core : Nat) : Todo :=
  if !s.laneRuns core then .done (.next s)
  else if s.interruptDue core then .done (execInterruptEntry core s)
  else if s.inRom core then .done (.next (s.bootRom core))
  else
    let s1 := s.fetched (s.laneViewer core) (s.core core).lane.pc
    match s.laneWord core with
    | .error r => .done (.next (s1.beaconException core r))
    | .ok w => .run (laneInstr w) { s1 with acting := .lane core }

/-! ### The end of a cycle (R196, R264) -/

/-- Threads that are parked, or have parked in this cycle, for a stopping task retire (R379, R380); the matrix units' arrivals take effect
after the barrier instructions of the cycle (R191, R232); freezes take hold (R262); boundary traps follow. -/
def State.endFreeze (s : State) : State :=
  let sp := s.allCrews.foldl (fun (u : State) x => if u.stoppingCrew x.2.2 then u.retireCrew x.1 x.2.1 else u) s
  let s0 := (sp.cores.filter (fun c => !c.2.arrivals.isEmpty)).foldl (fun (u : State) c => u.matArrive c.1) sp
  let s1 := s0.allCrews.foldl (fun (u : State) x =>
    if x.2.2.freeze ≠ .none then
      u.onCrew x.1 x.2.1 (fun w => { w with threads := w.threads.mapVal (fun _ th => th.freezeAt u) })
    else u) s0
  let due := s1.allThreads.filterMap (fun t =>
    if !t.2.2.2.atBoundary s1 then none
    else if !t.2.2.2.deferred.isEmpty then some (Instr.deferredMachineTrap t.1 t.2.1 t.2.2.1)
    else if s1.watchdogDue t.1 t.2.2.2 then some (Instr.watchdogExpiry t.1 t.2.1 t.2.2.1)
    else none)
  { s1 with agenda := due.map Act.event ++ [.tick 1] }

/-- STEP traps, then pre-emption stops (R33, R168, R256); slice expiries follow (R261). -/
def State.endBoundary (s : State) : State :=
  let all := s.allThreads
  let s1 := all.foldl (fun (u : State) t => u.stepThread t.1 t.2.1 t.2.2.1) s
  let s2 := all.foldl (fun (u : State) t => u.preemptThread t.1 t.2.1 t.2.2.1) s1
  let slices := s2.allCrews.filter (fun x => !x.2.2.super &&
    (x.2.2.sliceDue || (decide ((s2.core x.1).ctl.slice ≠ 0) && decide ((s2.core x.1).ctl.slice.toNat ≤ x.2.2.slice))))
  { s2 with agenda := slices.map (fun x => Act.event (.sliceExpiry x.1 x.2.1)) ++ [.tick 2] }

/-- Joins are evaluated (R202); expiries follow. -/
def State.endJoins (s : State) : State :=
  let s1 := { s with cores := s.cores.mapVal (fun _ c => { c with crews := c.crews.mapVal (fun _ w => w.evalRms) }) }
  let lost := (s1.allCrews.map (fun x => ((FMap.keys x.2.2.rms).filter (fun n => x.2.2.rmExpires n)).map (fun n =>
    Instr.joinPatienceExpiry x.1 x.2.1 n))).flatten
  { s1 with agenda := lost.map Act.event ++ [.tick 3] }

/-- One round of a crew that completes (R207, R223). -/
def State.closeRound (s : State) (core slot n : Nat) : Out :=
  match s.crew core slot with
  | none => .next s
  | some w =>
    if (w.cv n).op = 0 then s.closeMma core slot n
    else .next (s.onCrew core slot (fun w => w.closeCv n))

/-- Rounds that complete, one after another. -/
def State.closeRounds : List (Nat × Nat × Nat) → State → Out
  | [], s => .next s
  | (core, slot, n) :: l, s =>
    match s.closeRound core slot n with
    | .next s1 => State.closeRounds l s1
    | .fault x => .fault x
    | .refused x => .refused x

/-- The rounds that complete in a cycle, evaluated once for each register (R196, R207). -/
def State.doneRounds (s : State) : List (Nat × Nat × Nat) :=
  (s.allCrews.map (fun x => ((FMap.keys x.2.2.cvs).filter x.2.2.cvDone).map (fun n => (x.1, x.2.1, n)))).flatten

/-- Rounds are evaluated (R207); their matrix operations enter the queue as far as it has room (R217). -/
def State.endRounds (s : State) : Out :=
  match State.closeRounds s.doneRounds s with
  | .next s1 =>
    runAll ((s1.cores.map (fun c => c.2.matWait.map (fun _ => execMmaEnterQueue c.1))).flatten) { s1 with agenda := [.tick 4] }
  | .fault x => .fault x
  | .refused x => .refused x

/-- The slice counter of a crew, and how its traps stand to an expiry and to other traps, at the end of a cycle (R249,
R261). -/
def Crew.endCycle (cycle : Nat) (w : Crew) : Crew :=
  { w with
    slice := if w.super || w.isFrozen then w.slice else w.slice + 1
    threads := w.threads.mapVal (fun _ t => { t with trap := t.trap.map (fun x =>
      { x with mark := if x.mark = 0 then 1 else x.mark, since := x.since.or (some cycle) }) }) }

/-- The cycle ends: control registers take what was written (R245), what ended crews held is free (R174). -/
def State.endCycle (s : State) : State :=
  let s1 := s.applyCtls
  { s1 with
    cycle := s1.cycle + 1
    cores := s1.cores.mapVal (fun _ c => { c with
      returned := [], crews := c.crews.mapVal (fun _ w => w.endCycle s1.cycle) }) }

/-- A stage of the end of a cycle. -/
def State.tickStage (s : State) (n : Nat) : Out :=
  match n with
  | 0 => .next s.endFreeze
  | 1 => .next s.endBoundary
  | 2 => .next s.endJoins
  | 3 => s.endRounds
  | _ => .next s.endCycle

/-- What an act comes to; the state's agenda holds the acts after it. -/
def State.actTodo (s : State) (a : Act) : Todo :=
  match a with
  | .gang core => s.gangTodo core
  | .hint core slot tid => s.hintTodo core slot tid
  | .lane core => s.laneTodo core
  | .event i => .run i { s with acting := .none }
  | .clock => .done s.startCycle
  | .memory id => .done (s.moveOp id)
  | .push id => .done (s.movePush id)
  | .matrix core => .done (s.moveMatrix core)
  | .line n => .done (runAll (s.lineEvents n) s)
  | .tick n => .done (s.tickStage n)

/-- What the next step comes to: the next act of the cycle, or a new cycle. -/
def State.todo (s : State) : Todo :=
  match s.agenda with
  | [] => .done (.next s.beginCycle)
  | a :: rest => { s with agenda := rest }.actTodo a

end Sys2Proof.Machine
end

