-- ==== Sys2Proof/Machine/Load.lean ====
section
/-! DEFINITION. A machine set up so that its next step executes one word: what stands for loading a program from outside
(log 29). Isle 0 has cluster 0 and the first GiB of memory under one page; one supervisor thread, or core 0's beacon lane,
is about to execute the word. -/

namespace Sys2Proof.Machine

/-- Whether only a beacon lane executes an instruction (R68). -/
def beaconOnly (i : Instr) : Bool := decide (privOf i = .b)

/-- Where the word of a probe lies. -/
def probeCode : Nat := 0x10000

/-- The page table of a probe: one 1 GiB page at 0 that permits everything (R311). -/
def State.probePages (s : State) : State :=
  { s with mem := (s.mem.writeNat 0x100000 8 (0x101000 + 1)).writeNat 0x101000 8 0xF9 }

/-- Isle 0 of a probe: cluster 0, a memory range of 1 GiB at 0, the page table, a task area of 1 MiB (R407). -/
def State.probeIsle (s : State) : State :=
  s.onIsle 0 (fun x => { x with
    clus := x.clus ||| 1#96, mems := setAt x.mems 0 0x8000000000000001#64, ptroot := 0x100000#64,
    tarea := 0x0001000000200000#64, inReset := false })

/-- The segments of a probe's thread (R22). -/
def probeSegs : List (BitVec 128) :=
  let open' (base limit : Nat) : BitVec 128 := mkSeg false false true true limit base
  [open' 0 0x40000000, open' 0 0x10000, open' 0 0x40000, open' 0x300000 0x1000, open' 0x400000 0x1000,
    mkSeg false true false true 0x1000 probeCode, forceSeg 6 (open' 0x500000 0x1000), forceSeg 7 (open' hbmEnd 0x40000000)]

/-- The task of a probe's crew. -/
def probeTask (id shape : Word) : Task :=
  { id := id, isle := 0, die := 0
    entry := { pc := 0#32, shape := shape, lo := 0, hi := 0, grain := 0, options := 0, argp := 0, cell := 0, decl := 0 }
    cell := none, decl := 0, pos := 0, state := .resident, stopping := false, pieces := 1, mstat := 0, slots := [], tcb := none,
    overs := [], cluster := 0, spawner := 0, joinCore := 0, joinUid := 0, parent := 0#32 }

/-- The crew shape of a probe: supervisor, 64 registers, one thread, 64 KiB of scratchpad, 256 KiB of accumulator memory. -/
def probeShape : Word := BitVec.ofNat 32 (2 ^ 31 + 7 * 2 ^ 27 + 16 * 2 ^ 8 + 64)

/-- The crew of a probe on core 0, with one thread at word 0 of its code segment. -/
def State.probeCrew (s : State) : State :=
  let id : Word := (s.newTaskId 0 0).1
  let s1 := (s.newTaskId 0 0).2
  let piece := s1.fresh.1
  let s2 := s1.fresh.2.onDomain 0 0 (fun d =>
    { d with tasks := d.tasks ++ [probeTask id probeShape], pieces := d.pieces.put piece { task := id, cur := 0, hi := 0, crews := [] } })
  ((s2.onCore 0 (fun c => { c with crews := [] })).addCrew
    { core := 0, isle := 0, shape := probeShape, size := 1, super := true, spad := 0, acc := 0, accLen := 64, owner := none,
      stack := none, task := id, piece := piece, kgo := false }
    [(0, newThread 0#32 false probeSegs)]).1

/-- A word placed where a probe's thread fetches next, and the act that executes it. -/
def State.probeThread (s : State) (i : Instr) (w : Nat) : State :=
  let s1 := s.probePages.probeIsle.probeCrew
  { s1 with
    mem := s1.mem.writeNat probeCode 4 w
    agenda := [if isHint i then .hint 0 0 0 else .gang 0, .tick 0] }

/-- A word placed where core 0's lane fetches next in the boot ROM, and the act that executes it. -/
def State.probeLane (s : State) (w : Nat) : State :=
  let l := (s.core 0).lane
  { s with
    board := { s.board with rom := s.board.rom.writeNat (segBase (l.segs.getD 5 0#128) - 0x007000000000 + 4 * l.pc.toNat) 4 w }
    agenda := [.lane 0, .tick 0] }

/-- The state whose next step executes a word. -/
def State.loadWord (s : State) (w : Nat) : State :=
  let i := wordInstr (BitVec.ofNat 32 w)
  if beaconOnly i then s.probeLane w else s.probeThread i w

end Sys2Proof.Machine
end

