-- ==== Sys2Proof/Machine/Step.lean ====
section
/-! DEFINITION. The step of the machine: the next act of its cycle. -/

namespace Sys2Proof.Machine

/-- One step: what the next act comes to. -/
def step (s : State) : Host.Outcome State Fault Refusal :=
  match s.todo with
  | .done o => o
  | .run i t => exec i t

/-- A state whose next step fetches and executes an instruction whose bits are given (log 29). -/
def State.withFetchWord (s : State) (nbits w : Nat) : State := s.loadWord (w % 2 ^ nbits)

end Sys2Proof.Machine
end

