-- ==== Sys2Proof/Safety.lean ====
section
/-! DEFINITION. The terms that claims are stated in: who issues and what holds before the effect (R9, R13, R17, R43, R68),
what an instruction leaves alone, and the results of the integer instructions written out from R118 to R128. -/

namespace Sys2Proof.Machine

/-! ### Runs -/

/-- A step that does not stop. -/
def State.goesOn (s : State) : Prop := ∃ t, step s = .next t

/-- A run of `k` steps that does not stop. -/
def State.runs : Nat → State → State → Prop
  | 0, s, t => s = t
  | k + 1, s, t => ∃ u, step s = .next u ∧ State.runs k u t

/-! ### Who issues -/

/-- A gang of one thread issues (R9): thread `tid` of the crew in a slot of a core, Ready. -/
structure State.Solo (s : State) (core slot tid gsize : Nat) (w : Crew) (th : Thread) : Prop where
  acting : s.acting = .gang core slot [tid] gsize
  crew : s.crew core slot = some w
  thread : w.threads.find tid = some th
  ready : th.life = .ready

/-- A thread of the crew with a uid in a slot of a core. -/
structure State.Has (s : State) (core slot uid tid : Nat) (w : Crew) (th : Thread) : Prop where
  crew : s.crew core slot = some w
  same : w.uid = uid
  thread : w.threads.find tid = some th

/-- The beacon lane of a core issues (R234), and executes the instruction with the hints before it (R236). -/
structure State.LaneRuns (s : State) (core : Nat) (i : Instr) : Prop where
  acting : s.acting = .lane core
  listed : i.onLane = true
  hints : badBind i (s.core core).lane.bind = false

/-- The privilege of an instruction is at hand (R68): it needs none, or S and the crew is a supervisor crew. -/
def Allowed (super : Bool) (i : Instr) : Prop := privOf i = .u ∨ (privOf i = .s ∧ super = true)

/-- A register field names registers that are allocated, and a source field only valid latches (R13, R17). -/
def OpndsOk (c : Ctx) (i : Instr) (th : Thread) : Prop :=
  ∀ u ∈ i.opnds, (∀ r ∈ useRegs u, c.allocated r = true) ∧ (∀ k ∈ useLatches u, bit th.lvalid.toNat k = true)

/-- Nothing traps before an instruction's own effect (R167): its hints fit, its privilege is at hand, its operands can be
read as the thread stands when the instruction has opened its hold window. -/
structure Fits (c : Ctx) (i : Instr) (th : Thread) : Prop where
  hints : badBind i th.bind = false
  allowed : Allowed c.super i
  opnds : OpndsOk c i (th.openWin c.cycle)

/-- A gang of any size issues (R9): every member is there and Ready, and nothing traps before the effect. -/
structure State.GangFits (s : State) (i : Instr) (core slot : Nat) (tids : List Nat) (gsize : Nat) (w : Crew) : Prop where
  acting : s.acting = .gang core slot tids gsize
  crew : s.crew core slot = some w
  members : ∀ t ∈ tids, ∃ th, w.threads.find t = some th ∧ th.life = .ready ∧ Fits (s.ctx core slot w gsize t) i th

/-! ### What is left alone -/

/-- `t` is `s` but for threads of one crew. -/
structure State.OnlyThreads (s t : State) (core slot : Nat) : Prop where
  rest : t = { s with cores := t.cores }
  cores : ∀ k, k ≠ core → t.core k = s.core k
  here : t.core core = { s.core core with crews := (t.core core).crews }
  slots : ∀ j, j ≠ slot → t.crew core j = s.crew core j
  crew : ∀ w, s.crew core slot = some w → ∃ ts, t.crew core slot = some { w with threads := ts }

/-- `t` is `s` but for the threads `tids` of one crew. -/
structure State.OnlyGang (s t : State) (core slot : Nat) (tids : List Nat) : Prop where
  threads : s.OnlyThreads t core slot
  others : ∀ j, j ∉ tids → t.thread core slot j = s.thread core slot j

/-- `t` is `s` but for the beacon lane of one core. -/
structure State.OnlyLane (s t : State) (core : Nat) : Prop where
  rest : t = { s with cores := t.cores }
  cores : ∀ k, k ≠ core → t.core k = s.core k
  here : t.core core = { s.core core with lane := (t.core core).lane }

/-- `b` is `a` after the accounting of an issued instruction (R11, R33, R42 to R48, R263): only the PC, the hold window,
the coverage and the hints bound, the validity of latches, the counters of picking and a due STEP trap may differ. -/
def Thread.Accounted (a b : Thread) : Prop :=
  b = { a with pc := b.pc, win := b.win, cover := b.cover, bind := b.bind, lvalid := b.lvalid, skip := b.skip,
               lastIssue := b.lastIssue, age := b.age, wdcount := b.wdcount, waitMask := b.waitMask, stepDue := b.stepDue,
               live := b.live, mac := b.mac }

/-- `b` is `a` after the accounting, but for general registers, `sp` and the latches. -/
def Thread.AccountedRegs (a b : Thread) : Prop :=
  b = { a with pc := b.pc, win := b.win, cover := b.cover, bind := b.bind, lvalid := b.lvalid, skip := b.skip,
               lastIssue := b.lastIssue, age := b.age, wdcount := b.wdcount, waitMask := b.waitMask, stepDue := b.stepDue,
               live := b.live, mac := b.mac, regs := b.regs, sp := b.sp, latch := b.latch, ltime := b.ltime,
               shadows := b.shadows }

/-- Where an instruction of no transfer leaves the PC (R11): past it, but inside an mcall, whose operations have no PC of
their own (R59). -/
def Thread.PastIt (a b : Thread) : Prop := a.mac = none → b.pc = a.pc + 1

/-! ### Accesses -/

/-- An access of a thread is allowed and reaches memory (R148, R149): no S bit refuses it, the formed address passes every
check, and no device lies there. -/
structure State.Reaches (s : State) (c : Ctx) (th : Thread) (w : Want) (f : Formed) (h : Hit) : Prop where
  allowed : (s.viewer c th).sRefuses w = false
  passed : s.checkFormed (s.viewer c th) w f = .ok h
  plain : h.device w = false

/-- An access of a beacon lane is allowed and reaches memory, where nothing that it waits for is left (R156, R218, R238, R315). -/
structure State.LaneReaches (s : State) (core : Nat) (w : Want) (f : Formed) (h : Hit) : Prop where
  passed : s.checkFormed (s.laneViewer core) w f = .ok h
  plain : h.device w = false
  free : s.laneWait core w h = none

/-- `t` is `s` after an access of a core has used its translation (R325, R342): a walk may have put it into the core's TLB, and has
then dropped the leased lines of the core's cluster, those on their way included; owned lines of the page tables are to be taken back. -/
structure State.Walks (s t : State) (core : Nat) : Prop where
  rest : t = { s with cores := t.cores, clusters := t.clusters, ops := t.ops, duties := t.duties }
  recalls : ∃ l, t.duties = s.duties ++ l ∧ ∀ d ∈ l, d.recalls = true
  cores : ∀ k, k ≠ core → t.core k = s.core k
  here : t.core core = { s.core core with tlb := (t.core core).tlb }
  clusters : ∀ n, n ≠ clusterOf core → t.cluster n = s.cluster n
  cluster : t.cluster (clusterOf core) =
    { s.cluster (clusterOf core) with l1 := (t.cluster (clusterOf core)).l1, acquired := (t.cluster (clusterOf core)).acquired }
  copies : ∀ l x, t.copyOf (clusterOf core) l = some x → s.copyOf (clusterOf core) l = some x
  tracked : ∀ l x, s.copyOf (clusterOf core) l = some x → x.tracked = true → t.copyOf (clusterOf core) l = some x
  ops : t.ops.map (fun o => { o with reply := none }) = s.ops.map (fun o => { o with reply := none })

/-- What accepting an access does (R150): one more operation is in flight, with the next number; the flag that the
instruction names rises; the thread is past the instruction with the registers it had. Nothing is stored, and nothing else
changes. -/
structure State.Accepts (s u : State) (core slot tid : Nat) (w : Crew) (th : Thread) (flag : BitVec 4) (rsv : Option Rsv)
    (o : MemOp) : Prop where
  ops : u.ops = s.ops ++ [o]
  id : o.id = s.nextId
  who : o.core = core ∧ o.slot = slot ∧ o.tid = tid ∧ o.uid = w.uid ∧ o.pc = th.pcOf ∧ o.flag = flag.toNat
  new : o.value = none ∧ o.reply = none ∧ o.held = false ∧ o.poisoned = false
  rest : u = { s with cores := u.cores, ops := u.ops, nextId := s.nextId + 1 }
  cores : ∀ k, k ≠ core → u.core k = s.core k
  here : u.core core = { s.core core with crews := (u.core core).crews }
  slots : ∀ j, j ≠ slot → u.crew core j = s.crew core j
  crew : ∃ ts, u.crew core slot = some { w with threads := ts }
  others : ∀ t, t ≠ tid → u.thread core slot t = s.thread core slot t
  thread : ∃ th', u.thread core slot tid = some th' ∧ th.PastIt th' ∧ th'.flags = (th.raiseFlag flag.toNat).flags ∧
    th'.rsv = rsv ∧
    ({ th with flags := th'.flags, rsv := th'.rsv, waitAll := th'.waitAll, waitMem := th'.waitMem } : Thread).Accounted th'

/-- An access instruction: the flag it names, its space, bytes, size code and permissions, its address operand, what the
operation does, its destination, its data, and whether it ends the thread's reservation. -/
structure AccForm where
  flag : BitVec 4
  seg : Nat
  n : Nat
  code : Nat
  rd : Bool
  wr : Bool
  a : Opnd
  kind : OpKind
  dst : Nat
  data : Ctx → Thread → Nat
  clears : Bool

/-- The data of a store (R153, R154): the low bits of the register, a pair, or four registers. -/
def storedData (size : StSize) (d : Opnd) (c : Ctx) (th : Thread) : Nat :=
  match size with
  | .b => (th.readW c d).toNat % 2 ^ 8
  | .h => (th.readW c d).toNat % 2 ^ 16
  | .w => (th.readW c d).toNat
  | .d => (th.readP c d).toNat
  | .q => (th.readQ c d).toNat

/-- An atomic at issue (R344): four bytes of space 0; the operand is p, for cas the pair. -/
def atomForm (f : AtomFn) (flag : BitVec 4) (p : Opnd) (ord : AtomOrd) (pair : BitVec 5) : AccForm :=
  { flag := flag, seg := 0, n := 4, code := 4, rd := true, wr := true, a := pairReg pair,
    kind := .atom f (decide (ord = .acq ∨ ord = .ar)) (decide (ord = .rel ∨ ord = .ar)), dst := p.toNat,
    data := fun c th => if f = .cas then (th.readP c p).toNat else (th.readW c p).toNat, clears := false }

/-- The access instructions (R65, R67, R152 to R156, R343, R344). -/
def accForm (i : Instr) : Option AccForm :=
  match i with
  | .ld seg flag d a size =>
    some { flag := flag, seg := seg.toNat, n := ldBytes size, code := size.code.toNat, rd := true, wr := false, a := a,
           kind := .ld size, dst := d.toNat, data := fun _ _ => 0, clears := false }
  | .st seg flag d a size =>
    some { flag := flag, seg := seg.toNat, n := stBytes size, code := size.code.toNat, rd := false, wr := true, a := a,
           kind := .st, dst := 0, data := storedData size d, clears := false }
  | .ldx seg flag d a size =>
    some { flag := flag, seg := seg.toNat, n := xBytes size, code := size.code.toNat, rd := true, wr := false, a := a,
           kind := .ldx, dst := d.toNat, data := fun _ _ => 0, clears := true }
  | .stx seg flag d a size =>
    some { flag := flag, seg := seg.toNat, n := xBytes size, code := size.code.toNat, rd := false, wr := true, a := a,
           kind := .stx, dst := d.toNat, data := storedData (if size = .d then .d else .w) d, clears := true }
  | .ldAcq flag p dbl pair _ =>
    some { flag := flag, seg := 0, n := if dbl then 8 else 4, code := if dbl then 5 else 4, rd := true, wr := false,
           a := pairReg pair, kind := .ldAcq, dst := p.toNat, data := fun _ _ => 0, clears := false }
  | .stRel flag p dbl pair _ =>
    some { flag := flag, seg := 0, n := if dbl then 8 else 4, code := if dbl then 5 else 4, rd := false, wr := true,
           a := pairReg pair, kind := .stRel, dst := 0, data := storedData (if dbl then .d else .w) p, clears := false }
  | .atomAdd flag p ord pair _ => some (atomForm .add flag p ord pair)
  | .atomSub flag p ord pair _ => some (atomForm .sub flag p ord pair)
  | .atomMin flag p ord pair _ => some (atomForm .min flag p ord pair)
  | .atomMax flag p ord pair _ => some (atomForm .max flag p ord pair)
  | .atomAnd flag p ord pair _ => some (atomForm .and flag p ord pair)
  | .atomOr flag p ord pair _ => some (atomForm .or flag p ord pair)
  | .atomXor flag p ord pair _ => some (atomForm .xor flag p ord pair)
  | .atomExch flag p ord pair _ => some (atomForm .exch flag p ord pair)
  | .atomCas flag p ord pair _ => some (atomForm .cas flag p ord pair)
  | .atomFadd flag p ord pair _ => some (atomForm .fadd flag p ord pair)
  | .atomFmin flag p ord pair _ => some (atomForm .fmin flag p ord pair)
  | .atomFmax flag p ord pair _ => some (atomForm .fmax flag p ord pair)
  | .atomBfadd2 flag p ord pair _ => some (atomForm .bfadd2 flag p ord pair)
  | _ => none

/-! ### Results -/

/-- The registers of a result (R39): unless nw is set `d`, and for a pair `d + 1`, hold it; the others keep what they
held. -/
def RegsAfter (a b : Thread) (nw : Bool) (d : Opnd) (r : Res) : Prop :=
  match nw, r with
  | true, _ => ∀ n, b.reg n = a.reg n
  | false, .w v => b.reg d.toNat = v ∧ ∀ n, n ≠ d.toNat → b.reg n = a.reg n
  | false, .p v => b.reg d.toNat = lo32 v ∧ b.reg (d.toNat + 1) = hi32 v ∧
      ∀ n, n ≠ d.toNat → n ≠ d.toNat + 1 → b.reg n = a.reg n

/-- The latches after a result (R16): a 32-bit result moves them by one, a 64-bit result by two with its low half in l0. -/
def LatchesAfter (a b : Thread) (r : Res) : Prop :=
  match r with
  | .w v => b.latchAt 0 = v ∧ ∀ k, k < 7 → b.latchAt (k + 1) = a.latchAt k
  | .p v => b.latchAt 0 = lo32 v ∧ b.latchAt 1 = hi32 v ∧ ∀ k, k < 6 → b.latchAt (k + 2) = a.latchAt k

/-- The b registers after a result (R235): a 32-bit one is extended with zeros, a 64-bit one fills its register; `sp` is the
destination of code 109. -/
def LaneAfter (a b : Lane) (nw : Bool) (d : Opnd) (r : Res) : Prop :=
  match nw, r with
  | true, _ => b.sp = a.sp ∧ ∀ n, b.breg n = a.breg n
  | false, .w v =>
    if d.toNat = 109 then b.sp = v ∧ ∀ n, b.breg n = a.breg n
    else b.sp = a.sp ∧ b.breg d.toNat = BitVec.setWidth 64 v ∧ ∀ n, n ≠ d.toNat → b.breg n = a.breg n
  | false, .p v => b.sp = a.sp ∧ b.breg d.toNat = v ∧ ∀ n, n ≠ d.toNat → b.breg n = a.breg n

/-- What an instruction of the R, F and I classes does for a gang (R114): every member has the result in its registers and
latches; nothing else changes but the accounting. -/
def State.Computes (s u : State) (core slot : Nat) (tids : List Nat) (gsize : Nat) (w : Crew)
    (form : Ctx → Thread → Option (Bool × Opnd × Res)) : Prop :=
  s.OnlyGang u core slot tids ∧
    ∀ t ∈ tids, ∀ th, w.threads.find t = some th → ∀ nw d r, form (s.ctx core slot w gsize t) th = some (nw, d, r) →
      ∃ th', u.thread core slot t = some th' ∧ RegsAfter th th' nw d r ∧ LatchesAfter th th' r ∧ th.AccountedRegs th' ∧
        th.PastIt th'

/-- What such an instruction does on a beacon lane (R235): the result in its b registers, the PC past the instruction. -/
def State.LaneComputes (s u : State) (core : Nat) (form : Lane → Option (Bool × Opnd × Res)) : Prop :=
  s.OnlyLane u core ∧
    ∀ nw d r, form (s.core core).lane = some (nw, d, r) →
      LaneAfter (s.core core).lane (u.core core).lane nw d r ∧
        (u.core core).lane = { (s.core core).lane with b := (u.core core).lane.b, sp := (u.core core).lane.sp,
                                                       pc := (s.core core).lane.pc + 1, bind := none }

/-- 1 where a comparison holds, else 0 (R127). -/
def truth (b : Bool) : Word := if b then 1#32 else 0#32

/-- The field of R124: its lowest bit, and its length, which ends at bit 31. -/
def bfPos (b : Word) : Nat := (BitVec.extractLsb' 0 5 b).toNat
def bfLen (b : Word) : Nat := min (BitVec.extractLsb' 8 6 b).toNat (32 - bfPos b)

/-- Result byte `i` of bmix (R125): the byte of `b : a` that field `i` of the selector names, by its mode. -/
def bmixField (sel a b : Word) (i : Nat) : BitVec 8 :=
  let f := BitVec.extractLsb' (5 * i) 5 sel
  let byte := BitVec.extractLsb' (8 * (BitVec.extractLsb' 0 3 f).toNat) 8 (b ++ a)
  match (BitVec.extractLsb' 3 2 f).toNat with
  | 0 => byte
  | 1 => if byte.msb then 0xFF#8 else 0x00#8
  | 2 => 0x00#8
  | _ => 0xFF#8

/-- The destination and the result of an R-class instruction, from the tables and the pseudocode of R118 to R127. -/
def intForm (i : Instr) (r : Reads) : Option (Bool × Opnd × Res) :=
  match i with
  | .add nw d a b => some (nw, d, .w (r.w a + r.w b))
  | .sub nw d a b => some (nw, d, .w (r.w a - r.w b))
  | .add64 nw d a b => some (nw, d, .p (r.p a + r.p b))
  | .sub64 nw d a b => some (nw, d, .p (r.p a - r.p b))
  | .mul nw d a b => some (nw, d, .w (r.w a * r.w b))
  | .mulhiS nw d a b =>
    some (nw, d, .w (BitVec.extractLsb' 32 32 (BitVec.signExtend 64 (r.w a) * BitVec.signExtend 64 (r.w b))))
  | .mulhiU nw d a b =>
    some (nw, d, .w (BitVec.extractLsb' 32 32 (BitVec.setWidth 64 (r.w a) * BitVec.setWidth 64 (r.w b))))
  | .mad nw d a b => some (nw, d, .w (r.w a * r.w b + r.w d))
  | .mad64 nw d a b => some (nw, d, .p (BitVec.setWidth 64 (r.w a) * BitVec.setWidth 64 (r.w b) + r.p d))
  | .divu nw d a b => some (nw, d, .w (if r.w b = 0#32 then 0xFFFFFFFF#32 else r.w a / r.w b))
  | .divs nw d a b => some (nw, d, .w (if r.w b = 0#32 then 0xFFFFFFFF#32 else (r.w a).sdiv (r.w b)))
  | .remu nw d a b => some (nw, d, .w (if r.w b = 0#32 then r.w a else r.w a % r.w b))
  | .rems nw d a b => some (nw, d, .w (if r.w b = 0#32 then r.w a else (r.w a).srem (r.w b)))
  | .shl nw d a b => some (nw, d, .w (r.w a <<< r.w b))
  | .shr nw d a b => some (nw, d, .w (r.w a >>> r.w b))
  | .sra nw d a b => some (nw, d, .w ((r.w a).sshiftRight' (r.w b)))
  | .rotl nw d a b => some (nw, d, .w ((r.w a).rotateLeft ((r.w b).toNat % 32)))
  | .shl64 nw d a b => some (nw, d, .p (r.p a <<< r.w b))
  | .shr64 nw d a b => some (nw, d, .p (r.p a >>> r.w b))
  | .sra64 nw d a b => some (nw, d, .p ((r.p a).sshiftRight' (r.w b)))
  | .and nw d a b => some (nw, d, .w (r.w a &&& r.w b))
  | .or nw d a b => some (nw, d, .w (r.w a ||| r.w b))
  | .xor nw d a b => some (nw, d, .w (r.w a ^^^ r.w b))
  | .andn nw d a b => some (nw, d, .w (r.w a &&& ~~~(r.w b)))
  | .orn nw d a b => some (nw, d, .w (r.w a ||| ~~~(r.w b)))
  | .minS nw d a b => some (nw, d, .w (if (r.w a).sle (r.w b) then r.w a else r.w b))
  | .minU nw d a b => some (nw, d, .w (if (r.w a).ule (r.w b) then r.w a else r.w b))
  | .maxS nw d a b => some (nw, d, .w (if (r.w a).sle (r.w b) then r.w b else r.w a))
  | .maxU nw d a b => some (nw, d, .w (if (r.w a).ule (r.w b) then r.w b else r.w a))
  | .abs nw d a => some (nw, d, .w (if (r.w a).msb then -(r.w a) else r.w a))
  | .clz nw d a => some (nw, d, .w (BitVec.ofNat 32 ((List.range 32).takeWhile (fun n => !(r.w a).getMsbD n)).length))
  | .ctz nw d a => some (nw, d, .w (BitVec.ofNat 32 ((List.range 32).takeWhile (fun n => !(r.w a).getLsbD n)).length))
  | .popc nw d a => some (nw, d, .w (BitVec.ofNat 32 ((List.range 32).filter (fun n => (r.w a).getLsbD n)).length))
  | .brev nw d a => some (nw, d, .w (r.w a).reverse)
  | .bfx nw d a b =>
    let f := BitVec.extractLsb' (bfPos (r.w b)) (bfLen (r.w b)) (r.w a)
    some (nw, d, .w (if (r.w b).getLsbD 16 then BitVec.signExtend 32 f else BitVec.setWidth 32 f))
  | .bfi nw d a b =>
    let m := ((1#32 <<< bfLen (r.w b)) - 1#32) <<< bfPos (r.w b)
    some (nw, d, .w ((r.w d &&& ~~~m) ||| ((r.w a <<< bfPos (r.w b)) &&& m)))
  | .bmix nw d a b =>
    let f := bmixField (r.w d) (r.w a) (r.w b)
    some (nw, d, .w (f 3 ++ f 2 ++ f 1 ++ f 0))
  | .sel nw d a b => some (nw, d, .w (if r.w d ≠ 0#32 then r.w a else r.w b))
  | .cmpEqS nw d a b => some (nw, d, .w (truth (decide ((r.w a).toInt = (r.w b).toInt))))
  | .cmpNeS nw d a b => some (nw, d, .w (truth (decide ((r.w a).toInt ≠ (r.w b).toInt))))
  | .cmpLtS nw d a b => some (nw, d, .w (truth ((r.w a).slt (r.w b))))
  | .cmpLeS nw d a b => some (nw, d, .w (truth ((r.w a).sle (r.w b))))
  | .cmpGtS nw d a b => some (nw, d, .w (truth ((r.w b).slt (r.w a))))
  | .cmpGeS nw d a b => some (nw, d, .w (truth ((r.w b).sle (r.w a))))
  | .cmpEqU nw d a b => some (nw, d, .w (truth (decide ((r.w a).toNat = (r.w b).toNat))))
  | .cmpNeU nw d a b => some (nw, d, .w (truth (decide ((r.w a).toNat ≠ (r.w b).toNat))))
  | .cmpLtU nw d a b => some (nw, d, .w (truth ((r.w a).ult (r.w b))))
  | .cmpLeU nw d a b => some (nw, d, .w (truth ((r.w a).ule (r.w b))))
  | .cmpGtU nw d a b => some (nw, d, .w (truth ((r.w b).ult (r.w a))))
  | .cmpGeU nw d a b => some (nw, d, .w (truth ((r.w b).ule (r.w a))))
  | _ => none

/-- The immediate of R128: with a bound imm hint payload[21:0] : imm10, else extended with zeros or with its sign. -/
def immValue (b : Option Bind) (zeros : Bool) (imm : BitVec 10) : Word :=
  match b.bind (fun x => x.imm) with
  | some x => BitVec.extractLsb' 0 22 x ++ imm
  | none => if zeros then BitVec.setWidth 32 imm else BitVec.signExtend 32 imm

/-- The destination and the result of an I-class instruction (R128): the R-class effect with the immediate for b; `v` gives
the immediate of a field. -/
def immForm (i : Instr) (r : Reads) (v : Bool → BitVec 10 → Word) : Option (Bool × Opnd × Res) :=
  match i with
  | .movi nw d imm => some (nw, d, .w (v false imm))
  | .addi nw d a imm => some (nw, d, .w (r.w a + v false imm))
  | .muli nw d a imm => some (nw, d, .w (r.w a * v false imm))
  | .andi nw d a imm => some (nw, d, .w (r.w a &&& v true imm))
  | .ori nw d a imm => some (nw, d, .w (r.w a ||| v true imm))
  | .xori nw d a imm => some (nw, d, .w (r.w a ^^^ v true imm))
  | .shli nw d a amt => some (nw, d, .w (r.w a <<< amt))
  | .shri nw d a amt => some (nw, d, .w (r.w a >>> amt))
  | .srai nw d a amt => some (nw, d, .w ((r.w a).sshiftRight' amt))
  | .cmpeqi nw d a imm => some (nw, d, .w (truth (decide ((r.w a).toInt = (v false imm).toInt))))
  | .cmpnei nw d a imm => some (nw, d, .w (truth (decide ((r.w a).toInt ≠ (v false imm).toInt))))
  | .cmplti nw d a imm => some (nw, d, .w (truth ((r.w a).slt (v false imm))))
  | .cmpltui nw d a imm => some (nw, d, .w (truth ((r.w a).ult (v true imm))))
  | .cmpgei nw d a imm => some (nw, d, .w (truth ((v false imm).sle (r.w a))))
  | .cmpgeui nw d a imm => some (nw, d, .w (truth ((v true imm).ule (r.w a))))
  | _ => none

/-- The destination and the result of an F-class instruction (R129 to R141, cvt R111). -/
def floatForm (i : Instr) (r : Reads) : Option (Bool × Opnd × Res) :=
  match i with
  | .fadd nw d a b => some (nw, d, .w (Fpu.fadd r.round r.sat r.ftz (r.w a) (r.w b)))
  | .fsub nw d a b => some (nw, d, .w (Fpu.fsub r.round r.sat r.ftz (r.w a) (r.w b)))
  | .fmul nw d a b => some (nw, d, .w (Fpu.fmul r.round r.sat r.ftz (r.w a) (r.w b)))
  | .ffma nw d a b => some (nw, d, .w (Fpu.ffma r.round r.sat r.ftz (r.w d) (r.w a) (r.w b)))
  | .fmin nw d a b => some (nw, d, .w (Fpu.fmin r.ftz (r.w a) (r.w b)))
  | .fmax nw d a b => some (nw, d, .w (Fpu.fmax r.ftz (r.w a) (r.w b)))
  | .fneg nw d a => some (nw, d, .w (r.w a ^^^ 0x80000000#32))
  | .fclass nw d a => some (nw, d, .w (Fpu.fclass (r.w a)))
  | .fcmpEq nw d a b => some (nw, d, .w (Fpu.fcmp .eq r.ftz (r.w a) (r.w b)))
  | .fcmpNe nw d a b => some (nw, d, .w (Fpu.fcmp .ne r.ftz (r.w a) (r.w b)))
  | .fcmpLt nw d a b => some (nw, d, .w (Fpu.fcmp .lt r.ftz (r.w a) (r.w b)))
  | .fcmpLe nw d a b => some (nw, d, .w (Fpu.fcmp .le r.ftz (r.w a) (r.w b)))
  | .fcmpUnord nw d a b => some (nw, d, .w (Fpu.fcmp .unord r.ftz (r.w a) (r.w b)))
  | .frcp nw d a => some (nw, d, .w (Approx.frcp r.sat r.ftz (r.w a)))
  | .frsq nw d a => some (nw, d, .w (Approx.frsq r.sat r.ftz (r.w a)))
  | .fsqrt nw d a => some (nw, d, .w (Fpu.fsqrt r.round r.sat r.ftz (r.w a)))
  | .fexp2 nw d a => some (nw, d, .w (Approx.fexp2 r.sat r.ftz (r.w a)))
  | .flog2 nw d a => some (nw, d, .w (Approx.flog2 r.sat r.ftz (r.w a)))
  | .fsin nw d a => some (nw, d, .w (Approx.fsin r.ftz (r.w a)))
  | .fcos nw d a => some (nw, d, .w (Approx.fcos r.ftz (r.w a)))
  | .fintFloor nw d a => some (nw, d, .w (Fpu.fint .rd r.ftz (r.w a)))
  | .fintCeil nw d a => some (nw, d, .w (Fpu.fint .ru r.ftz (r.w a)))
  | .fintTrunc nw d a => some (nw, d, .w (Fpu.fint .rz r.ftz (r.w a)))
  | .fintRound nw d a => some (nw, d, .w (Fpu.fint .rne r.ftz (r.w a)))
  | .paddBf nw d a b => some (nw, d, .w (Fpu.padd .bf16 r.round r.sat r.ftz (r.w a) (r.w b)))
  | .pmulBf nw d a b => some (nw, d, .w (Fpu.pmul .bf16 r.round r.sat r.ftz (r.w a) (r.w b)))
  | .pfmaBf nw d a b =>
    some (nw, d, .w (Fpu.pfma .bf16 r.round r.sat r.ftz (r.w d) (r.w a) (r.w b)))
  | .paddH nw d a b => some (nw, d, .w (Fpu.padd .f16 r.round r.sat r.ftz (r.w a) (r.w b)))
  | .pmulH nw d a b => some (nw, d, .w (Fpu.pmul .f16 r.round r.sat r.ftz (r.w a) (r.w b)))
  | .pfmaH nw d a b => some (nw, d, .w (Fpu.pfma .f16 r.round r.sat r.ftz (r.w d) (r.w a) (r.w b)))
  | .dp4 nw d a b => some (nw, d, .w (Alu.dp4 r.sat (r.w d) (r.w a) (r.w b)))
  | .f8dot4E4 nw d a b =>
    some (nw, d, .w (Fpu.f8dot4 .e4m3 r.round r.sat r.ftz (r.w d) (r.w a) (r.w b)))
  | .f8dot4E5 nw d a b =>
    some (nw, d, .w (Fpu.f8dot4 .e5m2 r.round r.sat r.ftz (r.w d) (r.w a) (r.w b)))
  | .qpack nw d a b => some (nw, d, .w (Fpu.qpack r.round r.ftz (r.w a) (r.w b)))
  | .qunpack nw d a b => some (nw, d, .w (Fpu.qunpack (r.w a) (r.w b)))
  | .cvt nw t f d a =>
    some (nw, d, cvtRes t (cvtValue t f r.round r.sat r.ftz (if f.wide then (r.p a).toNat else (r.w a).toNat)))
  | _ => none

/-! ### Instructions that touch more than their thread -/

/-- What one thread's instruction leaves alone: `u` is `S` but for the cores; of its core `K` but for the crews; of its crew
`W` but for the threads; and no other thread has changed. -/
structure State.Becomes (s u S : State) (core slot tid : Nat) (K : Core) (W : Crew) : Prop where
  rest : u = { S with cores := u.cores }
  cores : ∀ k, k ≠ core → u.core k = s.core k
  here : u.core core = { K with crews := (u.core core).crews }
  slots : ∀ j, j ≠ slot → u.crew core j = s.crew core j
  crew : ∃ ts, u.crew core slot = some { W with threads := ts }
  others : ∀ t, t ≠ tid → u.thread core slot t = s.thread core slot t

/-- One thread's instruction changes only that thread. -/
abbrev State.OneThread (s u : State) (core slot tid : Nat) (w : Crew) : Prop :=
  s.Becomes u s core slot tid (s.core core) w

/-- `b` is `a` with a result in `d` (R39) and past the instruction; no latch has moved (R16). -/
structure Thread.Wrote (a b : Thread) (d : Opnd) (r : Res) : Prop where
  regs : RegsAfter a b false d r
  latches : b.latch = a.latch
  rest : a.AccountedRegs b
  pc : a.PastIt b

/-- The hold window in which an instruction traps (R47, R48, R59): the one that stands when it has opened its own; an mcall closes
it first. -/
def Thread.winAt (a : Thread) (i : Instr) (cycle : Nat) : Option Win :=
  if isMcall i = true then none else (a.openWin cycle).win

/-- `b` is `a` trapped by the instruction `i` at hand (R32, R171): the record's fields, no window, mcall, coverage, binding, latch
or reservation; everything else as it was. -/
structure Thread.Traps (a b : Thread) (i : Instr) (cycle cause detail : Nat) : Prop where
  life : b.life = .trapped
  trap : b.trap = some
    { cause := cause, tpc := a.pcOf, fault := 0#48, detail := BitVec.ofNat 32 detail,
      rpc := match a.winAt i cycle with | some w => w.first | none => a.pcOf,
      win := ((a.winAt i cycle).map (fun w => w.pos)), record := .due, mark := 0, since := none }
  rest : b = { a with life := .trapped, trap := b.trap, win := none, mac := none, cover := none, bind := none, lvalid := 0#8,
                      rsv := none, skip := false, lastIssue := none, stepDue := false, wdcount := b.wdcount }

/-- What a branch or jump does (R143): nothing for another instruction; else the target of a taken one, from the operands and
the PC. -/
def branchTo (i : Instr) (r : Reads) (pc : Word) : Option (Option Word) :=
  match i with
  | .br off => some (some (pc + BitVec.signExtend 32 off))
  | .bz a off => some (if r.w a = 0#32 then some (pc + BitVec.signExtend 32 off) else none)
  | .bnz a off => some (if r.w a ≠ 0#32 then some (pc + BitVec.signExtend 32 off) else none)
  | .jmp a => some (some (r.w a))
  | _ => none

/-- The target of a call (R144). -/
def callTo (i : Instr) (r : Reads) (pc : Word) : Option Word :=
  match i with
  | .call off => some (pc + BitVec.signExtend 32 off)
  | .callr a => some (r.w a)
  | _ => none

/-- A thread after a hint, but for its PC (R44, R51 to R55); nothing for another instruction, or where the hint is misplaced. -/
def hintForm (i : Instr) (th : Thread) : Option Thread :=
  let still : Option LiveRun := th.live.map (fun r => { r with active := false })
  let fresh : Bind := { start := th.pc, imm := none, mod := none, fmt := none, bad := false }
  let b : Bind := th.bind.getD fresh
  let run : LiveRun := match th.live with
    | some r => if r.active then r else { parts := [], ranges := [], active := true }
    | none => { parts := [], ranges := [], active := true }
  match i with
  | .sched wait hold yld d3 d2 d1 d0 =>
    if th.bind = none then
      some { th with
        cover := some { dists := [d0.toNat, d1.toNat, d2.toNat, d3.toNat], wait := wait, hold := hold, yld := yld, pc := th.pc }
        win := if hold then th.win else none
        lvalid := if hold ∧ th.win ≠ none then th.lvalid else 0#8
        live := still }
    else none
  | .imm payload => if b.imm = none then some { th with bind := some { b with imm := some payload }, live := still } else none
  | .mod round sat ftz cache =>
    if b.mod = none ∧ b.bad = false then
      some { th with bind := some { b with mod := some ⟨round, sat, ftz, cache.toNat⟩ }, live := still }
    else none
  | .fmt payload => if b.fmt = none then some { th with bind := some { b with fmt := some payload }, live := still } else none
  | .live part mask =>
    if th.win = none ∧ th.bind = none then
      some { th with live := some { run with parts := run.parts.put part.toNat (FMap.get 0#24 run.parts part.toNat ||| mask) } }
    else none
  | .livescratch base len =>
    if th.win = none ∧ th.bind = none ∧ run.ranges.length < 4 then
      some { th with live := some { run with ranges := run.ranges ++ [(base.toNat, len.toNat)] } }
    else none
  | _ => none

/-! ### Bytes of a beacon lane's accesses -/

/-- Where the bytes of a space lie: a cluster's scratchpad, a core's accumulator memory, memory. -/
inductive Place where
  | pad (cluster : Nat)
  | acc (core : Nat)
  | memory
deriving DecidableEq, Repr

/-- The place of a segment's space for a core (R20, R268, R215). -/
def placeOf (core seg : Nat) : Place :=
  if seg = 1 then .pad (clusterOf core) else if seg = 2 then .acc core else .memory

/-- One byte as it stands. -/
def State.byteIn (s : State) (p : Place) (a : Nat) : Nat :=
  match p with
  | .pad cl => s.readSpad cl a 1
  | .acc core => s.readAcc core a 1
  | .memory => s.peekNat a 1

/-- Several bytes as they stand, the lowest address in the low bits (R4). -/
def State.bytesIn (s : State) (p : Place) (a : Nat) : Nat → Nat
  | 0 => 0
  | n + 1 => s.byteIn p a + 256 * s.bytesIn p (a + 1) n

/-- Every byte is as it was. -/
def State.KeepsBytes (s u : State) : Prop := ∀ p a, u.byteIn p a = s.byteIn p a

/-- Every byte is as it was but the `n` bytes from `pa` of one place, which hold a number. -/
def State.StoresBytes (s u : State) (q : Place) (pa n v : Nat) : Prop :=
  ∀ p a, u.byteIn p a = if p = q ∧ pa ≤ a ∧ a < pa + n then bits v (8 * (a - pa) + 7) (8 * (a - pa)) else s.byteIn p a

/-- What a beacon lane's access leaves alone: threads and the other lanes but for reservations, which a write ends (R156);
the machine but for memories, caches, homes and operations in flight. -/
structure State.LaneOnly (s u : State) (core : Nat) : Prop where
  rest : u = { s with cores := u.cores, clusters := u.clusters, isles := u.isles, mem := u.mem, poison := u.poison,
                      lines := u.lines, filters := u.filters, ops := u.ops, duties := u.duties }
  threads : ∀ k sl t, (u.thread k sl t).map (fun x => { x with rsv := none }) =
    (s.thread k sl t).map (fun x => { x with rsv := none })
  lanes : ∀ k, k ≠ core → { (u.core k).lane with rsv := none } = { (s.core k).lane with rsv := none }
  ops : u.ops.map (fun o => o.id) = s.ops.map (fun o => o.id)

/-- A crew without the reservations of its threads. -/
def Crew.unreserved (w : Crew) : Crew := { w with threads := w.threads.mapVal (fun _ t => { t with rsv := none }) }

/-- `u` is `s` but for caches, homes, TLBs and logical time: what bringing a line may change (R157, R271, R308, R315, R325). -/
structure State.CachesOnly (s u : State) : Prop where
  rest : u = { s with cores := u.cores, clusters := u.clusters, isles := u.isles, mem := u.mem, poison := u.poison,
                      lines := u.lines, filters := u.filters, ops := u.ops, duties := u.duties }
  cores : ∀ k, { u.core k with crews := [], tlb := [], itlb := [], pts := 0#24, lane := { (u.core k).lane with rsv := none } } =
    { s.core k with crews := [], tlb := [], itlb := [], pts := 0#24, lane := { (s.core k).lane with rsv := none } }
  crews : ∀ k j, (u.crew k j).map Crew.unreserved = (s.crew k j).map Crew.unreserved
  clusters : ∀ n, { u.cluster n with l1 := [], acquired := 0 } = { s.cluster n with l1 := [], acquired := 0 }
  isles : ∀ n, { u.isle n with mts := [] } = { s.isle n with mts := [] }
  ops : u.ops.map (fun o => { o with reply := none, cmp := 0 }) = s.ops.map (fun o => { o with reply := none, cmp := 0 })
  bytes : s.KeepsBytes u

/-- A lane's read finds no poison (R237, R324). -/
def State.LaneClean (s : State) (core : Nat) (w : Want) (h : Hit) : Prop :=
  (w.seg = 1 → s.spadBad (clusterOf core) h.pa w.n = false) ∧ (w.seg = 2 → s.accBad core h.pa w.n = false) ∧
    (w.seg ≠ 1 → w.seg ≠ 2 → ∃ t, h.pageFor (s.laneViewer core).mmode w = some t ∧ h.pa % 128 + w.n ≤ 128 ∧
      (s.readHome core t.mode t.lease h.pa w.n).2.2 = false)

/-- The size of what a load of any kind delivers (R152, R156, R343). -/
def AccForm.size (f : AccForm) : LdSize :=
  match f.kind with
  | .ld z => z
  | _ => if f.n = 8 then .d else .w

/-- The word that a load of a size delivers in one register (R152). -/
def loadWord (z : LdSize) (v : Nat) : Word :=
  match z with
  | .bs => BitVec.signExtend 32 (BitVec.ofNat 8 v)
  | .hs => BitVec.signExtend 32 (BitVec.ofNat 16 v)
  | _ => BitVec.ofNat 32 v

/-- The b registers after a lane's load (R235): 32-bit data extended with zeros, 64-bit data in one register, 128-bit data
in four. -/
def LaneLoaded (a b : Lane) (z : LdSize) (d : Opnd) (v : Nat) : Prop :=
  match z with
  | .d => LaneAfter a b false d (.p (BitVec.ofNat 64 v))
  | .q => b.sp = a.sp ∧ (∀ k, k < 4 → b.breg (d.toNat + k) = BitVec.setWidth 64 (BitVec.ofNat 32 (v >>> (32 * k)))) ∧
      ∀ n, (n < d.toNat ∨ d.toNat + 4 ≤ n) → b.breg n = a.breg n
  | z => LaneAfter a b false d (.w (loadWord z v))

/-- The data of a lane's store (R153, R235). -/
def laneData (l : Lane) (core cycle : Nat) (pts : Time) (n : Nat) (d : Opnd) : Nat :=
  if n = 16 then (l.readQ d).toNat else if n = 8 then (l.readP d).toNat else (l.readW core cycle pts d).toNat % 2 ^ (8 * n)

/-- The register that a store of any kind stores. -/
def storeReg (i : Instr) : Opnd :=
  match i with
  | .st _ _ d _ _ => d
  | .stx _ _ d _ _ => d
  | .stRel _ p _ _ _ => p
  | _ => 0#7

/-- A lane's access lies in one line under a page (R148, R305). -/
def Hit.inLine (h : Hit) (mm : Bool) (w : Want) : Prop :=
  w.seg ≠ 1 → w.seg ≠ 2 → (∃ t, h.pageFor mm w = some t) ∧ h.pa % 128 + w.n ≤ 128

/-! ### Instructions over the machine's own operations -/

/-- The state in which a thread's hold window has opened, where its instruction takes effect (R47). -/
def State.opened (s : State) (core slot tid : Nat) : State := s.onThread core slot tid (fun t => t.openWin s.cycle)

/-- `u` is `s1`, the machine after an instruction's effect, but for what the accounting makes of the issuing thread. -/
structure State.Issues (s1 u : State) (core slot tid : Nat) (e : Thread → Thread → Prop) : Prop where
  rest : u = { s1 with cores := u.cores }
  cores : ∀ k, k ≠ core → u.core k = s1.core k
  here : u.core core = { s1.core core with crews := (u.core core).crews }
  slots : ∀ j, j ≠ slot → u.crew core j = s1.crew core j
  crew : ∀ W, s1.crew core slot = some W → ∃ ts, u.crew core slot = some { W with threads := ts }
  others : ∀ t, t ≠ tid → u.thread core slot t = s1.thread core slot t
  thread : ∀ x, s1.thread core slot tid = some x → ∃ y, u.thread core slot tid = some y ∧ e x y

/-- A thread past its instruction. -/
def Thread.Passed (a b : Thread) : Prop := a.Accounted b ∧ a.PastIt b

/-- A thread past its instruction, at a progress point of the watchdog (R263). -/
def Thread.Progressed (a b : Thread) : Prop := a.Accounted b ∧ b.pc = a.pc + 1 ∧ b.wdcount = 0

/-- A thread parked past its instruction (R34): no reservation, its watchdog count at 0. -/
def Thread.Parked (p : Park) (a b : Thread) : Prop :=
  ({ a with life := .parked p, rsv := none } : Thread).Accounted b ∧ b.pc = a.pc + 1 ∧ b.wdcount = 0

/-- A thread parked at its instruction, which issues again when it wakes (R300, R374). -/
def Thread.ParkedAt (p : Park) (a b : Thread) : Prop :=
  ({ a with life := .parked p, rsv := none } : Thread).Accounted b ∧ b.pc = a.pcOf ∧ b.wdcount = 0

/-- A thread that issues nothing more and waits to retire (R145, R380). -/
def Thread.Leaves (a b : Thread) : Prop :=
  ({ a with leaving := true, rsv := none } : Thread).Accounted b ∧ b.pc = a.pc + 1 ∧ b.stepDue = false

/-- What an instruction at a named barrier leaves (R190): the barrier `y`, every thread parked on it awake where the phase has
completed, the issuing thread as `e` says; nothing else. -/
structure State.BarStep (s u : State) (core slot tid b : Nat) (y : Barrier) (woke : Bool) (th : Thread)
    (e : Thread → Thread → Prop) : Prop where
  rest : u = { s with cores := u.cores }
  cores : ∀ k, k ≠ core → u.core k = s.core k
  here : u.core core = { s.core core with crews := (u.core core).crews, bars := (u.core core).bars }
  bar : u.barrier core b = y
  bars : ∀ k, k ≠ b → u.barrier core k = s.barrier core k
  crews : ∀ j, (u.crew core j).map (fun w => { w with threads := [] }) = (s.crew core j).map (fun w => { w with threads := [] })
  others : ∀ j t, (j ≠ slot ∨ t ≠ tid) →
    u.thread core j t = (s.thread core j t).map (fun x => if woke = true ∧ onBarrier b x.parkOf = true then x.wake else x)
  thread : ∃ z, u.thread core slot tid = some z ∧ e th z

/-- The collectives of R210: op and sub of the round, whether p is a source, p, q and the register. -/
def collForm (i : Instr) : Option (Nat × Nat × Bool × Opnd × Opnd × Nat) :=
  match i with
  | .shfl m p q cv => some (0x30, m.code.toNat, true, p, q, cv.toNat)
  | .vote m p q cv => some (0x31, m.code.toNat, false, p, q, cv.toNat)
  | .scan m p q cv => some (0x32, m.code.toNat, false, p, q, cv.toNat)
  | .red m p q cv => some (0x33, m.code.toNat, false, p, q, cv.toNat)
  | _ => none

/-- The register after a member of index `k` has signed (R206). -/
def signedCv (x : Cv) (k op sub : Nat) (arg : CvArg) : Cv :=
  { x with isOpen := true, op := op, sub := sub, signed := x.signed ||| BitVec.ofNat 32 (2 ^ k), args := x.args.put k arg }

/-- What a signer gives (R206, R223): its operands, and where a trap of the operation would stand. -/
def signArg (th : Thread) (cycle : Nat) (p q : Word) : CvArg :=
  { p := p, q := q, tpc := th.pcOf, rpc := (match (th.openWin cycle).win with | some v => v.first | none => th.pcOf),
    win := ((th.openWin cycle).win.map (fun v => v.pos)) }

/-- The combination of some values by an operation of scan and red (R213). -/
def Combines (sub : Nat) (l : List Word) (r : Word) : Prop :=
  match sub with
  | 0 => r = l.foldl (fun a b => a + b) 0#32
  | 1 => r = l.foldl (fun a b => a + b) 0#32
  | 2 => r = toFp32 .rne false (FVal.sum false (l.map (fp32 false)))
  | 3 => r ∈ l ∧ ∀ v ∈ l, r.toInt ≤ v.toInt
  | 4 => r ∈ l ∧ ∀ v ∈ l, r.toNat ≤ v.toNat
  | 5 => r = if l.all Fpu.isNan = true then 0x7FC00000#32 else l.tail.foldl (Fpu.fmin false) (l.headD 0#32)
  | 6 => r ∈ l ∧ ∀ v ∈ l, v.toInt ≤ r.toInt
  | 7 => r ∈ l ∧ ∀ v ∈ l, v.toNat ≤ r.toNat
  | 8 => r = if l.all Fpu.isNan = true then 0x7FC00000#32 else l.tail.foldl (Fpu.fmax false) (l.headD 0#32)
  | 9 => ∀ k, k < 32 → bit r.toNat k = l.all (fun v => bit v.toNat k)
  | 10 => ∀ k, k < 32 → bit r.toNat k = l.any (fun v => bit v.toNat k)
  | _ => False

/-- The segments of a thread when its crew's scratchpad and accumulator take new lengths, in 4 KiB units (R23, R26): each only
where its allocation has changed. -/
def fittedSegs (spad acc : Option Nat) (g : List (BitVec 128)) : List (BitVec 128) :=
  let a := match spad with
    | some n => setAt g 1 (setLimit (g.getD 1 0#128) (4096 * n))
    | none => g
  match acc with
  | some n => setAt a 2 (setLimit (a.getD 2 0#128) (4096 * n))
  | none => a

/-- A push instruction (R274, R275): group or core, bytes, size code, the stored register of a pst, flag, pair, k. -/
structure PushForm where
  group : Bool
  n : Nat
  size : Nat
  data : Option (StSize × Opnd)
  flag : BitVec 4
  q : Opnd
  k : Nat

/-- The eight push instructions. -/
def pushForm (i : Instr) : Option PushForm :=
  match i with
  | .pstWGroup flag p q k => some ⟨true, 4, 4, some (.w, p), flag, q, k.toNat⟩
  | .pstDGroup flag p q k => some ⟨true, 8, 5, some (.d, p), flag, q, k.toNat⟩
  | .pstQGroup flag p q k => some ⟨true, 16, 6, some (.q, p), flag, q, k.toNat⟩
  | .ppushGroup flag q k => some ⟨true, 1, 0, none, flag, q, k.toNat⟩
  | .pstWCore flag p q k => some ⟨false, 4, 4, some (.w, p), flag, q, k.toNat⟩
  | .pstDCore flag p q k => some ⟨false, 8, 5, some (.d, p), flag, q, k.toNat⟩
  | .pstQCore flag p q k => some ⟨false, 16, 6, some (.q, p), flag, q, k.toNat⟩
  | .ppushCore flag q k => some ⟨false, 1, 0, none, flag, q, k.toNat⟩
  | _ => none

/-- The fabric instructions (R419). -/
def fabForm (i : Instr) : Option (FabKind × BitVec 4 × Opnd × Opnd) :=
  match i with
  | .fabPut flag p q => some (.put, flag, p, q)
  | .fabGet flag p q => some (.get, flag, p, q)
  | .fabAtom flag p q => some (.atom, flag, p, q)
  | .fabRed flag p q => some (.red, flag, p, q)
  | .fabMcast flag p q => some (.mcast, flag, p, q)
  | _ => none

/-! ### What supervision does (R240 to R259, R327, R328, R333, R385) -/

/-- Every thread but one is as it was, up to its reservation and its binding. -/
def State.OthersStay (s u : State) (core slot tid : Nat) : Prop :=
  ∀ k j n, (k ≠ core ∨ j ≠ slot ∨ n ≠ tid) →
    (u.thread k j n).map (fun x => { x with rsv := none, ubind := 0#32 }) =
      (s.thread k j n).map (fun x => { x with rsv := none, ubind := 0#32 })

/-- A thread has resumed at a PC (R171, R252): Ready, its trap over, its counts, latches and reservation gone, its registers as they were;
one of a stopping task outside every guard leaves instead (R380). -/
structure Thread.Resumed (a b : Thread) (pc : Word) (quits : Prop) : Prop where
  life : b.life = .ready
  trap : b.trap = none
  pc : b.pc = pc
  clear : b.wdcount = 0 ∧ b.age = 0 ∧ b.rsv = none ∧ b.lvalid = 0#8 ∧ b.win = none ∧ b.mac = none ∧ b.bind = none
  keeps : b.regs = a.regs ∧ b.sp = a.sp ∧ b.segs = a.segs ∧ b.flags = a.flags ∧ b.guard = a.guard ∧ b.step = a.step
  leaves : quits → b.leaving = true
  stays : ¬quits → b.leaving = a.leaving

/-- Who a trapped thread is for the fetch of its own instruction. -/
def State.ownViewer (s : State) (core : Nat) (w : Crew) (th : Thread) : Viewer :=
  { core := core, isle := s.isleNo core, user := !w.super, mmode := false, segs := th.segs, mac := none,
    bounds := Bounds.whole }

/-- What a qret word does (R252): nothing where it names no trapped thread of the core, or with action 3; the thread resumes at its
resume PC, or after the instruction that trapped, and its record leaves the queue; or every thread of its crew exits. -/
structure State.QretDoes (s u : State) (core : Nat) (v : Word) : Prop where
  idle : (bits v.toNat 31 26 ≠ 0 ∨ indexCore v ≠ core ∨ bits v.toNat 25 24 = 3 ∨
    ∀ th, s.thread core (indexSlot v) (indexTid v) = some th → th.life ≠ .trapped) → u = s
  resumes : ∀ w th t, bits v.toNat 31 26 = 0 → indexCore v = core → bits v.toNat 25 24 < 2 → s.crew core (indexSlot v) = some w →
    w.threads.find (indexTid v) = some th → th.life = .trapped → th.trap = some t →
    (∃ y, u.thread core (indexSlot v) (indexTid v) = some y ∧ th.Resumed y
      (if bits v.toNat 25 24 = 0 then t.rpc else s.afterPc (s.ownViewer core w th) 3 t.tpc)
      (s.stoppingCrew w = true ∧ th.guard = 0)) ∧
    (u.core core).queue = (s.core core).queue.filter (fun r =>
      !(decide (indexSlot r.index = indexSlot v) && decide (indexTid r.index = indexTid v))) ∧
    (∀ l y, u.copyOf (clusterOf core) l = some y → y.tracked = true) ∧
    s.OthersStay u core (indexSlot v) (indexTid v)
  ends : ∀ w th, bits v.toNat 31 26 = 0 → indexCore v = core → bits v.toNat 25 24 = 2 → s.crew core (indexSlot v) = some w →
    w.threads.find (indexTid v) = some th → th.life = .trapped →
    (∀ x, u.crew core (indexSlot v) = some x → x.uid = w.uid ∧ ∀ n y, x.threads.find n = some y → y.life = .exited) ∧
    ∀ r ∈ (u.core core).queue, indexSlot r.index ≠ indexSlot v

/-- What a preempt word does (R256, R257): the crew has a request of this cycle, and its own request for resources leaves the grant
queue; or a request is cancelled, and every thread stopped by it goes on at its resume PC; else nothing. -/
structure State.PreemptDoes (s u : State) (core : Nat) (v : Word) : Prop where
  idle : (bits v.toNat 30 14 ≠ 0 ∨ Config.cores ≤ bits v.toNat 13 0 / 32 ∨ s.isleOfCore (bits v.toNat 13 0 / 32) ≠ s.isleOfCore core ∨
    s.crew (bits v.toNat 13 0 / 32) (bits v.toNat 13 0 % 32) = none ∨
    ∀ w, s.crew (bits v.toNat 13 0 / 32) (bits v.toNat 13 0 % 32) = some w → w.preempt.isSome = !bit v.toNat 31) → u = s
  asks : ∀ k j w, bits v.toNat 30 14 = 0 → bits v.toNat 13 0 = 32 * k + j → j < 32 → k < Config.cores →
    s.isleOfCore k = s.isleOfCore core → s.crew k j = some w → bit v.toNat 31 = false → w.preempt = none →
    u = { s with cores := u.cores } ∧ (∀ n, n ≠ k → u.core n = s.core n) ∧
    u.core k = { s.core k with crews := (u.core k).crews, grantQ := (s.core k).grantQ.filter (fun x => x != j) } ∧
    u.crew k j = some { w with preempt := some s.cycle } ∧ ∀ n, n ≠ j → u.crew k n = s.crew k n
  cancels : ∀ k j w x, bits v.toNat 30 14 = 0 → bits v.toNat 13 0 = 32 * k + j → j < 32 → k < Config.cores →
    s.isleOfCore k = s.isleOfCore core → s.crew k j = some w → bit v.toNat 31 = true → w.preempt = some x →
    (u.crew k j).map (fun y => y.preempt) = some none ∧ bit (u.core k).ctl.pready.toNat j = false ∧
    (u.core k).grantQ =
      (if w.request.isSome && !(s.core k).grantQ.contains j then (s.core k).grantQ ++ [j] else (s.core k).grantQ) ∧
    ∀ n th t, w.threads.find n = some th → th.trap = some t → ∃ y, u.thread k j n = some y ∧ y.regs = th.regs ∧
      (t.cause = causePreempt → y.life = .ready ∧ y.trap = none ∧ y.pc = t.rpc) ∧
      (t.cause ≠ causePreempt → y.life = th.life ∧ y.trap = th.trap ∧ y.pc = th.pc)

/-- What tmove asks for (R385): the crew's core holds one more request to move it; nothing where the words name no crew of the isle. -/
structure State.MoveAsked (s u : State) (core : Nat) (d a : Word) : Prop where
  idle : (bits d.toNat 31 14 ≠ 0 ∨ Config.cores ≤ d.toNat / 32 ∨ s.isleOfCore (d.toNat / 32) ≠ s.isleOfCore core ∨
    s.crew (d.toNat / 32) (d.toNat % 32) = none) → u = s
  asks : ∀ k j w, bits d.toNat 31 14 = 0 → d.toNat = 32 * k + j → j < 32 → k < Config.cores → s.isleOfCore k = s.isleOfCore core →
    s.crew k j = some w →
    u = { s with cores := u.cores } ∧ (∀ n, n ≠ k → u.core n = s.core n) ∧
    u.core k = { s.core k with moves := (s.core k).moves ++ [{ slot := j, uid := w.uid, task := w.task, dest := a.toNat }] }

/-- The header and the words of a microprogram can be read (R149, R254): the lines of both pass their checks, none is busy and none is
poisoned; the values read. -/
structure State.MicroReads (s : State) (core : Nat) (v : Viewer) (i : Instr) (a header x : Nat) : Prop where
  first : ∃ h0, s.checkBlock v (wantOf i 0 4 4 true false) (formAddr (v.seg 0) 0 4 a 0) 4 4 = .ok h0 ∧ s.hitsBusy h0 = false ∧
    s.poisonIn h0 = none ∧ (State.readHits core h0 s).2 = header
  whole : ∃ hits, s.checkBlock v (wantOf i 0 4 4 true false) (formAddr (v.seg 0) 0 (4 + 4 * bits header 17 12) a 0)
      (4 + 4 * bits header 17 12) 4 = .ok hits ∧ s.hitsBusy hits = false ∧ s.poisonIn hits = none ∧
    (State.readHits core hits (s.noteHits v hits)).2 = x

/-- The words of a microprogram after its header. -/
def microProgram (header x : Nat) : List Word := (List.range (bits header 17 12)).map (fun k => wordAt x (k + 1))

/-- What an mload does (R254): the entry has the range of the header, none for length 0, the other entries stay; the words stand in the
control store, the rest of which stays; no byte changes. -/
structure State.MicroLoaded (s u : State) (core : Nat) (entry : Word) (header x : Nat) : Prop where
  placed : FMap.get (0, 0) (u.core core).entries entry.toNat =
    (if bits header 17 12 = 0 then (0, 0) else (bits header 11 0, bits header 17 12))
  entries : ∀ n, n ≠ entry.toNat → FMap.get (0, 0) (u.core core).entries n = FMap.get (0, 0) (s.core core).entries n
  words : ∀ k, k < bits header 17 12 → FMap.get 0#32 (u.core core).cstore (bits header 11 0 + k) = wordAt x (k + 1)
  store : ∀ k, (k < bits header 11 0 ∨ bits header 11 0 + bits header 17 12 ≤ k) →
    FMap.get 0#32 (u.core core).cstore k = FMap.get 0#32 (s.core core).cstore k
  bytes : s.KeepsBytes u
  crews : ∀ k j, (u.crew k j).map Crew.unreserved = (s.crew k j).map Crew.unreserved

/-- An image's block of `n` bytes can be reached (R149, R258, R315): it passes its checks in the kernel space, at memory, no line busy. -/
structure State.ImageAt (s : State) (v : Viewer) (i : Instr) (va n : Nat) (wr : Bool) (l : List (Hit × Nat)) : Prop where
  passed : s.checkBlock v (imageWant i 256 wr) (imageForm v va n) n 256 = .ok l
  memory : ∀ x ∈ l, x.1.pa < hbmEnd
  free : s.hitsBusy l = false

/-- The lines of a block lie apart in memory, each as it lies among its virtual addresses (R310). -/
structure BlockPlaced (l : List (Hit × Nat)) : Prop where
  apart : (l.map (fun x => lineOf x.1.pa)).Nodup
  aligned : ∀ x ∈ l, x.1.pa % 128 = x.1.addr % 128

/-- The number that `n` bytes of a block hold, from a virtual address that lies with them in one of its lines. -/
def State.inBlock (s : State) (l : List (Hit × Nat)) (va n : Nat) : Option Nat := (hitAt l va).map (fun h => s.bytesIn .memory h.pa n)

/-- Only the status word of an image has changed (R258, R259). -/
structure State.StatusOnly (s u : State) (l : List (Hit × Nat)) (va n : Nat) : Prop where
  status : u.inBlock l va 4 = some n
  bytes : ∀ h, hitAt l va = some h → s.StoresBytes u .memory h.pa 4 n
  crews : ∀ k j, (u.crew k j).map Crew.unreserved = (s.crew k j).map Crew.unreserved
  saved : u.saved = s.saved

/-- Saving a crew writes nothing but its image (R258): no record of the core lies in the spill ring, no thread of the crew is parked on
a cell; its threads are numbered from 0 up, with no more registers than R13 gives. -/
structure State.Savable (s : State) (core : Nat) (w : Crew) : Prop where
  ring : (s.core core).ringCount = 0
  parks : ∀ t th pa, w.threads.find t = some th → th.parkOf ≠ some (.future pa)
  keys : (FMap.keys w.threads).Nodup ∧ ∀ t ∈ FMap.keys w.threads, t < w.size
  sizes : w.size ≤ 1024 ∧ w.nbase ≤ 64 ∧ w.grant.regs ≤ 4

/-- A crew has been saved (R258, R260): it has left its slot and stands among the saved ones with its image; the image's header and
every thread's PC, stack pointer and live registers are in its bytes, its status word is 0, the crew's pready bit is clear. -/
structure State.CrewSaved (s u : State) (core slot : Nat) (w : Crew) (l : List (Hit × Nat)) (va : Nat) : Prop where
  gone : u.crew core slot = none
  saved : u.saved = s.saved ++ [{ uid := w.uid, isle := w.isle, task := w.task, piece := w.piece, crewId := crewId core slot,
                                  image := va, stack := w.stack, kgo := w.kgo }]
  pready : bit (u.core core).ctl.pready.toNat slot = false
  status : u.inBlock l va 4 = some 0
  header : u.inBlock l (va + 4) 4 = some w.shape.toNat ∧ u.inBlock l (va + 8) 4 = some (crewId core slot) ∧
    u.inBlock l (va + 24) 4 = some w.size
  threads : ∀ t th, w.threads.find t = some th →
    u.inBlock l (va + 6144 + 640 * t + 36) 4 = some (th.blockPc ((w.argOf t th).map (fun x => x.2))).toNat ∧
    u.inBlock l (va + 6144 + 640 * t + 40) 4 = some th.sp.toNat ∧
    ∀ r ∈ w.regNums, th.life ≠ .exited → th.liveReg r = true →
      u.inBlock l (va + 6144 + 640 * t + 256 + 4 * r) 4 = some (th.reg r).toNat

/-- A crew has been restored (R259): it stands in the slot that its new id names, under its task and piece, with the image's shape and
grant at the place found for it; each thread has the registers that the image holds for it and zeros in the rest, every flag idle,
no latch; the status word is 8. -/
structure State.CrewRestored (s u : State) (core slot : Nat) (x : SavedCrew) (l : List (Hit × Nat)) (va spad acc : Nat) : Prop where
  crew : ∃ w, u.crew core slot = some w ∧ w.uid = x.uid ∧ w.task = x.task ∧ w.piece = x.piece ∧ w.isle = x.isle ∧
    w.shape = BitVec.ofNat 32 (s.getVa core l (va + 4) 4) ∧ w.grant = reqGrant (BitVec.ofNat 32 (s.getVa core l (va + 16) 4)) ∧
    w.spadBase = spad ∧ w.accBase = acc ∧ w.size = s.getVa core l (va + 24) 4
  threads : ∀ t, t < s.getVa core l (va + 24) 4 → ∃ y, u.thread core slot t = some y ∧ y.lvalid = 0#8 ∧ y.wdcount = 0 ∧
    (∀ k, k < 12 → y.idle k = true) ∧ y.sp = BitVec.ofNat 32 (s.getVa core l (va + 6144 + 640 * t + 40) 4) ∧
    ∀ r, r < 96 → y.reg r = if bit (s.getVa core l (va + 6144 + 640 * t + 48) 12) r = true
      then BitVec.ofNat 32 (s.getVa core l (va + 6144 + 640 * t + 256 + 4 * r) 4) else 0#32
  saved : ∀ y ∈ u.saved, y.uid ≠ x.uid
  status : u.inBlock l va 4 = some 8

/-- A scope-group entry is the 384 bits of a descriptor, limited to the cores of the isle (R333); the isle's others stay. -/
structure State.GroupWritten (s u : State) (isle n x : Nat) : Prop where
  bits : ∀ k, k < 384 → (FMap.get 0#384 (u.isle isle).groups n).getLsbD k = (bit x k && decide (k ∈ s.isleCores isle))
  others : ∀ m, m ≠ n → FMap.get 0#384 (u.isle isle).groups m = FMap.get 0#384 (s.isle isle).groups m

/-- No TLB of a core of the isle holds a translation of the extent, and the other translations stay (R327); nothing else changes. -/
structure State.TlbDropped (s u : State) (isle : Nat) (e : InvExtent) : Prop where
  rest : u = { s with cores := u.cores }
  here : ∀ k, s.isleOfCore k = some isle → u.core k =
    { s.core k with tlb := (s.core k).tlb.filter (fun t => !e.covers t), itlb := (s.core k).itlb.filter (fun t => !e.covers t) }
  there : ∀ k, s.isleOfCore k ≠ some isle → u.core k = s.core k

/-- The pair that atp delivers (R328): for a leaf its fields and the physical address, else the level where the walk stopped and whether
the entry there was malformed. -/
def AtpWord (w : Walk) (va : Nat) (x : DWord) : Prop :=
  match w with
  | .leaf t _ => bit x.toNat 63 = true ∧ bits x.toNat 62 61 = (match t.mode with | .dir => 0 | .selfInv => 1 | .uncached => 2) ∧
      bit x.toNat 60 = t.sc ∧ bits x.toNat 59 58 = t.sizeCode ∧ bits x.toNat 57 56 = t.level ∧ bit x.toNat 55 = false ∧
      bit x.toNat 54 = t.u ∧ bit x.toNat 53 = t.x ∧ bit x.toNat 52 = t.w ∧ bit x.toNat 51 = t.r ∧ bits x.toNat 50 48 = 0 ∧
      bits x.toNat 47 0 = t.pa va % 2 ^ 48
  | .absent level mal => bits x.toNat 63 58 = 0 ∧ bits x.toNat 57 56 = level % 4 ∧ bit x.toNat 55 = mal ∧ bits x.toNat 54 0 = 0

/-! ### What tasks and the fabric do (R356 to R364, R386, R415 to R422) -/

/-- Every crew is as it was, up to the reservations of its threads. -/
def State.SameCrews (s u : State) : Prop := ∀ k j, (u.crew k j).map Crew.unreserved = (s.crew k j).map Crew.unreserved

/-- A piece of a task has been placed on some of some cores (R174, R353, R357): as many as the entry has crews, each with a new crew of
the entry's shape in a slot that was free, its threads Ready at the entry's PC, the argument in r0 and r1 and the rest zero, sp at the top of its stack (R27); the piece
holds its range, the task has one more piece, and the crews that were there stay. -/
structure State.PiecePlaced (s u : State) (t : Task) (lo hi : Nat) (cores : List Nat) : Prop where
  crews : ∃ (l : List Nat) (piece spad : Nat), l.Sublist cores ∧ l.length = t.entry.crews ∧
    (∃ p, (u.domain t.isle t.die).pieces.find piece = some p ∧ p.task = t.id ∧ p.cur = lo ∧ p.hi = hi ∧ p.crews.length = t.entry.crews) ∧
    ∀ c ∈ l, ∃ slot w, s.crew c slot = none ∧ u.crew c slot = some w ∧ w.task = t.id ∧ w.piece = piece ∧ w.isle = t.isle ∧
      w.shape = t.entry.shape ∧ w.size = shThreads t.entry.shape ∧ w.spadBase = spad ∧ w.spadLen = shScratch t.entry.shape ∧
      ∀ k, k < shThreads t.entry.shape → ∃ y, u.thread c slot k = some y ∧ y.life = .ready ∧ y.pc = t.entry.pc ∧
        y.reg 0 = BitVec.ofNat 32 t.entry.argp ∧ y.reg 1 = BitVec.ofNat 32 (t.entry.argp >>> 32) ∧ (∀ n, 2 ≤ n → n ≠ 109 → y.reg n = 0#32) ∧
        y.sp = BitVec.ofNat 32 (segLimit (y.segs.getD 3 0#128) / 16 * 16)
  others : ∀ k j w, s.crew k j = some w → (u.crew k j).map Crew.unreserved = some w.unreserved
  task : (u.task t.id).map (fun x => x.pieces) = some (t.pieces + 1)

/-- A piece fits on some cores (R174, R353). -/
def State.Fits (s : State) (q : Queued) (t : Task) (cores : List Nat) : Prop :=
  s.task q.task = some t ∧ (s.placePiece t q.lo q.hi cores).isSome = true

/-- Some queued pieces are passed over (R357): none of them fits, none is overdue. -/
def State.PassedOver (s : State) (l : List Queued) (cores : Task → List Nat) : Prop :=
  ∀ x ∈ l, s.overdue x = false ∧ ∀ t, ¬s.Fits x t (cores t)

/-- A task stands in the domain that its id names, on a die of some cores (R354). -/
def Task.Homed (t : Task) (cores : List Nat) : Prop :=
  t.isle = taskIsle t.id ∧ t.die = taskDie t.id ∧ ∀ c ∈ cores, dieOfCore c = t.die

/-- A crew has been moved (R386): it has left its slot and stands in the first free slot of the core that it moves to, with its grant,
its threads where they were in the program, and the bytes of its scratchpad and accumulator ranges. -/
structure State.CrewMoved (s u : State) (core slot dest : Nat) (w : Crew) : Prop where
  gone : u.crew core slot = none
  seat : ∃ k x, s.freeSlot dest = some k ∧ u.crew dest k = some x ∧ x.uid = w.uid ∧ x.task = w.task ∧ x.piece = w.piece ∧
    x.shape = w.shape ∧ x.grant = w.grant ∧
    (∀ t th, w.threads.find t = some th → ∃ y, u.thread dest k t = some y ∧ y.regs = th.regs ∧ y.sp = th.sp ∧ y.pc = th.pc ∧
      y.life = th.life ∧ y.flags = th.flags ∧ y.lvalid = 0#8 ∧ y.rsv = none) ∧
    (∀ a, a < 4096 * (w.spadLen + w.grant.scratch) →
      u.byteIn (.pad (clusterOf dest)) (4096 * x.spadBase + a) = s.byteIn (.pad (clusterOf core)) (4096 * w.spadBase + a)) ∧
    ∀ a, a < 4096 * (w.accLen + w.grant.acc) →
      u.byteIn (.acc dest) (4096 * x.accBase + a) = s.byteIn (.acc core) (4096 * w.accBase + a)

/-- Where byte `k` of an extent of virtual addresses lies under some translations (R310): an engine takes one for each granule of 32. -/
def extentPa (pages : List Tlb) (va k : Nat) : Nat :=
  let a := max va ((va + k) / 32 * 32)
  (pageFor pages a).pa a + (va + k - a)

/-- The bytes of an extent lie apart, each as it lies in its granule. -/
structure ExtentPlaced (pages : List Tlb) (va n : Nat) : Prop where
  apart : ((List.range n).map (extentPa pages va)).Nodup
  aligned : ∀ k, k < n → extentPa pages va k % 32 = (va + k) % 32

/-- The bytes of an extent as they stand. -/
def State.ExtentHolds (u : State) (pages : List Tlb) (va : Nat) (bs : List Byte) : Prop :=
  ∀ k b, bs[k]? = some b → u.byteIn .memory (extentPa pages va k) = b.toNat

/-- An extent holds some bytes, and every other byte is as it was. -/
structure State.ExtentWritten (s u : State) (pages : List Tlb) (va : Nat) (bs : List Byte) : Prop where
  bytes : u.ExtentHolds pages va bs
  rest : ∀ p a, (p ≠ .memory ∨ ∀ k, k < bs.length → a ≠ extentPa pages va k) → u.byteIn p a = s.byteIn p a

/-- An extent of `n` bytes may be read or written at its target (R417, R421): the isle is not in reset, windows that grant it cover it,
every page of it is mapped so, and no home of it is busy. -/
structure State.TargetMay (s : State) (isle : Nat) (wins : FMap DWord) (va n : Nat) (rd wr : Bool) (ok : Grants → Bool)
    (parts : List (Nat × Nat)) (pages : List Tlb) : Prop where
  up : (s.isle isle).inReset = false
  inside : inWindows wins ok va n = true
  mapped : s.remotePages isle va n rd wr = some pages
  free : s.partsWait pages parts wr = none
  placed : ExtentPlaced pages va n

/-- A 16-byte counter has been counted up, unless it is poisoned (R421). -/
def State.Counted (s u : State) (pa n refused : Nat) : Prop :=
  u.bytesIn .memory pa 16 = counterNext (s.bytesIn .memory pa 16) n refused false ∨ u.bytesIn .memory pa 16 = s.bytesIn .memory pa 16

/-- What a contribution does to its generation (R422): nothing while its member's earlier one waits there; it is entered; or it ends the
generation, which closes and whose operations of this package are over. The last one complete writes the combination of all
contributions, along a tree that the spec leaves free, to the result extents. -/
structure State.Contributes (s : State) (e : Instr) (g : Nat) (gen : Word) (limit : Nat) (c : Contrib) (x y : Gather) (fs : List FabOp) :
    Prop where
  waits : (∃ d ∈ x.got, d.member = c.member) → Sys2Proof.Machine.exec e s = .next s
  enters : (∀ d ∈ x.got, d.member ≠ c.member ∧ d.sub = c.sub ∧ d.len = c.len) → s.gathered y = false →
    ∃ u, Sys2Proof.Machine.exec e s = .next u ∧ s.KeepsBytes u ∧ (u.reduction g).closed = (s.reduction g).closed ∧
      (u.reduction g).pending.find gen.toNat = some y ∧
      ∀ id, c.own = some id → u.fabs = s.fabs.map (fun f => if f.id = id then { f with contributed := true } else f)
  differs : (∀ d ∈ x.got, d.member ≠ c.member) → (∃ d ∈ x.got, d.sub ≠ c.sub ∨ d.len ≠ c.len) → s.endWaits fs none = none →
    ∃ u, Sys2Proof.Machine.exec e s = .next u ∧ (u.reduction g).closed = gen ∧ (u.reduction g).pending.find gen.toNat = none ∧
      ∀ f ∈ fs, u.fab f.id = none
  ends : (∀ d ∈ x.got, d.member ≠ c.member ∧ d.sub = c.sub ∧ d.len = c.len) → s.gathered y = true →
    s.endWaits fs (some c.len) = none →
    ∃ u, Sys2Proof.Machine.exec e s = .next u ∧ (u.reduction g).closed = gen ∧ (u.reduction g).pending.find gen.toNat = none ∧
      (∀ f ∈ fs, u.fab f.id = none) ∧
      ∀ f, fs = [f] → ExtentPlaced f.rpages f.desc.raddr c.len → f.counter % 128 + 16 ≤ 128 →
        (∀ k, k < c.len → ∀ j, j < 16 → extentPa f.rpages f.desc.raddr k ≠ f.counter + j) →
        s.Counted u f.counter 1 0 ∧
        ∀ k b, k < c.len → (combineTree g gen c.sub (c.len / 4) y.got.length (y.got.map (fun d => d.data)))[k]? = some b →
          u.byteIn .memory (extentPa f.rpages f.desc.raddr k) = b.val.toNat

end Sys2Proof.Machine
end

