-- ==== Sys2Proof/Certificates/Slice0/Obligations.lean ====
section
/-! DEFINITION. The statements of this row for the provers, family by family. Each docstring names the rules that it
formalises; a value or reading that is the model's own choice is named with its log entry. -/

open Sys2Proof Sys2Proof.Machine

/-! ### The instruction word -/

/-- Words written out from the encodings of R38 to R68 decode to the instructions they stand for: `addi v7, v7, -1`,
`brk 0x123`, `exit`, `yield` and `call 0x10` with the words the spec gives them, `sel`, `cmp.lt.u.nw`, `ld.w`, `st.d`,
`pst.w` to a core, `fence`, `sys`, `ctlr`, `bar.sync`, a `sched` and an `imm` hint, and no instruction for a word of class 101
with a reserved op. -/
def Obligations.WordsDecode : Prop :=
  decodeThread 0x420E1FFF#32 = some (.addi false 7#7 7#7 0x3FF#10) ∧
  decodeThread 0xB2000123#32 = some (.brk 0x123#18) ∧
  decodeThread 0xAE000000#32 = some .exit ∧
  decodeThread 0xB0000000#32 = some .yield ∧
  decodeThread 0xA8000010#32 = some (.call 0x10#25) ∧
  decodeThread (0b000#3 ++ 0b0101100#7 ++ 0#1 ++ 3#7 ++ 4#7 ++ 5#7) = some (.sel false 3#7 4#7 5#7) ∧
  decodeThread (0b000#3 ++ 0b0111000#7 ++ 1#1 ++ 8#7 ++ 4#7 ++ 5#7) = some (.cmpLtU true 8#7 4#7 5#7) ∧
  decodeThread (0b001#3 ++ 0b0000011#7 ++ 0#1 ++ 9#7 ++ 10#7 ++ 11#7) = some (.ffma false 9#7 10#7 11#7) ∧
  decodeThread (0b011#3 ++ 0b00000#5 ++ 1#3 ++ 15#4 ++ 8#7 ++ 4#7 ++ 4#3) = some (.ld 1#3 15#4 8#7 4#7 .w) ∧
  decodeThread (0b011#3 ++ 0b00001#5 ++ 0#3 ++ 2#4 ++ 6#7 ++ 2#7 ++ 5#3) = some (.st 0#3 2#4 6#7 2#7 .d) ∧
  decodeThread (0b100#3 ++ 0b001100#6 ++ 15#4 ++ 8#7 ++ 4#7 ++ 3#5) = some (.pstWCore 15#4 8#7 4#7 3#5) ∧
  decodeThread (0b100#3 ++ 0b101111#6 ++ 15#4 ++ 0#7 ++ 0b1100000#7 ++ 4#5) = some (.fence .sc 4#5) ∧
  decodeThread (0b110#3 ++ 0b000000#6 ++ 0#7 ++ 0#7 ++ 7#9) = some (.sys 7#9) ∧
  decodeThread (0b110#3 ++ 0b000010#6 ++ 8#7 ++ 0#7 ++ 0x002#9) = some (.ctlr 8#7 0x002#9) ∧
  decodeThread (0b110#3 ++ 0b010111#6 ++ 0#7 ++ 0#7 ++ 5#9) = some (.barSync 5#7) ∧
  decodeThread (0b111#3 ++ 0b000#3 ++ 1#12 ++ 1#1 ++ 0#1 ++ 3#3 ++ 2#3 ++ 1#3 ++ 0#3) =
    some (.sched 1#12 true false 3#3 2#3 1#3 0#3) ∧
  decodeThread (0b111#3 ++ 0b001#3 ++ 77#26) = some (.imm 77#26) ∧
  decodeThread (0b101#3 ++ 15#4 ++ 0#25) = none

/-- Decoding and encoding agree (R38 to R69, R235): for every instruction with an encoding, with every operand at every value
that the encoding admits, a thread's decoder and a beacon lane's decoder read the encoded word back. -/
def Obligations.DecodeEncode : Prop :=
  ∀ i : Instr, i.hasWord = true →
    (i.wfThread = true → decodeThread (encode i) = some i) ∧ (i.wfLane = true → decodeLane (encode i) = some i)

/-- What a decoder answers is well-formed: every operand code is one that its kind accepts (R40, R235), so a pair's register is
even and a quad's a multiple of four, flags and selectors are in range; a lane executes what R236 lists. -/
def Obligations.DecodedWellFormed : Prop :=
  ∀ (w : Word) (i : Instr),
    (decodeThread w = some i → i.selectorsOk = true ∧ ∀ u ∈ i.opnds, u.kind.threadOk u.code = true ∧
      ((u.kind = .pd ∨ u.kind = .ps) → u.code.toNat % 2 = 0) ∧ (u.kind = .q → u.code.toNat % 4 = 0)) ∧
    (decodeLane w = some i → i.onLane = true ∧ i.selectorsOk = true ∧ ∀ u ∈ i.opnds, u.kind.laneOk u.code = true)

/-! ### Steps -/

/-- A step runs the decoded instruction (R9, R11, R42, R117, R182, R235, R242). When the act at hand is a core's issue, the picker
chooses a gang, and the word fetched at the members' PC decodes, the step is that instruction executed by that gang; before it
the waiting ages, the TLB of the fetch and the lanes' divide units are noted. The same for a word in a thread's hint slot and
for a beacon lane outside the boot ROM's code with no interrupt to take; a lane with one takes it at that boundary; an event is
executed as it is. That the lanes' divide units
are taken before the instruction's trap checks, which R117 leaves open, is the model's choice (log 103), and so is the order of the acts
of a cycle (log 5). -/
def Obligations.StepRunsDecoded : Prop :=
  ∀ (s : State) (rest : List Act) (i : Instr),
    let s0 := { s with agenda := rest }
    (∀ core g c th h, s.agenda = .gang core :: rest → s0.pick core = some g → s0.gangHead core g = some (c, th) →
      th.mac = none → s0.fetchHit (s0.viewer c th) th.pc = .ok h →
      decodeThread (BitVec.ofNat 32 (s0.fetchData core h).1) = some i →
      step s = exec i { (((s0.noteDecision core (some g)).noteFetch c th).noteDivide core g.tids i) with
        acting := .gang core g.slot g.tids g.gsize }) ∧
    (∀ core slot tid w th h, s.agenda = .hint core slot tid :: rest → s0.hintDue core slot tid = true →
      s0.crew core slot = some w → w.threads.find tid = some th →
      s0.fetchHit (s0.viewer (s0.ctx core slot w 1 tid) th) th.pc = .ok h →
      decodeThread (BitVec.ofNat 32 (s0.fetchData core h).1) = some i →
      step s = exec i { s0.noteFetch (s0.ctx core slot w 1 tid) th with acting := .gang core slot [tid] 1 }) ∧
    (∀ core w, s.agenda = .lane core :: rest → s0.laneRuns core = true → s0.interruptDue core = false →
      s0.inRom core = false → s0.laneWord core = .ok w → decodeLane w = some i →
      step s = exec i { s0.fetched (s0.laneViewer core) (s0.core core).lane.pc with acting := .lane core }) ∧
    (∀ core, s.agenda = .lane core :: rest → s0.laneRuns core = true → s0.interruptDue core = true →
      step s = exec (.interruptEntry core) s0) ∧
    (s.agenda = .event i :: rest → step s = exec i { s0 with acting := .none })

/-- A word that is no instruction (R69): a step that fetches one executes the ILLEGAL meaning of that very word.
A fetch that traps (R11, R149, R169): every Ready member of the chosen gang takes that trap at its own PC, and nothing is
executed. -/
def Obligations.StepTraps : Prop :=
  (∀ (s : State) (rest : List Act) (core : Nat) (g : Gang) (c : Ctx) (th : Thread) (h : Hit),
    let s0 := { s with agenda := rest }
    s.agenda = .gang core :: rest → s0.pick core = some g → s0.gangHead core g = some (c, th) → th.mac = none →
    s0.fetchHit (s0.viewer c th) th.pc = .ok h → decodeThread (BitVec.ofNat 32 (s0.fetchData core h).1) = none →
    step s = exec (.illegalWord (BitVec.ofNat 32 (s0.fetchData core h).1))
      { ((s0.noteDecision core (some g)).noteFetch c th) with acting := .gang core g.slot g.tids g.gsize }) ∧
  (∀ (s : State) (rest : List Act) (core : Nat) (g : Gang) (c : Ctx) (th : Thread) (r : Raise) (w : Crew),
    let s0 := { s with agenda := rest }
    s.agenda = .gang core :: rest → s0.pick core = some g → s0.gangHead core g = some (c, th) → th.mac = none →
    s0.fetchHit (s0.viewer c th) th.pc = .error r → s0.crew core g.slot = some w →
    ∃ u, step s = .next u ∧ u.mem = s.mem ∧
      u.ops.map (fun o => { o with reply := none }) = s.ops.map (fun o => { o with reply := none }) ∧
      ∀ t ∈ g.tids, ∀ x, w.threads.find t = some x → x.life = .ready →
        ∃ y, u.thread core g.slot t = some y ∧ y.life = .trapped ∧ (∀ n, y.reg n = x.reg n) ∧
          ∃ z, y.trap = some z ∧ z.cause = r.cause ∧ z.tpc = x.pcOf)

/-- A step keeps memory in its canonical form: addresses strictly rising, no entry that reads as an unlisted address does
(R4; the form is the model's own, log 1). From every state whose memory has the form, whatever instruction or event the step
runs. -/
def Obligations.MemoryStaysCanonical : Prop :=
  ∀ s t : State, s.mem.wf = true → step s = .next t → t.mem.wf = true

/-! ### Reset -/

/-- What package reset leaves, where the spec gives it (R57, R189, R234, R239, R246, R285, R316, R407, R411): every beacon lane in M
mode at word 0 of the boot ROM with the code segment of R411, its b registers and sp zero, no crew resident, each entry of the
control store's table not loaded, each named barrier disarmed in phase 0, each control register at the value of R246, each pts 0,
each permit invalid, no isle configured.
The memories of the reset state are in their canonical form and list nothing (R270, R408; for HBM log 1). -/
def Obligations.Reset : Prop :=
  (let s := State.reset
  s.cycle = 0 ∧
  (∀ k, (s.core k).lane.mode = .m ∧ (s.core k).lane.pc = 0 ∧
    segBase ((s.core k).lane.segs.getD 5 0#128) = 0x007000000000 ∧ segLimit ((s.core k).lane.segs.getD 5 0#128) = 0x10000 ∧
    (∀ n, n < 8 → n ≠ 5 → segBase ((s.core k).lane.segs.getD n 0#128) = 0 ∧
      segLimit ((s.core k).lane.segs.getD n 0#128) = 0xFFFFFFFFFFFF) ∧
    (s.core k).lane.bstat = 2#64 ∧ (s.core k).lane.bepc = 0 ∧ (s.core k).lane.bcause = 0 ∧ (s.core k).lane.bfault = 0 ∧
    (s.core k).lane.bdetail = 0 ∧ (s.core k).lane.bvec = 0 ∧ (s.core k).lane.ipend = 0 ∧ (s.core k).lane.ienable = 0 ∧
    (s.core k).lane.timecmp = 0xFFFFFFFFFFFFFFFF#64 ∧ (∀ n, FMap.get 0#64 (s.core k).lane.ipivec n = 0) ∧
    (s.core k).lane.mepc = 0 ∧ (s.core k).lane.mcause = 0 ∧ (s.core k).lane.mstat = 0 ∧ (s.core k).lane.mvec = 0 ∧
    (s.core k).lane.ubind = 0xFFFFFFFF#32 ∧ (s.core k).lane.rsv = none ∧
    (∀ n, (s.core k).lane.breg n = 0#64) ∧ (s.core k).lane.sp = 0#32 ∧
    (∀ n, FMap.get (0, 0) (s.core k).entries n = (0, 0)) ∧
    ∀ n, (s.barrier k n).gen = 0#16 ∧ (s.barrier k n).expected = 0 ∧ (s.barrier k n).armed = false ∧ (s.barrier k n).arrived = 0) ∧
  (∀ k, (s.core k).crews = [] ∧ (s.core k).ctl.wdlimit = 0x01000000#32 ∧ (s.core k).ctl.dedup = false ∧
    (s.core k).ctl.thresh = 1 ∧ (s.core k).ctl.ovf = false ∧ (s.core k).ctl.qspill = 0 ∧ (s.core k).ctl.qspilln = 0 ∧
    (s.core k).ctl.qbatch = 32 ∧ (s.core k).ctl.kstack = 4096#32 ∧ (s.core k).ctl.slice = 0 ∧ (s.core k).ctl.sliceexp = 0 ∧
    (s.core k).ctl.pready = 0 ∧ (s.core k).ctl.kdone = 0 ∧ (s.core k).ctl.fot = false ∧ (s.core k).ctl.dbgstat = 0 ∧
    (s.core k).queue = [] ∧ (s.core k).ringCount = 0 ∧ (s.core k).held = [] ∧ (s.core k).pts = 0#24) ∧
  (∀ n, (s.cluster n).quota = 512 ∧ (∀ p, (FMap.get Permit.blank (s.cluster n).permits p).armed = false)) ∧
  (∀ n, (s.isle n).clus = 0#96 ∧ (∀ m ∈ (s.isle n).mems, m = 0#64) ∧ (s.isle n).redtimeout = 0x04000000#32 ∧
    (s.isle n).resets = 0) ∧
  Thread.blank.ubind = 0xFFFFFFFF#32 ∧ Thread.blank.pushref = 0#32 ∧ Thread.blank.wdcount = 0) ∧
  (State.reset.mem.wf = true ∧ (∀ a, State.reset.mem.read a = Memory.blank) ∧
    (∀ n, (State.reset.cluster n).spad.wf = true ∧ ∀ a, (State.reset.cluster n).spad.read a = 0#8) ∧
    ∀ k, (State.reset.core k).acc.wf = true)

/-! ### Bytes -/

/-- Bits are numbered from 0 at the least significant end and the N4 is little-endian (R4): of a number written over `n`
bytes the byte at the lowest address holds bits [7:0], the byte `k` above it bits [8k+7:8k], no other byte changes, and the
number is read back. -/
def Obligations.LittleEndian : Prop :=
  ∀ (m : Memory) (a n x : Nat),
    (∀ k, k < n → (m.writeNat a n x).read (a + k) = BitVec.ofNat 8 (bits x (8 * k + 7) (8 * k))) ∧
    (∀ c, (c < a ∨ a + n ≤ c) → (m.writeNat a n x).read c = m.read c) ∧
    (m.writeNat a n x).readNat a n = x % 2 ^ (8 * n) ∧ (m.wf = true → (m.writeNat a n x).wf = true)

/-- A register pair (R6): the even register holds bits [31:0] of the 64-bit value and the odd register bits [63:32], as a
thread reads a pair of its registers when no result distance is open, and as a 64-bit result is written; and no decoded
instruction names an odd register for a pair. -/
def Obligations.RegisterPairs : Prop :=
  (∀ (th : Thread) (c : Ctx) (o : Opnd), o.toNat < 96 → o.toNat % 2 = 0 → th.shadows = [] →
    BitVec.extractLsb' 0 32 (th.readP c o) = th.reg o.toNat ∧
      BitVec.extractLsb' 32 32 (th.readP c o) = th.reg (o.toNat + 1)) ∧
  (∀ (th : Thread) (c : Ctx) (k : Nat) (d : Opnd) (v : DWord),
    (th.writeResult c k false d (.p v)).reg d.toNat = BitVec.extractLsb' 0 32 v ∧
      (th.writeResult c k false d (.p v)).reg (d.toNat + 1) = BitVec.extractLsb' 32 32 v) ∧
  (∀ (w : Word) (i : Instr) (u : OpndUse), decodeThread w = some i → u ∈ i.opnds → u.code.toNat < 96 →
    (u.kind = .ps ∨ u.kind = .pd) → u.code.toNat % 2 = 0)

/-- A register is allocated when it lies in the base set or in the crew's current grant (R13); an instruction that names an
unallocated register raises REG, before any other trap of its operands.
A source that names a latch whose valid bit is clear raises LATCH, when every register named is allocated (R17, R167): the detail
is a latch that the instruction names. The thread of a gang of one takes the trap, where its hints, its privilege, its segments'
S bits and its control register are no cause of an earlier one; nothing but the thread changes. -/
def Obligations.OperandTraps : Prop :=
  (∀ (s : State) (core slot gsize tid r : Nat) (w : Crew),
    (s.ctx core slot w gsize tid).allocated r = true ↔ (r < w.nbase ∨ (64 ≤ r ∧ r < 64 + 8 * w.grant.regs))) ∧
  (∀ (c : Ctx) (i : Instr) (th : Thread) (u : OpndUse), u ∈ i.opnds →
    (∀ r, r ∈ useRegs u → c.allocated r = false →
      ∃ x, operandTrap c i.opnds th = some x ∧ x.cause = causeReg ∧ x.fault = 0 ∧
        ∃ v ∈ i.opnds, x.detail = v.code.toNat ∧ ∃ n ∈ useRegs v, c.allocated n = false) ∧
    (∀ k, (∀ v ∈ i.opnds, ∀ r ∈ useRegs v, c.allocated r = true) → k ∈ useLatches u → bit th.lvalid.toNat k = false →
      ∃ x, operandTrap c i.opnds th = some x ∧ x.cause = causeLatch ∧ x.fault = 0 ∧ bit th.lvalid.toNat x.detail = false ∧
        ∃ v ∈ i.opnds, x.detail ∈ useLatches v)) ∧
  (∀ (s : State) (i : Instr) (core slot tid gsize : Nat) (w : Crew) (th : Thread) (u : OpndUse),
    let c := s.ctx core slot w gsize tid
    s.Solo core slot tid gsize w th → th.mac = none → badBind i th.bind = false → Allowed w.super i →
    (∀ k, segS (th.segs.getD k 0#128) = false) → (∀ d n, i = .ctlr d n ∨ i = .ctlw d n → ctlWho n.toNat = some .any) →
    u ∈ i.opnds →
    (∀ r, r ∈ useRegs u → c.allocated r = false → ∃ t y v, exec i s = .next t ∧ s.OneThread t core slot tid w ∧
      t.thread core slot tid = some y ∧ v ∈ i.opnds ∧ (∃ n ∈ useRegs v, c.allocated n = false) ∧
      th.Traps y i s.cycle causeReg v.code.toNat) ∧
    (∀ k, (∀ v ∈ i.opnds, ∀ r ∈ useRegs v, c.allocated r = true) → k ∈ useLatches u →
      bit (th.openWin s.cycle).lvalid.toNat k = false → ∃ t y v n, exec i s = .next t ∧ s.OneThread t core slot tid w ∧
      t.thread core slot tid = some y ∧ v ∈ i.opnds ∧ n ∈ useLatches v ∧ bit (th.openWin s.cycle).lvalid.toNat n = false ∧
      th.Traps y i s.cycle causeLatch n))

/-! ### The R, F and I classes -/

/-- The integer instructions (R114, R118 to R127), for a gang of any size and every operand: each of the fifty answers a next
state in which every member holds the result of the rule's table or pseudocode in its destination and its latches, and nothing
else has changed. -/
def Obligations.IntegerResults : Prop :=
  ∀ (s : State) (i : Instr) (core slot gsize : Nat) (tids : List Nat) (w : Crew),
    s.GangFits i core slot tids gsize w → (∀ r, intForm i r ≠ none) →
    ∃ u, exec i s = .next u ∧ s.Computes u core slot tids gsize w (fun c th => intForm i (th.reads c))

/-- The immediate instructions (R114, R128), for a gang of any size: the R-class effect with the immediate that R128 forms. -/
def Obligations.ImmediateResults : Prop :=
  ∀ (s : State) (i : Instr) (core slot gsize : Nat) (tids : List Nat) (w : Crew),
    s.GangFits i core slot tids gsize w → (∀ r v, immForm i r v ≠ none) →
    ∃ u, exec i s = .next u ∧
      s.Computes u core slot tids gsize w (fun c th => immForm i (th.reads c) (immValue th.bind))

/-- The float instructions (R114, R129 to R141, R111), for a gang of any size: each answers a next state in which every member
holds the delivered value under the fields of its mod hint; the approximated functions deliver a value that the spec leaves
open (log 7). -/
def Obligations.FloatResults : Prop :=
  ∀ (s : State) (i : Instr) (core slot gsize : Nat) (tids : List Nat) (w : Crew),
    s.GangFits i core slot tids gsize w → (∀ r, floatForm i r ≠ none) →
    ∃ u, exec i s = .next u ∧ s.Computes u core slot tids gsize w (fun c th => floatForm i (th.reads c))

/-- The integer and immediate instructions on a beacon lane (R235, R236): the same results in the b registers, 32-bit ones
extended with zeros. -/
def Obligations.LaneResults : Prop :=
  ∀ (s : State) (i : Instr) (core : Nat), s.LaneRuns core i →
    ((∀ r, intForm i r ≠ none) → ∃ u, exec i s = .next u ∧
      s.LaneComputes u core (fun l => intForm i (l.reads core (s.coreCycle core) (s.core core).pts))) ∧
    ((∀ r v, immForm i r v ≠ none) → ∃ u, exec i s = .next u ∧
      s.LaneComputes u core (fun l => immForm i (l.reads core (s.coreCycle core) (s.core core).pts) (immValue l.bind)))

/-! ### Memory at issue -/

/-- Loads, stores and atomics are accepted (R148 to R156, R343, R344): an access of any size and space whose segment, alignment,
page and permissions R149 passes answers a next state with one more operation in flight, of the physical address, the size, the
destination and the data that the form gives, under the flag it names. No byte of any memory and no register has changed yet; a
walk for the address may have filled the TLB and dropped leased lines (R325). -/
def Obligations.AccessAccepted : Prop :=
  ∀ (s : State) (i : Instr) (core slot tid gsize : Nat) (w : Crew) (th : Thread) (f : AccForm) (h : Hit),
    accForm i = some f → s.Solo core slot tid gsize w th → Fits (s.ctx core slot w gsize tid) i th →
    s.Reaches (s.ctx core slot w gsize tid) th (wantOf i f.seg f.n f.code f.rd f.wr)
      (th.form (s.ctx core slot w gsize tid) (wantOf i f.seg f.n f.code f.rd f.wr) f.a) h →
    ∃ s1 u o, exec i s = .next u ∧ s.Walks s1 core ∧ s1.Accepts u core slot tid w th f.flag (if f.clears then none else th.rsv) o ∧
      o.kind = f.kind ∧ o.space = f.seg ∧ o.addr = h.pa ∧ o.n = f.n ∧ o.dst = f.dst ∧
      o.data = f.data (s.ctx core slot w gsize tid) th

/-- Reads of a beacon lane (R152, R156, R235, R237, R343): `ld`, `ldx` and `ld.acq` of any space and size deliver the bytes as
they stand, extended as the size says; `ldx` takes the reservation. No byte of any memory changes. That the
upper halves of the four registers of a quad load become zero is the model's choice (log 34). -/
def Obligations.LaneLoads : Prop :=
  ∀ (s : State) (i : Instr) (core : Nat) (f : AccForm) (h : Hit),
    accForm i = some f → f.rd = true → f.wr = false → (f.n = 16 → f.dst ≤ 28) → s.LaneRuns core i →
    s.LaneReaches core (wantOf i f.seg f.n f.code f.rd f.wr)
      ((s.core core).lane.form core (s.coreCycle core) (s.core core).pts (wantOf i f.seg f.n f.code f.rd f.wr) f.a) h →
    s.LaneClean core (wantOf i f.seg f.n f.code f.rd f.wr) h →
    ∃ u, exec i s = .next u ∧ s.LaneOnly u core ∧ s.KeepsBytes u ∧
      LaneLoaded (s.core core).lane (u.core core).lane f.size (BitVec.ofNat 7 f.dst)
        (s.bytesIn (placeOf core f.seg) h.pa f.n) ∧
      (u.core core).lane = { (s.core core).lane with
        b := (u.core core).lane.b, sp := (u.core core).lane.sp, pc := (s.core core).lane.pc + 1, bind := none,
        rsv := if f.clears then some ⟨h.pa, h.addr, f.n⟩ else (s.core core).lane.rsv }

/-- Stores of a beacon lane (R153, R235, R237, R343): `st` and `st.rel` of any space and size change exactly the bytes stored,
and no register.
`stx` of a beacon lane (R156, R235, R237): with the reservation of exactly these bytes it stores and delivers 0; without it
stores nothing and delivers 1; either way no reservation is left. A pair's high half stays. -/
def Obligations.LaneStores : Prop :=
  (∀ (s : State) (i : Instr) (core : Nat) (f : AccForm) (h : Hit),
    accForm i = some f → (f.kind = .st ∨ f.kind = .stRel) → s.LaneRuns core i →
    s.LaneReaches core (wantOf i f.seg f.n f.code f.rd f.wr)
      ((s.core core).lane.form core (s.coreCycle core) (s.core core).pts (wantOf i f.seg f.n f.code f.rd f.wr) f.a) h →
    h.inLine (s.laneViewer core).mmode (wantOf i f.seg f.n f.code f.rd f.wr) →
    ∃ u, exec i s = .next u ∧ s.LaneOnly u core ∧
      s.StoresBytes u (placeOf core f.seg) h.pa f.n
        (laneData (s.core core).lane core (s.coreCycle core) (s.core core).pts f.n (storeReg i)) ∧
      { (u.core core).lane with rsv := none } =
        { (s.core core).lane with pc := (s.core core).lane.pc + 1, bind := none, rsv := none }) ∧
  (∀ (s : State) (core : Nat) (seg : BitVec 3) (flag : BitVec 4) (d a : Opnd) (size : XSize) (h : Hit),
    let i := Instr.stx seg flag d a size
    let n := xBytes size
    let w := wantOf i seg.toNat n size.code.toNat false true
    let l := (s.core core).lane
    let held := l.rsv = some ⟨h.pa, h.addr, n⟩
    let res (v : Word) : Res := if size = .d then .p (hi32 (l.readP d) ++ v) else .w v
    (size = .d → d.toNat < 32) → s.LaneRuns core i →
    s.LaneReaches core w (l.form core (s.coreCycle core) (s.core core).pts w a) h → h.inLine (s.laneViewer core).mmode w →
    ∃ u, exec i s = .next u ∧ s.LaneOnly u core ∧
      (held → s.StoresBytes u (placeOf core seg.toNat) h.pa n (laneData l core (s.coreCycle core) (s.core core).pts n d) ∧
        LaneAfter l (u.core core).lane false d (res 0#32)) ∧
      (¬held → s.KeepsBytes u ∧ LaneAfter l (u.core core).lane false d (res 1#32)) ∧
      (u.core core).lane = { l with b := (u.core core).lane.b, sp := (u.core core).lane.sp, pc := l.pc + 1, bind := none, rsv := none })

/-- Atomics of a beacon lane (R237, R309, R344), each of the thirteen: the old word is delivered, and the new one stored where
the function writes one; a pair's high half stays. -/
def Obligations.LaneAtomics : Prop :=
  ∀ (s : State) (i : Instr) (core : Nat) (f : AccForm) (fn : AtomFn) (acq rel : Bool) (h : Hit),
    let w := wantOf i f.seg f.n f.code f.rd f.wr
    let l := (s.core core).lane
    let p : Opnd := BitVec.ofNat 7 f.dst
    let old := BitVec.ofNat 32 (s.bytesIn .memory h.pa 4)
    accForm i = some f → f.kind = .atom fn acq rel → f.dst < 32 → s.LaneRuns core i →
    s.LaneReaches core w (l.form core (s.coreCycle core) (s.core core).pts w f.a) h → h.inLine (s.laneViewer core).mmode w → s.LaneClean core w h →
    ∃ u, exec i s = .next u ∧ s.LaneOnly u core ∧
      (match atomResult fn old (lo32 (l.readP p)) (hi32 (l.readP p)) with
       | some y => s.StoresBytes u .memory h.pa 4 y.toNat
       | none => s.KeepsBytes u) ∧
      LaneAfter l (u.core core).lane false p (if fn = .cas then .p (hi32 (l.readP p) ++ old) else .w old) ∧
      { (u.core core).lane with rsv := none } =
        { l with b := (u.core core).lane.b, sp := (u.core core).lane.sp, pc := l.pc + 1, bind := none, rsv := none }

/-- A write at a home changes exactly its bytes (R309, R313, R315, R318, R320), in every coherence mode: whatever copies are
recalled or dropped and whatever lines leave the L2 for it, every other byte of memory reads as before.
A read at a home delivers the bytes as they stand, the owner's copy first (R309, R313, R318), and changes no byte. -/
def Obligations.HomeBytes : Prop :=
  (∀ (s : State) (core pa n v bad : Nat) (m : CMode) (keep : List Nat), pa % 128 + n ≤ 128 →
    ∀ a, (s.writeHome core m pa n v bad keep).peekNat a 1 =
      if pa ≤ a ∧ a < pa + n then bits v (8 * (a - pa) + 7) (8 * (a - pa)) else s.peekNat a 1) ∧
  (∀ (s : State) (core lease pa n : Nat) (m : CMode), pa % 128 + n ≤ 128 →
    (s.readHome core m lease pa n).2.1 = s.bytesIn .memory pa n ∧
      ∀ a, (s.readHome core m lease pa n).1.peekNat a 1 = s.peekNat a 1)

/-! ### Other instructions of the M class -/

/-- `pf` (R157), `lea` (R158), `segq` (R159) and `segld` (R160) of a thread: nothing but that a line may come nearer and a
translation be taken; the formed address in a pair; a word of a
segment register; a segment register from four registers, with the bits that R22 forces. No operation starts.
The same four on a beacon lane (R157 to R160, R235, R236), exactly. -/
def Obligations.SegmentOps : Prop :=
  (∀ (s : State) (core slot tid gsize : Nat) (w : Crew) (th : Thread) (seg : BitVec 3) (d a : Opnd) (k : BitVec 2),
    let c := s.ctx core slot w gsize tid
    s.Solo core slot tid gsize w th →
    (Fits c (.pf seg a) th → ∃ s1 u, exec (.pf seg a) s = .next u ∧ (s.opened core slot tid).CachesOnly s1 ∧
      s1.Issues u core slot tid Thread.Passed) ∧
    (Fits c (.lea seg d a) th → (s.viewer c th).sRefuses (wantOf (.lea seg d a) seg.toNat 1 0 false false) = false →
      ∃ u y, exec (.lea seg d a) s = .next u ∧ s.OneThread u core slot tid w ∧ u.thread core slot tid = some y ∧
        th.Wrote y d (.p (BitVec.ofNat 64 (th.form c (wantOf (.lea seg d a) seg.toNat 1 0 false false) a).addr))) ∧
    (Fits c (.segq seg d k) th → ∃ u y, exec (.segq seg d k) s = .next u ∧ s.OneThread u core slot tid w ∧
      u.thread core slot tid = some y ∧
      th.Wrote y d (.w (BitVec.extractLsb' (32 * k.toNat) 32 (th.segs.getD seg.toNat 0#128)))) ∧
    (Fits c (.segld seg d) th → ∃ u y, exec (.segld seg d) s = .next u ∧ s.OneThread u core slot tid w ∧
      u.thread core slot tid = some y ∧ th.PastIt y ∧
      ({ th with segs := setAt th.segs seg.toNat (forceSeg seg.toNat (th.readQ c d)) } : Thread).Accounted y)) ∧
  (∀ (s : State) (core : Nat) (seg : BitVec 3) (d a : Opnd) (k : BitVec 2),
    let l := (s.core core).lane
    let past (f : Lane → Lane) := s.onLane core (fun x => { f x with pc := x.pc + 1, bind := none })
    (s.LaneRuns core (.pf seg a) → ∃ s1, s.CachesOnly s1 ∧
      exec (.pf seg a) s = .next (s1.onLane core (fun x => { x with pc := x.pc + 1, bind := none }))) ∧
    (s.LaneRuns core (.lea seg d a) → ∃ u, exec (.lea seg d a) s = .next u ∧
      s.LaneComputes u core (fun _ => some (false, d, .p (BitVec.ofNat 64
        (l.form core (s.coreCycle core) (s.core core).pts (wantOf (.lea seg d a) seg.toNat 1 0 false false) a).addr)))) ∧
    (s.LaneRuns core (.segq seg d k) → ∃ u, exec (.segq seg d k) s = .next u ∧
      s.LaneComputes u core (fun _ => some (false, d, .w (BitVec.extractLsb' (32 * k.toNat) 32 (l.segs.getD seg.toNat 0#128))))) ∧
    (s.LaneRuns core (.segld seg d) → exec (.segld seg d) s =
      .next (past (fun x => { x with segs := setAt x.segs seg.toNat (forceSeg seg.toNat (x.readQ d)) }))))

/-! ### Control transfers -/

/-- Branches and jumps (R142, R143), for a gang of any size: each member by its own operands goes on at the target, where it has
no coverage and no window, or at the next word; no register, latch or memory changes; a transfer that one member
takes in a window closes the window of all.
Branches and jumps of a beacon lane (R143, R236), exactly. -/
def Obligations.BranchesAndJumps : Prop :=
  (∀ (s : State) (i : Instr) (core slot gsize : Nat) (tids : List Nat) (w : Crew),
    let dest (t : Nat) (x : Thread) := branchTo i (x.reads (s.ctx core slot w gsize t)) x.pc
    s.GangFits i core slot tids gsize w → (∀ r pc, branchTo i r pc ≠ none) →
    ∃ u, exec i s = .next u ∧ s.OnlyGang u core slot tids ∧
      ∀ t ∈ tids, ∀ x, w.threads.find t = some x → ∃ y, u.thread core slot t = some y ∧ x.Accounted y ∧
        (∀ p, dest t x = some (some p) → y.pc = p ∧ y.cover = none ∧ y.win = none) ∧
        (dest t x = some none → x.PastIt y) ∧
        (x.mac = none → (∃ t' ∈ tids, ∃ x' p, w.threads.find t' = some x' ∧ (x'.openWin s.cycle).win ≠ none ∧
          dest t' x' = some (some p)) → y.win = none)) ∧
  (∀ (s : State) (i : Instr) (core : Nat) (x : Option Word), s.LaneRuns core i →
    branchTo i ((s.core core).lane.reads core (s.coreCycle core) (s.core core).pts) (s.core core).lane.pc = some x →
    exec i s = .next (s.onLane core (fun l => { l with pc := x.getD (l.pc + 1), bind := none })))

/-- `call` and `callr` (R144, R153): the return index PC + 1 is stored at sp - 4 of the stack space, sp falls by 4, and the
thread goes on at the target. -/
def Obligations.Calls : Prop :=
  ∀ (s : State) (i : Instr) (core slot tid gsize : Nat) (w : Crew) (th : Thread) (h : Hit) (target : Word),
    let c := s.ctx core slot w gsize tid
    callTo i (th.reads c) th.pc = some target → s.Solo core slot tid gsize w th → Fits c i th →
    s.Reaches c th (wantOf i 3 4 4 false true)
      (formAddr (th.segs.getD 3 0#128) 3 4 (th.seen c 109).toNat (-4)) h →
    ∃ s1 u o y, exec i s = .next u ∧ s.Walks s1 core ∧
      s1.Becomes u { s1 with ops := s1.ops ++ [o], nextId := s.nextId + 1 } core slot tid (s1.core core) w ∧
      o.id = s.nextId ∧ o.kind = .st ∧ o.space = 3 ∧ o.addr = h.pa ∧ o.n = 4 ∧ o.flag = 15 ∧ o.data = (th.pc + 1).toNat ∧
      o.core = core ∧ o.slot = slot ∧ o.tid = tid ∧ o.value = none ∧
      u.thread core slot tid = some y ∧ y.pc = target ∧ y.sp = th.seen c 109 - 4 ∧ (∀ n, n ≠ 109 → y.reg n = th.reg n) ∧
      y.latch = th.latch ∧ ({ th with waitAll := y.waitAll, waitMem := y.waitMem } : Thread).AccountedRegs y

/-- `ret` (R144, R152): a load of the return index at sp is accepted; the thread, still at the ret, waits for it. (What its
arrival does: LoadsAndStoresComplete.) -/
def Obligations.Returns : Prop :=
  ∀ (s : State) (core slot tid gsize : Nat) (w : Crew) (th : Thread) (h : Hit),
    let c := s.ctx core slot w gsize tid
    s.Solo core slot tid gsize w th → Fits c .ret th →
    s.Reaches c th (wantOf .ret 3 4 4 true false) (formAddr (th.segs.getD 3 0#128) 3 4 (th.seen c 109).toNat 0) h →
    ∃ s1 u o y, exec .ret s = .next u ∧ s.Walks s1 core ∧
      s1.Becomes u { s1 with ops := s1.ops ++ [o], nextId := s.nextId + 1 } core slot tid (s1.core core) w ∧
      o.id = s.nextId ∧ o.kind = .ld .w ∧ o.space = 3 ∧ o.addr = h.pa ∧ o.n = 4 ∧ o.flag = 15 ∧ o.dst = dstPc ∧
      o.core = core ∧ o.slot = slot ∧ o.tid = tid ∧ o.value = none ∧
      u.thread core slot tid = some y ∧ y.pc = th.pc ∧ y.sp = th.seen c 109 ∧ (∀ n, n ≠ 109 → y.reg n = th.reg n) ∧
      s.nextId ∈ y.waitAll ∧ y.latch = th.latch ∧
      ({ th with waitAll := y.waitAll, waitMem := y.waitMem } : Thread).AccountedRegs y

/-- Calls and returns of a beacon lane (R144, R235, R237): the return index in the stack's bytes; back from them. -/
def Obligations.LaneCalls : Prop :=
  ∀ (s : State) (i : Instr) (core : Nat) (h : Hit),
    let l := (s.core core).lane
    s.LaneRuns core i →
    (∀ target, callTo i (l.reads core (s.coreCycle core) (s.core core).pts) l.pc = some target →
      s.LaneReaches core (wantOf i 3 4 4 false true) (formAddr (l.segs.getD 3 0#128) 3 4 l.sp.toNat (-4)) h →
      h.inLine (s.laneViewer core).mmode (wantOf i 3 4 4 false true) →
      ∃ u, exec i s = .next u ∧ s.LaneOnly u core ∧ s.StoresBytes u .memory h.pa 4 (l.pc + 1).toNat ∧
        { (u.core core).lane with rsv := none } = { l with pc := target, sp := l.sp - 4, bind := none, rsv := none }) ∧
    (i = .ret → s.LaneReaches core (wantOf i 3 4 4 true false) (formAddr (l.segs.getD 3 0#128) 3 4 l.sp.toNat 0) h →
      s.LaneClean core (wantOf i 3 4 4 true false) h →
      ∃ u, exec i s = .next u ∧ s.LaneOnly u core ∧ s.KeepsBytes u ∧
        (u.core core).lane = { l with pc := BitVec.ofNat 32 (s.bytesIn .memory h.pa 4), sp := l.sp + 4, bind := none })

/-- `exit` (R145), `yield` (R146) and `waitf` (R188), for a gang of any size: each member goes on past the word, and leaves (it
issues nothing more, its reservation gone), is not eligible for the next pick with its age at zero, or waits for the flags of
the mask; nothing else changes. -/
def Obligations.ExitYieldWait : Prop :=
  ∀ (s : State) (i : Instr) (core slot gsize : Nat) (tids : List Nat) (w : Crew),
    s.GangFits i core slot tids gsize w → (i = .exit ∨ i = .yield ∨ ∃ m, i = .waitf m) →
    ∃ u, exec i s = .next u ∧ s.OnlyGang u core slot tids ∧
      ∀ t ∈ tids, ∀ x, w.threads.find t = some x → ∃ y, u.thread core slot t = some y ∧ y.pc = x.pc + 1 ∧ y.win = none ∧
        (i = .exit → y.leaving = true ∧ ({ x with leaving := true, rsv := none } : Thread).Accounted y ∧ y.stepDue = false) ∧
        (i = .yield → y.skip = true ∧ y.age = 0 ∧ x.Accounted y) ∧
        (∀ m, i = .waitf m → y.waitMask = m ∧ x.Accounted y)

/-- `brk` (R147), `sys` of a thread (R68, R166) and a word that is no instruction (R69) take their trap: the cause, the
instruction's PC as the trap PC, the window's first PC or the instruction's as the resume PC, the detail. A `mod` hint with a reserved
payload binds, and makes its compound ILLEGAL (R52). With ctl.dbgctl.fot a BRK freezes the crew (R262). Inside an mcall the trap PC is
the mcall's and an ILLEGAL's detail the operation's index (R59). A beacon lane takes ILLEGAL for a `brk` and for a word that is no
instruction (R236, R240; its `sys`: LaneSupervision). From every state, whoever issues, `brk` and such a word answer a next state.
The model's choices: such a word opens a window that covers it (log 102), the index stands in place of the detail for every cause
without a memory detail (log 31), and the reserved `mod` hint binds and traps at the compound (log 76). -/
def Obligations.TrapInstructions : Prop :=
  (∀ (s : State) (core slot tid gsize : Nat) (w : Crew) (th : Thread) (code : BitVec 18) (n : BitVec 9) (x : Word),
    let c := s.ctx core slot w gsize tid
    let frozen : Crew := { w with freeze := if (s.core core).ctl.fot = true ∧ w.freeze = .none then .wanted else w.freeze }
    s.Solo core slot tid gsize w th →
    (Fits c (.brk code) th → ∃ u y, exec (.brk code) s = .next u ∧ s.OneThread u core slot tid frozen ∧
      u.thread core slot tid = some y ∧ th.Traps y (.brk code) s.cycle causeBrk code.toNat ∧ y.wdcount = th.wdcount) ∧
    (Fits c (.sys n) th → ∃ u y, exec (.sys n) s = .next u ∧ s.OneThread u core slot tid w ∧
      u.thread core slot tid = some y ∧ th.Traps y (.sys n) s.cycle causeSys n.toNat ∧ y.wdcount = 0) ∧
    (badMod x = false → ∃ u y, exec (.illegalWord x) s = .next u ∧ s.OneThread u core slot tid w ∧
      u.thread core slot tid = some y ∧
      th.Traps y (.illegalWord x) s.cycle causeIllegal (match th.mac with | some m => m.idx | none => x.toNat) ∧ y.wdcount = th.wdcount) ∧
    (badMod x = true → th.mac = none → lastWord (th.segs.getD 5 0#128) th.pc = false →
      (∀ b, th.bind = some b → b.mod = none ∧ b.bad = false) →
      ∃ u y b, exec (.illegalWord x) s = .next u ∧ s.OneThread u core slot tid w ∧ u.thread core slot tid = some y ∧
        y = { th with bind := some b, live := y.live, pc := th.pc + 1 } ∧ b.bad = true ∧
        b.start = (th.bind.map (fun z => z.start)).getD th.pc)) ∧
  (∀ (s : State) (core : Nat) (code : BitVec 18) (x : Word), s.acting = .lane core →
    exec (.brk code) s = .next (s.beaconException core ⟨causeIllegal, wordOf (.brk code), 0⟩) ∧
    (badMod x = false → exec (.illegalWord x) s = .next (s.beaconException core ⟨causeIllegal, x.toNat, 0⟩))) ∧
  ∀ (s : State) (code : BitVec 18) (x : Word), (∃ t, exec (.brk code) s = .next t) ∧ ∃ t, exec (.illegalWord x) s = .next t

/-- A privileged instruction traps (R68, R167): PRIV at its PC with its word, for an S instruction of a user crew and for an
instruction of the beacon lane in every thread; nothing but the thread changes. -/
def Obligations.PrivilegeTraps : Prop :=
  ∀ (s : State) (i : Instr) (core slot tid gsize : Nat) (w : Crew) (th : Thread),
    s.Solo core slot tid gsize w th → badBind i th.bind = false → (privOf i = .b ∨ (privOf i = .s ∧ w.super = false)) →
    ∃ u y, exec i s = .next u ∧ s.OneThread u core slot tid w ∧ u.thread core slot tid = some y ∧
      th.Traps y i s.cycle causePriv (wordOf i) ∧ y.wdcount = th.wdcount

/-- `mcall` (R59): with a microprogram loaded and no window open the thread enters it, at its first operation, with no latch
valid; inside a window or with an entry of length 0 it traps ILLEGAL, and resumes at its own PC. That the
`mcall` has an issue step of its own, after which the thread stands at the first operation, is the model's choice (log 105). -/
def Obligations.MacroCalls : Prop :=
  ∀ (s : State) (core slot tid gsize : Nat) (w : Crew) (th : Thread) (p0 p1 : Opnd) (entry : BitVec 7),
    let c := s.ctx core slot w gsize tid
    let i := Instr.mcall p0 p1 entry
    let e := FMap.get (0, 0) (s.core core).entries entry.toNat
    s.Solo core slot tid gsize w th → Fits c i th → th.mac = none →
    ((th.openWin s.cycle).win = none → e.2 ≠ 0 → ∃ u, exec i s = .next u ∧ s.OneThread u core slot tid w ∧
      u.thread core slot tid = some { th with
        mac := some { start := e.1, len := e.2, idx := 0, p0 := p0, p1 := p1, pc := th.pc, opened := s.cycle }
        lvalid := 0#8, age := 0, lastIssue := some s.cycle }) ∧
    (((th.openWin s.cycle).win ≠ none ∨ e.2 = 0) → ∃ u y z, exec i s = .next u ∧ s.OneThread u core slot tid w ∧
      u.thread core slot tid = some y ∧ y.life = .trapped ∧ y.trap = some z ∧ z.cause = causeIllegal ∧
      z.detail = BitVec.ofNat 32 (wordOf i) ∧ z.tpc = th.pcOf ∧ z.rpc = th.pcOf ∧ ∀ n, y.reg n = th.reg n)

/-! ### Hints -/

/-- The hints (R42 to R45, R51 to R55), for threads of any number: where one may stand, it takes its effect on the thread and
the PC moves on; nothing else changes.
A hint that may not stand where it does (R43, R48, R54 to R56): misplaced, a second of its kind, in a window, or the last
word of the code segment; the thread traps ILLEGAL at the hint itself. -/
def Obligations.HintInstructions : Prop :=
  (∀ (s : State) (i : Instr) (core slot gsize : Nat) (tids : List Nat) (w : Crew),
    s.acting = .gang core slot tids gsize → s.crew core slot = some w → isHint i = true →
    ∃ u, exec i s = .next u ∧ s.OnlyGang u core slot tids ∧
      ∀ t ∈ tids, ∀ x z, w.threads.find t = some x → x.life = .ready → x.mac = none →
        lastWord (x.segs.getD 5 0#128) x.pc = false → hintForm i x = some z →
        u.thread core slot t = some { z with pc := x.pc + 1 }) ∧
  (∀ (s : State) (i : Instr) (core slot tid gsize : Nat) (w : Crew) (th : Thread),
    s.Solo core slot tid gsize w th → isHint i = true → th.mac = none →
    (hintForm i th = none ∨ lastWord (th.segs.getD 5 0#128) th.pc = true) →
    ∃ u y z, exec i s = .next u ∧ s.OneThread u core slot tid w ∧ u.thread core slot tid = some y ∧ y.life = .trapped ∧
      y.trap = some z ∧ z.cause = causeIllegal ∧ z.tpc = th.pc ∧ z.detail = BitVec.ofNat 32 (wordOf i) ∧
      ∀ n, y.reg n = th.reg n)

/-- Hints of a beacon lane (R236), exactly: `imm` and `mod` bind; `sched`, `live` and `livescratch` have no effect; `fmt` is
ILLEGAL. -/
def Obligations.LaneHints : Prop :=
  ∀ (s : State) (core : Nat), s.acting = .lane core →
    let l := (s.core core).lane
    let past (f : Lane → Lane) : Host.Outcome State Fault Refusal := .next (s.onLane core (fun x => { f x with pc := x.pc + 1 }))
    lastWord (l.segs.getD 5 0#128) l.pc = false → l.bind = none →
    (∀ wait hold yld d3 d2 d1 d0, exec (.sched wait hold yld d3 d2 d1 d0) s = past id) ∧
    (∀ part mask, exec (.live part mask) s = past id) ∧ (∀ base len, exec (.livescratch base len) s = past id) ∧
    (∀ payload, exec (.imm payload) s = past (fun x => { x with
      bind := some { start := x.pc, imm := some payload, mod := none, fmt := none, bad := false } })) ∧
    (∀ round sat ftz cache, exec (.mod round sat ftz cache) s = past (fun x => { x with
      bind := some { start := x.pc, imm := none, mod := some ⟨round, sat, ftz, cache.toNat⟩, fmt := none, bad := false } })) ∧
    (∀ payload, exec (.fmt payload) s = .next (s.beaconException core ⟨causeIllegal, wordOf (.fmt payload), 0⟩))

/-! ### Fences, grants, barriers -/

/-- `fence` (R331, R341, R342, R345): an acquire sense makes the thread's next access wait for its earlier loads and atomics (with sc,
for every earlier access), which acquire at the scope, and for an acquire of the fence itself, in flight until what it waits for is
over; with nothing to wait for it acquires at once, so that at .isle and wider no leased copy stays; a release sense puts a release in
flight that waits for the pushes that the scope covers; no byte and no register changes. On a beacon lane, whose accesses are performed at once (R237), nothing waits. -/
def Obligations.Fences : Prop :=
  ∀ (s : State) (ord : FenceOrd) (k : BitVec 5),
    (∀ (core slot tid gsize : Nat) (w : Crew) (th : Thread),
      let c := s.ctx core slot w gsize tid
      let mine (o : MemOp) : Prop := o.core = core ∧ o.slot = slot ∧ o.uid = w.uid ∧ o.tid = tid
      let waits := s.fenceWaits c (decide (ord = .sc)) ++ (if ord = .sc then s.coveredPushes c k.toNat else [])
      let acq := if ord = .acq then s.nextId else s.nextId + 1
      s.Solo core slot tid gsize w th → Fits c (.fence ord k) th →
      ∃ u y, exec (.fence ord k) s = .next u ∧ s.KeepsBytes u ∧ u.thread core slot tid = some y ∧ th.PastIt y ∧
        (∀ n, y.reg n = th.reg n) ∧ y.flags = th.flags ∧ (∀ t, t ≠ tid → u.thread core slot t = s.thread core slot t) ∧
        (ord ≠ .rel → ∀ o ∈ s.ops, mine o → (ord = .sc ∨ o.kind.loads = true ∨ ∃ f a r, o.kind = .atom f a r) → o.id ∈ y.waitMem) ∧
        (ord ≠ .rel → ∀ o ∈ u.ops, mine o → (o.kind.loads = true ∨ ∃ f a r, o.kind = .atom f a r) → k.toNat ≤ o.scope) ∧
        u.ops.map (fun o => o.id) = s.ops.map (fun o => o.id) ++ (if ord = .acq then [] else [s.nextId]) ++
          (if ord = .rel ∨ waits = [] then [] else [acq]) ∧
        (ord ≠ .rel → waits ≠ [] → acq ∈ y.waitMem ∧ ∃ o ∈ u.ops, o.id = acq ∧ mine o ∧ o.kind = .fenceAcq ∧
          o.scope = k.toNat ∧ o.pushes = waits) ∧
        (ord ≠ .rel → waits = [] → 3 ≤ k.toNat → ∀ l x, u.copyOf (clusterOf core) l = some x → x.tracked = true) ∧
        (ord ≠ .acq → ∃ o ∈ u.ops, o.id = s.nextId ∧ mine o ∧ o.kind = .fenceRel ∧ o.pushes = s.coveredPushes c k.toNat)) ∧
    (∀ core, s.LaneRuns core (.fence ord k) → ∃ u, exec (.fence ord k) s = .next u ∧ s.KeepsBytes u ∧
      u.ops.map (fun o => { o with reply := none }) = s.ops.map (fun o => { o with reply := none }) ∧
      s.LaneOnly u core ∧ (u.core core).lane = { (s.core core).lane with pc := (s.core core).lane.pc + 1, bind := none })

/-- `racq` and `rrel` (R175 to R178, R26, R286): a request of nothing does nothing; a request that can be met at some time is
appended to the core's grant queue and parks, one that equals the crew's own shares it; any other traps RESOURCE with the word.
`rrel` returns part of the grant, once no copy and no matrix operation of the crew is under way: the registers above the new top
read zero, and the limits of seg.1 and seg.2 fall in every thread where their allocation does (R23). -/
def Obligations.Grants : Prop :=
  ∀ (s : State) (core slot tid gsize : Nat) (w : Crew) (th : Thread) (a : Opnd),
    let c := s.ctx core slot w gsize tid
    let r := th.readW c a
    s.Solo core slot tid gsize w th →
    (Fits c (.racq a) th →
      let valid := bits r.toNat 31 19 = 0 ∧ reqRegs r ≤ 4 ∧ reqScratch r ≤ 256 ∧ reqAcc r ≤ 64
      (valid → r = 0#32 → ∃ u y, exec (.racq a) s = .next u ∧ s.OneThread u core slot tid w ∧
        u.thread core slot tid = some y ∧ th.Passed y) ∧
      (valid → r ≠ 0#32 → w.grant.isZero = true → w.request = some r → ∃ u y, exec (.racq a) s = .next u ∧
        s.OneThread u core slot tid w ∧ u.thread core slot tid = some y ∧ th.Parked .grant y) ∧
      (valid → r ≠ 0#32 → w.grant.isZero = true → w.request = none → s.hopeless core w r = false →
        ∃ u y, exec (.racq a) s = .next u ∧
          s.Becomes u s core slot tid { s.core core with grantQ := (s.core core).grantQ ++ [slot] } { w with request := some r } ∧
          u.thread core slot tid = some y ∧ th.Parked .grant y) ∧
      ((¬valid ∨ (r ≠ 0#32 ∧ (w.grant.isZero = false ∨ (∃ q, w.request = some q ∧ q ≠ r) ∨
          (w.request = none ∧ s.hopeless core w r = true)))) →
        ∃ u y, exec (.racq a) s = .next u ∧ s.OneThread u core slot tid w ∧ u.thread core slot tid = some y ∧
          th.Traps y (.racq a) s.cycle causeResource r.toNat)) ∧
    (Fits c (.rrel a) th →
      let valid := bits r.toNat 31 19 = 0 ∧ reqRegs r ≤ w.grant.regs ∧ reqScratch r ≤ w.grant.scratch ∧ reqAcc r ≤ w.grant.acc
      let g : Grant := { regs := w.grant.regs - reqRegs r, scratch := w.grant.scratch - reqScratch r,
                         acc := w.grant.acc - reqAcc r }
      (valid → r = 0#32 → ∃ u y, exec (.rrel a) s = .next u ∧ s.OneThread u core slot tid w ∧
        u.thread core slot tid = some y ∧ th.Passed y) ∧
      (valid → r ≠ 0#32 → s.bulkBusy core w.uid = false → ∃ u, exec (.rrel a) s = .next u ∧ u.mem = s.mem ∧
        (∃ W, u.crew core slot = some W ∧ W.grant = g ∧ W.request = w.request ∧ W.nbase = w.nbase) ∧
        (∀ t x, w.threads.find t = some x → ∃ y, u.thread core slot t = some y ∧
          (∀ n, n ≠ 109 → y.reg n = if n < 64 + 8 * g.regs then x.reg n else 0#32) ∧
          y.segs = fittedSegs (if reqScratch r = 0 then none else some (w.spadLen + g.scratch))
            (if reqAcc r = 0 then none else some (w.accLen + g.acc)) x.segs) ∧
        ∃ y, u.thread core slot tid = some y ∧ th.PastIt y) ∧
      (¬valid → ∃ u y, exec (.rrel a) s = .next u ∧ s.OneThread u core slot tid w ∧ u.thread core slot tid = some y ∧
        th.Traps y (.rrel a) s.cycle causeResource r.toNat))

/-- The named barriers (R189 to R191): `bar.set` arms or disarms, and completes a phase that has its arrivals; `bar.arrive`
counts an arrival and records the phase, and completes it with the last; `bar.wait` parks until the recorded phase, or the
present one, has completed; `bar.sync` arrives and waits. A completed phase has the next number, counts from 0, and wakes every
thread parked on it. -/
def Obligations.Barriers : Prop :=
  ∀ (s : State) (core slot tid gsize : Nat) (w : Crew) (th : Thread) (a : Opnd) (b : BitVec 7),
    let c := s.ctx core slot w gsize tid
    let x := s.barrier core b.toNat
    let n := bits (th.readW c a).toNat 11 0
    let m := min (x.arrived + 1) 4095
    let full := x.armed = true ∧ m = x.expected
    let target := match th.arrival with
      | some (k, g) => if k = b.toNat then g else x.gen
      | none => x.gen
    let step (u : State) := s.BarStep u core slot tid b.toNat
    s.Solo core slot tid gsize w th →
    (Fits c (.barSet a b) th → ∃ u, exec (.barSet a b) s = .next u ∧
      (n = 0 → step u { x with armed := false, expected := 0, arrived := 0 } false th Thread.Progressed) ∧
      (0 < n → x.arrived < n → step u { x with armed := true, expected := n } false th Thread.Progressed) ∧
      (0 < n → n ≤ x.arrived →
        step u { x with armed := true, expected := n, gen := x.gen + 1, arrived := 0 } true th Thread.Progressed)) ∧
    (Fits c (.barArrive b) th → ∃ u, exec (.barArrive b) s = .next u ∧
      (¬full → step u { x with arrived := m } false { th with arrival := some (b.toNat, x.gen) } Thread.Progressed) ∧
      (full → step u { x with gen := x.gen + 1, arrived := 0 } true { th with arrival := some (b.toNat, x.gen) } Thread.Progressed)) ∧
    (Fits c (.barWait b) th → ∃ u, exec (.barWait b) s = .next u ∧
      (x.gen = target → step u x false { th with arrival := none } (Thread.Parked (.barrier b.toNat target))) ∧
      (x.gen ≠ target → step u x false { th with arrival := none } Thread.Progressed)) ∧
    (Fits c (.barSync b) th → ∃ u, exec (.barSync b) s = .next u ∧
      (¬full → step u { x with arrived := m } false { th with arrival := none } (Thread.Parked (.barrier b.toNat x.gen))) ∧
      (full → step u { x with gen := x.gen + 1, arrived := 0 } true { th with arrival := none } Thread.Progressed))

/-! ### Joins and convergence -/

/-- `rmset`, `rjarrive`, `rjwait`, `rjdrop` and `cvset` (R195, R198 to R201, R205): the old lost or excused mask is written to d; a
register that is not open takes the set, its pending members those that have not exited; an arrival clears the member's pending
bit and restarts the timer; a wait parks a member that has not dropped; who is no member goes on. -/
def Obligations.Joins : Prop :=
  ∀ (s : State) (core slot tid gsize : Nat) (w : Crew) (th : Thread) (d a : Opnd) (r : BitVec 3) (cv : BitVec 4),
    let c := s.ctx core slot w gsize tid
    let x := w.rm r.toNat
    let z := w.cv cv.toNat
    let b := th.readW c d
    let m := th.readW c a
    let one : Word := BitVec.ofNat 32 (2 ^ (tid - x.base))
    let arrived : Rm := if bit x.pending.toNat (tid - x.base) = true then
        { x with pending := x.pending &&& ~~~one, timer := 0, touched := true } else x
    let member := x.isOpen = true ∧ x.base ≤ tid ∧ tid < x.base + 32 ∧ bit x.mask.toNat (tid - x.base) = true
    s.Solo core slot tid gsize w th →
    (Fits c (.rmset d a r) th → (m ≠ 0#32 → invalidSet w.size b m = false) →
      (x.isOpen = true → m = x.mask ∧ b.toNat = x.base) →
      ∃ u y, exec (.rmset d a r) s = .next u ∧
        s.Becomes u s core slot tid (s.core core) { w with
          rms := w.rms.put r.toNat (if x.isOpen = true then x
           else if m = 0#32 then { x with isSet := false, base := 0, mask := 0, pending := 0, dropped := 0 }
           else { x with isSet := true, isOpen := true, base := b.toNat, mask := m, dropped := 0, timer := 0, touched := true,
                         pending := m &&& ~~~(BitVec.ofNat 32 (w.memberMask b.toNat m.toNat hasExited)) }) } ∧
        u.thread core slot tid = some y ∧ th.Wrote y d (.w x.lost)) ∧
    (Fits c (.cvset d a cv) th → (m ≠ 0#32 → invalidSet w.size b m = false) →
      (z.isOpen = true → m = z.mask ∧ b.toNat = z.base) →
      ∃ u y, exec (.cvset d a cv) s = .next u ∧
        s.Becomes u s core slot tid (s.core core) { w with
          cvs := w.cvs.put cv.toNat (if z.isOpen = true then z
           else if m = 0#32 then { z with isSet := false, base := 0, mask := 0, rsmv := false }
           else if z.isSet = true ∧ m = z.mask ∧ b.toNat = z.base then z
           else { z with isSet := true, base := b.toNat, mask := m, rsmv := false }) } ∧
        u.thread core slot tid = some y ∧ th.Wrote y d (.w z.excused)) ∧
    (∀ i, (i = .rjarrive r ∨ i = .rjwait r ∨ i = .rjdrop r) → Fits c i th →
      (¬member → ∃ u y, exec i s = .next u ∧ s.OneThread u core slot tid w ∧ u.thread core slot tid = some y ∧ th.Progressed y) ∧
      (member → ∃ u y, exec i s = .next u ∧
        s.Becomes u s core slot tid (s.core core) { w with
          rms := w.rms.put r.toNat (if i = .rjdrop r then { arrived with dropped := arrived.dropped ||| one } else arrived) } ∧
        u.thread core slot tid = some y ∧
        (if i = .rjwait r ∧ bit x.dropped.toNat (tid - x.base) = false then th.Parked (.rejoin r.toNat x.gen) y
         else th.Progressed y)))

/-- `shfl`, `vote`, `scan`, `red` and `mma` sign (R206, R210, R223): a member of a set register joins its open round, or opens one,
with its operands, and waits as a signer; another thread traps COLLECTIVE with the reason, and the round stays as it is. -/
def Obligations.CollectivesSign : Prop :=
  ∀ (s : State) (i : Instr) (core slot tid gsize : Nat) (w : Crew) (th : Thread),
    let c := s.ctx core slot w gsize tid
    let signs (op sub n dst flag : Nat) (p q : Word) : Prop :=
      let x := w.cv n
      let k := tid - x.base
      let member := x.base ≤ tid ∧ tid ≤ x.base + 31 ∧ bit x.mask.toNat k = true
      let other := x.isOpen = true ∧ (x.op ≠ op ∨ x.sub ≠ sub)
      (x.isSet = true → member → ¬other → ∃ u y, exec i s = .next u ∧
        s.Becomes u s core slot tid (s.core core)
          { w with cvs := w.cvs.put n (signedCv x k op sub (signArg th s.cycle p q)) } ∧
        u.thread core slot tid = some y ∧ y.pc = th.pc + 1 ∧
        ({ th.raiseFlag flag with life := .issuing n dst flag } : Thread).Accounted y) ∧
      ((x.isSet = false ∨ ¬member ∨ other) → ∃ u y, exec i s = .next u ∧ s.OneThread u core slot tid w ∧
        u.thread core slot tid = some y ∧
        th.Traps y i s.cycle causeCollective
          (collDetail (if x.isSet = false then 1 else if ¬member then 2 else 3) false n))
    s.Solo core slot tid gsize w th → Fits c i th →
    (∀ op sub reads p q n, collForm i = some (op, sub, reads, p, q, n) →
      signs op sub n p.toNat 15 (if reads then th.readW c p else 0#32) (th.readW c q)) ∧
    (∀ flag p cv, i = .mma flag p cv →
      signs 0 0 cv.toNat 127 flag.toNat
        (match th.bind.bind (fun b => b.fmt) with
         | some x => BitVec.setWidth 32 x
         | none => th.readW c p) 0#32)

/-- What a completed round delivers (R207, R211 to R213): each signer is Ready with its result in its p, for `shfl` another
signer's value or its own, for `vote` over the predicates, `ballot` a bit for each member, for `scan` and `red` the combination up to
the member, or of all, by each of the eleven operations; the register is closed, its excused members those that did not sign. -/
def Obligations.CollectiveResults : Prop :=
  ∀ (w : Crew) (n t dst flag : Nat) (th : Thread) (own : CvArg),
    let x := w.cv n
    let i := t - x.base
    let from' (j : Nat) : Word := match x.args.find j with
      | some v => v.q
      | none => own.q
    w.threads.find t = some th → th.signs n = some (dst, flag) → x.args.find i = some own →
    ((w.closeCv n).cv n).excused = x.mask &&& ~~~x.signed ∧ ((w.closeCv n).cv n).isOpen = false ∧
      ((w.closeCv n).cv n).gen = x.gen + 1 ∧
      ∃ y, (w.closeCv n).threads.find t = some y ∧ y.life = .ready ∧ (∀ k, k ≠ dst → y.reg k = th.reg k) ∧ y.pc = th.pc ∧
        (x.op = 0x30 → x.sub = 0 → y.reg dst = from' own.p.toNat) ∧
        (x.op = 0x30 → x.sub = 1 → y.reg dst = if own.p.toNat ≤ i then from' (i - own.p.toNat) else own.q) ∧
        (x.op = 0x30 → x.sub = 2 → y.reg dst = from' (i + own.p.toNat)) ∧
        (x.op = 0x30 → x.sub = 3 → y.reg dst = from' (i ^^^ own.p.toNat)) ∧
        (x.op = 0x31 → x.sub = 0 → y.reg dst = truth (x.args.all (fun a => a.2.q != 0#32))) ∧
        (x.op = 0x31 → x.sub = 1 → y.reg dst = truth (x.args.any (fun a => a.2.q != 0#32))) ∧
        (x.op = 0x31 → x.sub = 2 → ∀ k, k < 32 →
          bit (y.reg dst).toNat k = x.args.any (fun a => decide (a.1 = k) && a.2.q != 0#32)) ∧
        (x.op = 0x32 → x.sub ≤ 10 → Combines x.sub ((x.args.filter (fun a => decide (a.1 ≤ i))).map (fun a => a.2.q)) (y.reg dst)) ∧
        (x.op = 0x33 → x.sub ≤ 10 → Combines x.sub (x.args.map (fun a => a.2.q)) (y.reg dst))

/-! ### The matrix unit, pushes, copies, the fabric -/

/-- `thdl` and `thfree` load and empty a tile handle (R220); `mmz`, `accld` and `accst` enter the matrix queue (R217, R230,
R231) with the accumulator offset, the translation and the flag they name; nothing is copied yet. -/
def Obligations.MatrixInstructions : Prop :=
  ∀ (s : State) (core slot tid gsize : Nat) (w : Crew) (th : Thread) (flag : BitVec 4) (p q : Opnd) (n : BitVec 5),
    let c := s.ctx core slot w gsize tid
    let v := s.viewer c th
    let queued (i : Instr) (off detail : Nat) (kind : MatKind) (waits : Bool) : Prop :=
      ∃ s1 u y, exec i s = .next u ∧ s.Walks s1 core ∧
        s1.Becomes u { s1 with nextId := s.nextId + 1 } core slot tid
          { s1.core core with
            matQ := (s.core core).matQ ++ [{
              id := s.nextId, ord := s.nextId, slot := slot, uid := w.uid, off := off, kind := kind,
              flags := [(tid, flag.toNat)], accepted := true, pc := th.pcOf, detail := BitVec.ofNat 32 detail }] } w ∧
        u.thread core slot tid = some y ∧
        ({ th.raiseFlag flag.toNat with waitAll := if waits then s.nextId :: th.waitAll else th.waitAll } : Thread).Passed y
    s.Solo core slot tid gsize w th →
    (Fits c (.thdl p n) th →
      (badHandle (th.readQ c p) = false → ∃ u y, exec (.thdl p n) s = .next u ∧
        s.Becomes u s core slot tid (s.core core) { w with handles := w.handles.put n.toNat (th.readQ c p) } ∧
        u.thread core slot tid = some y ∧ th.Passed y) ∧
      (badHandle (th.readQ c p) = true → ∃ u y, exec (.thdl p n) s = .next u ∧ s.OneThread u core slot tid w ∧
        u.thread core slot tid = some y ∧ th.Traps y (.thdl p n) s.cycle causeFormat (fmtDetail 7 0 n.toNat))) ∧
    (Fits c (.thfree n) th → ∃ u y, exec (.thfree n) s = .next u ∧
      s.Becomes u s core slot tid (s.core core) { w with handles := w.handles.del n.toNat } ∧
      u.thread core slot tid = some y ∧ th.Passed y) ∧
    (Fits c (.mmz flag p) th →
      let t := (th.readW c p).toNat
      let off := segBase (v.seg 2) + t
      t + 65536 ≤ segLimit (v.seg 2) → t % 16384 = 0 → off + 65536 ≤ Config.accBytes → s.matFull core = false →
      queued (.mmz flag p) off (matDetail 2 false 1) .mmz false) ∧
    (∀ i wr h, (i = .accld flag p q ∧ wr = false ∨ i = .accst flag p q ∧ wr = true) → Fits c i th →
      let f := formAddr (v.seg 0) 0 512 (th.readP c p).toNat 0
      let o := (th.readW c q).toNat
      let t := h.page.getD (mPage h.pa)
      v.sRefuses (accWant wr) = false → f.inside = true → f.addr % 512 = 0 → o + 512 ≤ segLimit (v.seg 2) → o % 512 = 0 →
      segBase (v.seg 2) + o + 512 ≤ Config.accBytes → s.checkPage v (accWant wr) f.addr = .ok h → s.matFull core = false →
      queued i (segBase (v.seg 2) + o) (matDetail 0 wr (if wr then 3 else 2))
        (if wr then .accst f.addr h.pa t tid else .accld f.addr h.pa t tid) t.sc)

/-- The push instructions (R274, R275, R287), to a group or a core: one push is in flight with the address, the data of a pst,
the cores it names and their clusters to answer; the flag rises; no byte has changed yet. A group without cores and a core
that does not exist trap PUSH. -/
def Obligations.PushesAccepted : Prop :=
  ∀ (s : State) (i : Instr) (f : PushForm) (core slot tid gsize : Nat) (w : Crew) (th : Thread) (h : Hit) (t : Tlb),
    let c := s.ctx core slot w gsize tid
    let want := wantOf i 0 f.n f.size f.data.isNone f.data.isSome
    let target := (th.seen c f.k).toNat
    let group := s.groupCores (s.isleNo core) f.k
    let names := s.withMoved (if f.group then group else [target])
    pushForm i = some f → s.Solo core slot tid gsize w th → Fits c i th → s.Reaches c th want (th.form c want f.q) h →
    h.pageFor false want = some t →
    ((if f.group then group ≠ [] else target < Config.cores) →
      ∃ s1 u y, exec i s = .next u ∧ s.Walks s1 core ∧
        s1.Becomes u { s1 with
          nextId := s.nextId + 1
          pushes := s.pushes ++ [{
            id := s.nextId, core := core, slot := slot, tid := tid, uid := w.uid, isle := s.isleNo core,
            flag := f.flag.toNat, addr := h.pa, n := f.n, data := f.data.map (fun x => storedData x.1 x.2 c th), page := t,
            names := names, recv := clustersOf names, merged := false, seq := 0 }] } core slot tid (s1.core core) w ∧
        u.thread core slot tid = some y ∧
        ({ th.raiseFlag f.flag.toNat with waitAll := if t.sc then s.nextId :: th.waitAll else th.waitAll } : Thread).Passed y) ∧
    (¬(if f.group then group ≠ [] else target < Config.cores) →
      ∃ u y, exec i s = .next u ∧ s.OneThread u core slot tid w ∧ u.thread core slot tid = some y ∧
        th.Traps y i s.cycle causePush (if f.group then f.k else target))

/-- The copy instructions (R286, R289, R290, R295, R297, R300, R302): a `tcopy` whose plan, sides and counter pass puts a copy
into the core's load queue, or, where that is full, into a slot of the thread's ring; `tseal` numbers the copies not yet sealed
that are in flight; `twait` and `cwait` go on once their batch or counter is complete, else park; a permit is armed over its
range of the scratchpad, or dropped. -/
def Obligations.CopyInstructions : Prop :=
  ∀ (s : State) (core slot tid gsize : Nat) (w : Crew) (th : Thread) (flag : BitVec 4) (p q : Opnd) (k : BitVec 5),
    let c := s.ctx core slot w gsize tid
    let v := s.viewer c th
    let s0 := s.opened core slot tid
    let passed (s1 u : State) := s1.Issues u core slot tid Thread.Passed
    let cluster := s.cluster (clusterOf core)
    s.Solo core slot tid gsize w th →
    (∀ s1 raw src dst counter,
      let i := Instr.tcopy flag p q
      let pva := (th.readP c p).toNat % 2 ^ 48
      let pl := planOf raw
      let cores := s.groupCores v.isle pl.entry
      let x := copyOfPlan c v.isle flag.toNat pl src dst counter (s.withMoved cores)
      Fits c i th → v.sRefuses (wantOf i 0 128 0 true false) = false → s0.blocksWait c v.isle 64 [pva, pva + 64] = false →
      s0.readPlan v i pva = .ok (s1, raw) → pl.reason (bits raw 255 224) cores.isEmpty = none →
      s1.checkSide v i pl.ssp pl.sbase (2 ^ pl.esz) (fun d => d.ss) pl.dims false = .ok src →
      (if pl.mcast then checkMcast v i pl
       else s1.checkSide v i pl.dsp pl.dbase (2 ^ pl.esz) (fun d => d.ds) pl.dims true) = .ok dst →
      s.checkCounter v i ((th.readP c q).toNat % 2 ^ 48) true = .ok counter →
      (s.loadFull core = false → ∃ u, exec i s = .next u ∧ passed (s1.acceptCopy x none) u ∧
        u.copies = s1.copies ++ [{ x with id := s1.nextId }]) ∧
      (∀ j hs, s.loadFull core = true → s.spillSlot c th.spillNext = some j → s1.checkSlot v i j = .ok hs →
        (∀ y ∈ hs, s0.mustWait c y.1.pa y.2 = false) →
        ∃ u, exec i s = .next u ∧ passed (s1.acceptCopy x (some (j, hs, raw))) u)) ∧
    (Fits c (.tseal p) th → th.batches.length < 8 →
      let live := th.unsealed.filter (fun n => s.inFlight n)
      ∃ u y, exec (.tseal p) s = .next u ∧ s.OneThread u core slot tid w ∧ u.thread core slot tid = some y ∧
        ({ th with unsealed := [], batches := if live = [] then th.batches else th.batches ++ [{ num := th.readW c p, copies := live }] } :
          Thread).Passed y) ∧
    (Fits c (.twait p) th → ∃ u y, exec (.twait p) s = .next u ∧ s.OneThread u core slot tid w ∧
      u.thread core slot tid = some y ∧
      (if th.batchDone (th.readW c p) = true then th.Passed y else th.Parked (.batch (th.readW c p)) y)) ∧
    (∀ h t s2 val,
      let i := Instr.cwait p q k
      let want := wantOf i 0 16 0 true false
      let target := bits (th.readP c q).toNat 62 0
      Fits c i th → s.Reaches c th want (th.form c want p) h → h.pageFor false want = some t → s0.mustWait c h.pa 16 = false →
      (s0.noteHit v h).readHome core t.mode t.lease h.pa 8 = (s2, val, false) →
      (counterReached val target = true → ∃ u, exec i s = .next u ∧
        passed (s2.acquire (clusterOf core) k.toNat none) u) ∧
      (counterReached val target = false → ∃ u, exec i s = .next u ∧
        s2.Issues u core slot tid (Thread.ParkedAt (.counter h.pa target)))) ∧
    (let x := (th.readP c p).toNat
     let o := 256 * bits x 11 0
     Fits c (.permitArm p k) th → o + 256 * (bits x 43 32 + 1) ≤ segLimit (v.seg 1) →
     ∃ u y, exec (.permitArm p k) s = .next u ∧
      s.Becomes u (s.onCluster (clusterOf core) (fun y => { y with
        permits := cluster.permits.put k.toNat {
          key := bits x 63 48, armed := true, fwd := false, owner := crewId core slot, len := bits x 43 32,
          base := (segBase (v.seg 1) + o) / 256 } })) core slot tid (s.core core) w ∧
      u.thread core slot tid = some y ∧ th.Passed y) ∧
    (Fits c (.permitDrop k) th → ∃ u y, exec (.permitDrop k) s = .next u ∧
      s.Becomes u (s.onCluster (clusterOf core) (fun y =>
        { y with permits := cluster.permits.modify k.toNat (fun x => { x with armed := false }) })) core slot tid (s.core core) w ∧
      u.thread core slot tid = some y ∧ th.Passed y)

/-- The fabric instructions (R418 to R421): with a descriptor that reads and passes, extents, remote fields and counter that
pass, one operation is in flight with the descriptor, its targets, the translations and the isle's limit of the moment. -/
def Obligations.FabricAccepted : Prop :=
  ∀ (s s1 : State) (i : Instr) (kind : FabKind) (flag : BitVec 4) (p q : Opnd) (core slot tid gsize : Nat) (w : Crew) (th : Thread)
    (raw : Nat) (left right : List Tlb) (h : Hit),
    let c := s.ctx core slot w gsize tid
    let v := s.viewer c th
    let dva := (th.readP c p).toNat % 2 ^ 48
    let d := fabDescOf raw
    let al := if kind = .atom then d.len else 16
    let s0 := s.opened core slot tid
    let f : FabOp :=
      { id := s1.nextId, core := core, slot := slot, tid := tid, uid := w.uid, isle := v.isle, flag := flag.toNat, kind := kind,
        desc := d, members := s1.fabTargets v.isle kind d, counter := h.pa, lpages := left, rpages := right, cpage := h.page,
        src := none, served := [], back := [], wins := s1.isles.map (fun (x : Nat × Isle) => (x.1, x.2.windows)), contributed := false,
        limit := (s1.isle v.isle).redtimeout.toNat, since := s1.cycle }
    fabForm i = some (kind, flag, p, q) → s.Solo core slot tid gsize w th → Fits c i th →
    v.sRefuses (wantOf i 0 64 0 true false) = false → s0.blocksWait c v.isle 64 [dva] = false →
    s0.readBlock v i dva 64 = .ok (s1, raw) → s1.fabReason v.isle kind raw = none →
    s1.checkExtent v i d.laddr d.len (decide (kind = .get ∨ kind = .atom)) al = .ok left →
    (if kind = .red then s1.checkExtent v i d.raddr d.len true al else .ok []) = .ok right →
    checkRemote v i kind d al = [] → s.checkFabCounter v i ((th.readP c q).toNat % 2 ^ 48) = .ok h →
    ∃ u, exec i s = .next u ∧ u.fabs = s1.fabs ++ [f] ∧ (s1.acceptFab { f with id := 0 }).Issues u core slot tid Thread.Passed

/-! ### Tasks and futures -/

/-- `fspawn` and `tspawn` (R354, R355, R361 to R363, R367): with the earlier accesses released and nothing to wait for, an entry that
reads and passes, its ranges, its cell not in use, and room in the task area, a task is added to the domain: the entry, the
declaration, the issuing task as its parent, the next spawn position, a control block of the task area. It is queued at the issuing
cluster, or held where an earlier task's ranges meet its own. The cell holds value 0, EMPTY, count 1, no parked thread, the new task
as its owner; the issuing task holds the handle, which `fspawn` delivers in p. No other byte changes but those of control blocks. -/
def Obligations.Spawns : Prop :=
  ∀ (s s1 s2 : State) (i : Instr) (p : Option Opnd) (q : Opnd) (core slot tid gsize k : Nat) (w : Crew) (th : Thread)
    (raw d : Nat) (hit : Option Hit) (t0 : Task),
    let c := s.ctx core slot w gsize tid
    let v := s.viewer c th
    let ea := (th.readP c q).toNat % 2 ^ 48
    let e := entryOf raw
    let s0 := s.opened core slot tid
    let die := dieOfCore core
    let dom := s.domain v.isle die
    let id : Word := BitVec.ofNat 32 (die * 2 ^ 31 + v.isle * 2 ^ 27 + dom.serial)
    let hd : DWord := BitVec.ofNat 64 (id.toNat % 2 ^ 16 * 2 ^ 48 + e.cellVa)
    let units : List Nat := s.unitPa v.isle k ::
      (t0.tcb.toList ++ t0.overs ++ ((s.takeUnit v.isle k).freeUnit t0.isle).toList).map (fun n => s.unitPa t0.isle n)
    let apart (a n : Nat) : Prop := ∀ m ∈ units, overlap a n m 256 = false
    ((∃ flag x, i = .fspawn flag x q ∧ p = some x) ∨ (∃ flag, i = .tspawn flag q ∧ p = none)) →
    s.Solo core slot tid gsize w th → Fits c i th → v.sRefuses (wantOf i 0 32 0 true false) = false → s0.released c 3 = true →
    s0.blocksWait c v.isle 32 [ea] = false → s0.readBlock v i ea 32 = .ok (s1, raw) →
    s0.blocksWait c v.isle 64 [e.declVa, e.cellVa] = false →
    e.reason p.isSome (decide (0 < w.accLen + w.grant.acc)) = none →
    (if e.decl ≠ 0 then s1.readDecl v i e.declVa else .ok (s1, th.decl.toNat)) = .ok (s2, d) →
    (if p.isSome = true ∧ e.cell ≠ 0 then (s1.checkCell v i e.cellVa true).map some else .ok none) = .ok hit →
    (∀ h, hit = some h → apart h.pa 32 ∧ ∃ s3 cell, s1.readCell core (cellOf h) = (s3, cell, false) ∧
      ¬((cState cell = cEmpty ∨ cState cell = cOrphaned) ∧ cOwner cell ≠ 0)) →
    core < Config.cores → v.isle < Config.isles → dom.serial < 2 ^ 27 → s.task id = none → s.task w.task = some t0 →
    s.freeUnit v.isle = some k → (p = none ∨ t0.slotFor hd ≠ none ∨ (s.takeUnit v.isle k).freeUnit t0.isle ≠ none) →
    ∃ u t y, exec i s = .next u ∧
      u.task id = some t ∧ t.entry = e ∧ t.decl = BitVec.ofNat 512 d ∧ t.parent = w.task ∧ t.pos = dom.nextPos ∧
      t.cluster = clusterOf core ∧ t.cell = hit.map (fun _ => e.cellVa) ∧ t.tcb = some k ∧ t.stopping = false ∧ t.pieces = 0 ∧
      (u.domain v.isle die).nextPos = dom.nextPos + 1 ∧
      (u.domain v.isle die).serial = (if dom.serial + 1 = 2 ^ 27 then 1 else dom.serial + 1) ∧
      k ∈ (u.isle v.isle).areaUsed ∧
      (dom.holdsBack t = true → t.state = .held ∧ (u.cluster (clusterOf core)).queue = (s.cluster (clusterOf core)).queue) ∧
      (dom.holdsBack t = false → t.state = .queued ∧ (u.cluster (clusterOf core)).queue = (s.cluster (clusterOf core)).queue ++
        [{ task := id, lo := e.lo, hi := e.hi, cls := e.cls, since := s.cycle, pos := dom.nextPos }]) ∧
      (∀ h, hit = some h → u.bytesIn .memory h.pa 32 = 2 ^ 64 + id.toNat * 2 ^ 96 ∧
        ∃ t1, u.task w.task = some t1 ∧ t1.holds hd = true) ∧
      (∀ pl a, (pl = .memory → apart a 1 ∧ ∀ h, hit = some h → a < h.pa ∨ h.pa + 32 ≤ a) → u.byteIn pl a = s.byteIn pl a) ∧
      u.thread core slot tid = some y ∧
      (match p with
       | some o => ({ th with rsv := y.rsv } : Thread).Wrote y o (.p hd)
       | none => ({ th with rsv := y.rsv } : Thread).Passed y) ∧
      ∀ j sl n, (j ≠ core ∨ sl ≠ slot ∨ n ≠ tid) →
        (u.thread j sl n).map (fun x => { x with rsv := none }) = (s.thread j sl n).map (fun x => { x with rsv := none })

/-- The future instructions (R370 to R376), by what the bank finds at the handle's cell: `fref` adds a reference, `fdrop` takes
one away, and with the last of an EMPTY cell stops its owner; `fget` of a FULL cell delivers the value, of an EMPTY one parks
at its own word; `fput` fills the cell and wakes who is parked; `fstate` delivers the state word, of any cell. That the cell's operation takes
effect in the step that issues the instruction, so that no flag is seen raised, is the model's choice (log 62). -/
def Obligations.Futures : Prop :=
  ∀ (s s2 : State) (core slot tid gsize : Nat) (w : Crew) (th : Thread) (flag : BitVec 4) (p q : Opnd) (k : BitVec 5) (h : Hit)
    (cell : Nat),
    let c := s.ctx core slot w gsize tid
    let v := s.viewer c th
    let hd := th.readP c q
    let task := ((s.taskOf core slot).map (fun y => y.id)).getD 0#32
    let holds := ((s.taskOf core slot).map (fun y => y.holds hd)).getD false
    let x := cellOf h
    let runs (i : Instr) (wr : Bool) (s1 : State) (e : Thread → Thread → Prop) : Prop :=
      Fits c i th → s.Reaches c th (wantOf i 0 32 0 true wr) (th.form c (wantOf i 0 32 0 true wr) q) h →
        ∃ u, exec i s = .next u ∧ s1.Issues u core slot tid e
    s.Solo core slot tid gsize w th → s.mustWait c h.pa 32 = false →
    ((s.opened core slot tid).noteHit v h).readCell core x = (s2, cell, false) →
    runs (.fstate p q) false s2 (fun a b => a.Wrote b p (.w (stateWord (staleAt hd cell) holds cell))) ∧
    (staleAt hd cell = false →
      (cState cell = cEmpty ∨ cState cell = cFull → cCount cell < 2 ^ 24 - 1 →
        ∀ s3, s2.addRef task hd = some s3 →
          runs (.fref flag q) true (s3.writeCell core x (putCount cell (cCount cell + 1))) Thread.Passed) ∧
      (holds = true →
        (¬(cState cell = cEmpty ∧ cCount cell = 1 ∨ cState cell = cEmpty ∧ cCount cell = 0) →
          runs (.fdrop flag q) true ((s2.subRef task hd).writeCell core x (putCount cell (cCount cell - 1))) Thread.Passed) ∧
        (cState cell = cEmpty → cCount cell = 1 →
          runs (.fdrop flag q) true (((s2.subRef task hd).writeCell core x (putState (putCount cell 0) cOrphaned)).work
            [.stop (BitVec.ofNat 32 (cOwner cell))]) Thread.Passed) ∧
        (cState cell = cFull →
          runs (.fget p q k) false (s2.acquire (clusterOf core) k.toNat none)
            (fun a b => a.Wrote b p (.p (BitVec.ofNat 64 (cValue cell))))) ∧
        (cState cell = cEmpty →
          runs (.fget p q k) false (s2.setParks core x cell (indexWord core slot tid :: s2.parked x.1 cell))
            (Thread.ParkedAt (.future x.1)))) ∧
      (s.released c k.toNat = true → (BitVec.ofNat 32 (cOwner cell) = task ∨ holds = true) →
        (cState cell = cEmpty → runs (.fput flag p q k) true
          (s2.wakeCell core x (putState (putBits cell 0 64 (th.readP c p).toNat) cFull)) Thread.Passed) ∧
        (cState cell = cOrphaned → runs (.fput flag p q k) true s2 Thread.Passed)))

/-- `tdecl`, `rnext`, `tend`, `fpoint`, `fguard` and `fend` (R365, R366, R379 to R382): the declaration is read; the next chunk of
the piece's range, at most a grain, is written to the pair and taken from the piece, an empty one at the end; the task is
stopped and the thread retires; fpoint retires a thread of a stopping task outside every guard, and is a progress point; the depth
rises, up to 15, and falls. -/
def Obligations.TaskInstructions : Prop :=
  ∀ (s : State) (core slot tid gsize : Nat) (w : Crew) (th : Thread) (a d : Opnd),
    let c := s.ctx core slot w gsize tid
    let v := s.viewer c th
    let s0 := s.opened core slot tid
    let retires (g : Nat) : Prop := g = 0 ∧ s.stoppingCrew w = true
    let one (i : Instr) (e : Thread → Prop) : Prop := ∃ u y, exec i s = .next u ∧ s.OneThread u core slot tid w ∧
      u.thread core slot tid = some y ∧ e y
    s.Solo core slot tid gsize w th →
    (∀ s1 x,
      let va := (th.readP c a).toNat % 2 ^ 48
      Fits c (.tdecl a) th → v.sRefuses (wantOf (.tdecl a) 0 64 0 true false) = false →
      s0.blocksWait c v.isle 64 [va] = false → s0.readDecl v (.tdecl a) va = .ok (s1, x) →
      ∃ u, exec (.tdecl a) s = .next u ∧ s1.Issues u core slot tid (fun y z =>
        ({ y with decl := BitVec.ofNat 512 x } : Thread).Passed z)) ∧
    (Fits c (.rnext d) th → (retires th.guard → one (.rnext d) th.Leaves) ∧
      (¬retires th.guard → ∀ t pc, s.task w.task = some t → (s.domain w.isle (dieOfCore core)).pieces.find w.piece = some pc →
        let top := min (pc.cur + t.entry.grain) pc.hi
        ∃ u y, exec (.rnext d) s = .next u ∧
          s.Becomes u (s.onDomain w.isle (dieOfCore core) (fun x =>
            { x with pieces := x.pieces.modify w.piece (fun z => { z with cur := top }) })) core slot tid (s.core core) w ∧
          u.thread core slot tid = some y ∧ th.Wrote y d (.p (BitVec.ofNat 32 top ++ BitVec.ofNat 32 pc.cur)))) ∧
    (Fits c .tend th → ∃ u, exec .tend s = .next u ∧ (s0.work [.stop w.task]).Issues u core slot tid Thread.Leaves) ∧
    (Fits c .fpoint th → (retires th.guard → one .fpoint th.Leaves) ∧ (¬retires th.guard → one .fpoint th.Progressed)) ∧
    (Fits c .fguard th → (th.guard < 15 → one .fguard ({ th with guard := th.guard + 1 } : Thread).Passed) ∧
      (15 ≤ th.guard → one .fguard (fun y => th.Traps y .fguard s.cycle causeTask (taskDetail 8)))) ∧
    (Fits c .fend th →
      (retires (th.guard - 1) → one .fend ({ th with guard := th.guard - 1 } : Thread).Leaves) ∧
      (¬retires (th.guard - 1) → one .fend ({ th with guard := th.guard - 1 } : Thread).Passed))

/-! ### Control registers and supervision -/

/-- Control registers (R245 to R247, R239): a number that the map does not assign is ILLEGAL, one out of reach PRIV; a read
delivers the low word to a thread, the whole register to a b register; a write is noted, and takes effect at the end of its cycle. -/
def Obligations.ControlAccess : Prop :=
  ∀ (s : State) (d a : Opnd) (n : BitVec 9),
    (∀ (core slot tid gsize : Nat) (w : Crew) (th : Thread),
      let c := s.ctx core slot w gsize tid
      let s0 := s.opened core slot tid
      s.Solo core slot tid gsize w th → th.mac = none →
      (∀ i, (i = .ctlr d n ∨ i = .ctlw a n) → badBind i th.bind = false →
        (ctlWho n.toNat = none → ∃ u y, exec i s = .next u ∧ s.OneThread u core slot tid w ∧
          u.thread core slot tid = some y ∧ th.Traps y i s.cycle causeIllegal (wordOf i)) ∧
        ((ctlWho n.toNat = some .lane ∨ ctlWho n.toNat = some .laneM ∨ (ctlWho n.toNat = some .super ∧ w.super = false)) →
          ∃ u y, exec i s = .next u ∧ s.OneThread u core slot tid w ∧ u.thread core slot tid = some y ∧
            th.Traps y i s.cycle causePriv (wordOf i))) ∧
      ((ctlWho n.toNat = some .any ∨ (ctlWho n.toNat = some .super ∧ w.super = true)) →
        (Fits c (.ctlr d n) th → ∃ u y, exec (.ctlr d n) s = .next u ∧ s.OneThread u core slot tid w ∧
          u.thread core slot tid = some y ∧ th.Wrote y d (.w (lo32 (s0.ctlThread c w (th.openWin s.cycle) n.toNat)))) ∧
        (Fits c (.ctlw a n) th → ∃ u y, exec (.ctlw a n) s = .next u ∧
          s.Becomes u { s with ctlWrites := s.ctlWrites ++ [{ core := core, thread := some (slot, w.uid, tid), num := n.toNat,
                                                              val := BitVec.setWidth 64 (th.readW c a) }] }
            core slot tid (s.core core) w ∧ u.thread core slot tid = some y ∧ th.Passed y))) ∧
    (∀ core,
      let l := (s.core core).lane
      (s.LaneRuns core (.ctlr d n) →
        (ctlLane (.ctlr d n) n.toNat l = none → ∃ u, exec (.ctlr d n) s = .next u ∧ s.LaneComputes u core (fun _ =>
          some (false, d, if d.toNat < 32 then .p (s.ctlOfLane core l n.toNat) else .w (lo32 (s.ctlOfLane core l n.toNat))))) ∧
        (∀ r, ctlLane (.ctlr d n) n.toNat l = some r → exec (.ctlr d n) s = .next (s.beaconException core r))) ∧
      (s.LaneRuns core (.ctlw a n) →
        let v : DWord := if a.toNat < 32 then l.breg a.toNat
          else BitVec.setWidth 64 (l.readW core (s.coreCycle core) (s.core core).pts a)
        (ctlLane (.ctlw a n) n.toNat l = none →
          exec (.ctlw a n) s = .next (({ s with
            ctlWrites := s.ctlWrites ++ [{ core := core, thread := none, num := n.toNat, val := v }] } : State).laneSettle core .next)) ∧
        (∀ r, ctlLane (.ctlw a n) n.toNat l = some r → exec (.ctlw a n) s = .next (s.beaconException core r)))) ∧
    ∀ rest, s.agenda = .tick 4 :: rest → ∃ u, step s = .next u ∧ u.ctlWrites = [] ∧ u.cycle = s.cycle + 1 ∧
      (s.ctlWrites = [] → ∀ k, (u.core k).ctl = (s.core k).ctl ∧ (u.core k).lane = (s.core k).lane) ∧
      ∀ x, s.ctlWrites = [x] →
        (0x40 ≤ x.num → x.num < 0x80 → ∀ k, (u.core k).ctl = ((s.putCore x.core x.num x.val).core k).ctl) ∧
        (x.thread = none → 0x80 ≤ x.num → x.num < 0x100 → ∀ k, (u.core k).lane = ((s.putLane x.core x.num x.val).core k).lane) ∧
        ∀ slot tid w th, x.thread = some (slot, w.uid, tid) → s.crew x.core slot = some w → w.threads.find tid = some th →
          (x.num = 0 → (u.crew x.core slot).map (fun y => y.patience) = some (max 64 ((lo32 x.val).toNat % 2 ^ 24))) ∧
          (x.num = 1 → (u.thread x.core slot tid).map (fun y => y.pushref) = some (lo32 x.val))

/-- What writes to the control registers of a core leave to be read (R246, R282): limits and clamps, fields that are forced, bits
that a write of 1 clears, registers that ignore writes. ctl.pushquota takes the written quota, at most 4096. A write of ctl.ipend
clears the edges written as 1. The words of ctl.wdlimit, ctl.qspilln, ctl.kstack and ctl.slice are 32 bits wide (the model's choice,
log 114).
A write of ctl.dbgctl (R262) sets fot, halts the crew that it names, or releases it: each Frozen thread returns to the state it left.
The window of ctl.ubind (R247): a write binds a Trapped or Frozen thread of the core, else leaves all ones; through a binding the
registers of the thread, its sp, resume PC, status and record are read, and an allocated register, sp, the resume PC and the step bit
are written, and nothing else; with no binding the window reads zero and ignores writes. -/
def Obligations.ControlReadBack : Prop :=
  ∀ (s : State) (core : Nat) (v : DWord),
    let rd (n : Nat) := (s.putCore core n v).ctlCore core n
    let w := lo32 v
    rd 0x40 = BitVec.setWidth 64 w ∧ rd 0x45 = v &&& 0x0000FFFFFFFFF000#64 ∧ rd 0x46 = BitVec.setWidth 64 w ∧
    rd 0x47 = BitVec.ofNat 64 (max 1 (min v.toNat 256)) ∧ rd 0x48 = BitVec.setWidth 64 (w &&& 0xFFFFFFF0#32) ∧
    rd 0x49 = BitVec.setWidth 64 w ∧
    rd 0x4A = BitVec.setWidth 64 ((s.core core).ctl.sliceexp &&& ~~~w) ∧
    rd 0x4C = BitVec.setWidth 64 ((s.core core).ctl.kdone &&& ~~~w) ∧
    rd 0x4B = s.ctlCore core 0x4B ∧ rd 0x4E = s.ctlCore core 0x4E ∧
    rd 0x42 = BitVec.setWidth 64 (if w.toNat < 4096 then 4096#32 else w) ∧
    ((s.putCore core 0x43 v).core core).ctl.dedup = bit v.toNat 31 ∧
    ((s.putCore core 0x43 v).core core).ctl.thresh =
      (if bits v.toNat 8 0 = 0 ∨ 256 < bits v.toNat 8 0 then 256 else bits v.toNat 8 0) ∧
    ((s.putCore core 0x44 v).core core).ctl.ovf = ((s.core core).ctl.ovf && !bit v.toNat 31) ∧
    (((s.putCore core 0x41 v).cluster (clusterOf core)).quota = min (bits v.toNat 12 0) 4096 ∧
      ((s.putCore core 0x41 v).cluster (clusterOf core)).refused = bits v.toNat 31 16 ∧
      rd 0x41 = BitVec.ofNat 64 (bits v.toNat 31 16 * 2 ^ 16 + min (bits v.toNat 12 0) 4096)) ∧
    (∀ n, (n = 0x81 ∨ n = 0x82 ∨ n = 0x83 ∨ n = 0x84 ∨ n = 0x85 ∨ n = 0x87 ∨ n = 0x88 ∨ n = 0x91 ∨ n = 0x92 ∨ n = 0x93 ∨ n = 0x94) →
      ((s.putLane core n v).core core).ctlLane n = v) ∧
    (∀ n, 0x89 ≤ n → n ≤ 0x90 → ((s.putLane core n v).core core).ctlLane n = (s.core core).ctlLane n &&& ~~~v) ∧
    ((s.putLane core 0x86 v).core core).lane.ipend = (s.core core).lane.ipend &&& ~~~(v &&& 0x384#64) ∧
    ((s.putLane core 0x86 v).core core).ctlLane 0x86 = (s.core core).ctlLane 0x86 &&& ~~~(v &&& 0x384#64) ∧
    ((s.putLane core 0x80 v).core core).lane.mode = (s.core core).lane.mode ∧
    (∀ x y, x ≠ y → ((s.putLane core 0x85 v).core x) = (if x = core then ((s.putLane core 0x85 v).core core) else s.core x)) ∧
    (let u := s.putCore core 0x4D v
     let id := bits v.toNat 13 0
     (u.core core).ctl.fot = bit v.toNat 29 ∧ rd 0x4D = BitVec.ofNat 64 (b2n (bit v.toNat 29) * 2 ^ 29 + id) ∧
     (id / 32 ≠ core ∨ (bit v.toNat 30 = false ∧ bit v.toNat 31 = false) → ∀ k j, u.crew k j = s.crew k j) ∧
     ∀ x, id / 32 = core → s.crew core (id % 32) = some x →
      (bit v.toNat 30 = false → bit v.toNat 31 = true →
        u.crew core (id % 32) = some { x with freeze := if x.freeze = .none then .wanted else x.freeze }) ∧
      (bit v.toNat 30 = true → s.stoppingCrew x = false → bit (u.core core).ctl.dbgstat.toNat (id % 32) = false ∧
        ∃ y, u.crew core (id % 32) = some y ∧ y.freeze = .none ∧ ∀ t th, x.threads.find t = some th → ∃ z, y.threads.find t = some z ∧
          z = { th with life := z.life, ubind := z.ubind } ∧ (th.life = .frozen none → z.life = .ready) ∧
          (∀ p, th.life = .frozen (some p) → z.life = .parked p) ∧ ((∀ p, th.life ≠ .frozen p) → z.life = th.life))) ∧
    (let j := indexSlot w
     let t := indexTid w
     (∀ th, bits w.toNat 31 24 = 0 → indexCore w = core → s.thread core j t = some th →
        (th.life = .trapped ∨ ∃ p, th.life = .frozen p) → s.bound core w = some (j, t, th)) ∧
     ((bits w.toNat 31 24 ≠ 0 ∨ indexCore w ≠ core ∨ s.thread core j t = none ∨
        ∃ th, s.thread core j t = some th ∧ th.life ≠ .trapped ∧ ∀ p, th.life ≠ .frozen p) → s.bound core w = none) ∧
     (((s.applyCtl { core := core, thread := none, num := 0x1E3, val := v }).core core).lane.ubind =
        if (s.bound core w).isSome then w else 0xFFFFFFFF#32) ∧
     ∀ slot tid x th, s.crew core slot = some x → x.threads.find tid = some th →
      ((s.applyCtl { core := core, thread := some (slot, x.uid, tid), num := 0x1E3, val := v }).thread core slot tid).map
        (fun y => y.ubind) = some (if (s.bound core w).isSome then w else 0xFFFFFFFF#32)) ∧
    ∀ b n, 0x180 ≤ n → n ≤ 0x1EB → n ≠ 0x1E3 → (s.bound core b = none → s.ctlBound core b n = 0#64 ∧ s.putBound core b n w = s) ∧
      ∀ j t th x, s.bound core b = some (j, t, th) → s.crew core j = some x →
        let r := s.ctlBound core b n
        let u := s.putBound core b n w
        let one (y : Thread) : Prop := s.OneThread u core j t x ∧ u.thread core j t = some y
        (n < 0x1E0 → r = BitVec.setWidth 64 (th.reg (n - 0x180)) ∧
          ((s.ctx core j x 1 t).allocated (n - 0x180) = true → ∃ y, one y ∧ y.reg (n - 0x180) = w ∧
            (∀ m, m ≠ n - 0x180 → y.reg m = th.reg m) ∧ y = { th with regs := y.regs, shadows := y.shadows }) ∧
          ((s.ctx core j x 1 t).allocated (n - 0x180) = false → u = s)) ∧
        (n = 0x1E0 → r = BitVec.setWidth 64 th.sp ∧ ∃ y, one y ∧ y = { th with sp := w, shadows := y.shadows }) ∧
        (n = 0x1E1 → (∀ z, th.trap = some z → r = BitVec.setWidth 64 z.rpc ∧ one { th with trap := some { z with rpc := w } }) ∧
          (th.trap = none → r = BitVec.setWidth 64 th.pcOf ∧ one { th with pc := w, bind := none })) ∧
        (n = 0x1E2 → r = BitVec.setWidth 64 (th.status x.super) ∧
          ∃ y, one y ∧ y = { th with step := bit w.toNat 18, stepDue := y.stepDue }) ∧
        (0x1E4 ≤ n → u = s ∧ (th.trap = none → r = 0#64) ∧ ∀ z, th.trap = some z →
          let y : Rec := match z.record with
            | .made q => q
            | _ => th.record x.super (indexWord core j t) 0#32
          r = BitVec.ofNat 64 (bits (y.bytes 0) (32 * (n - 0x1E4) + 31) (32 * (n - 0x1E4))))

/-- Supervision by threads (R252, R254, R256 to R260, R327, R328, R333, R385): `qret` resumes the thread that its word names, or ends its
crew, once the issuer's earlier accesses are performed; `preempt` asks a crew to stop, or cancels that; `tmove` queues the move;
`mload` fills the control store and its entry; `csave` and `crestore` write the status that the rules give, the crew's image, the crew
in its slot; `scgset` writes the entry's 384 bits; `tlbinv` takes the translations from every TLB of the isle and waits; `atp`
delivers what a walk finds. The model's choices: a cancelled pre-emption's request rejoins the grant queue at its end (log 48), the order
of crestore's refusals (log 49), the four bytes that csave of no crew checks (log 90), the bits of the image that R260 leaves open
(log 25) and which saved crew an image belongs to (log 41). -/
def Obligations.SupervisorInstructions : Prop :=
  ∀ (s : State) (core slot tid gsize : Nat) (w : Crew) (th : Thread) (d a : Opnd) (n : BitVec 5) (ext : BitVec 2),
    let c := s.ctx core slot w gsize tid
    let v := s.viewer c th
    let s0 := s.opened core slot tid
    let x := th.readW c a
    let does (i : Instr) (eff : State → Prop) (e : Thread → Thread → Prop) : Prop :=
      Fits c i th → ∃ s1 u, exec i s = .next u ∧ eff s1 ∧ s1.Issues u core slot tid e
    s.Solo core slot tid gsize w th →
    (s.released c 3 = true → does (.qret a) (fun s1 => s0.QretDoes s1 core x) Thread.Passed) ∧
    does (.preempt a) (fun s1 => s0.PreemptDoes s1 core x) Thread.Passed ∧
    does (.tmove d a) (fun s1 => s0.MoveAsked s1 core (th.readW c d) x) Thread.Passed ∧
    (∀ header y,
      let i := Instr.mload d a
      let old := FMap.get (0, 0) (s.core core).entries (th.readW c d).toNat
      v.sRefuses (wantOf i 0 4 4 true false) = false → s.settled c = true →
      s0.MicroReads core v i (th.readP c a).toNat header y →
      s.badMicro core (th.readW c d) header (microProgram header y) = false → (old.2 = 0 ∨ s.mcallOpen core old.1 old.2 = false) →
      does i (fun s1 => s0.MicroLoaded s1 core (th.readW c d) header y) Thread.Passed) ∧
    (s.settled c = true →
      let i := Instr.csave d a
      let va := (th.readP c d).toNat % 2 ^ 48
      let k := x.toNat % 32
      let only (l : List (Hit × Nat)) (n : Nat) : Prop := does i (fun s1 => s0.StatusOnly s1 l va n) Thread.Passed
      (∀ l, (x.toNat / 32 ≠ core ∨ s.crew core k = none) → s0.ImageAt v i va 4 true l → BlockPlaced l → only l 2) ∧
      ∀ l y, x.toNat / 32 = core → s.crew core k = some y →
        s0.ImageAt v i va (imageLayout y.size (s0.savedRanges core k y) (4096 * (y.accLen + y.grant.acc))).2.2 true l →
        BlockPlaced l →
        let ready := bit (s.core core).ctl.pready.toNat k = true ∧ s0.saveReady core y = true
        (¬ready → only l 1) ∧ (ready → s0.sharesAcc core k y = true → only l 3) ∧
        (ready → s0.sharesAcc core k y = false → s0.Savable core y →
          does i (fun s1 => s0.CrewSaved s1 core k y l va) Thread.Passed)) ∧
    (∀ l0 l l1, s.settled c = true →
      let i := Instr.crestore d a
      let va := (th.readP c d).toNat % 2 ^ 48
      let k := x.toNat % 32
      let word (o : Nat) : Nat := s0.getVa core l (va + o) 4
      let only (n : Nat) : Prop := does i (fun s1 => s0.StatusOnly s1 l va n) Thread.Passed
      s0.ImageAt v i va 64 false l0 → s0.poisonIn l0 = none →
      s0.ImageAt v i va (max (s0.getVa core l0 (va + 28) 4) 64) false l → s0.poisonIn l = none → BlockPlaced l →
      s0.ImageAt v i va 4 true l1 →
      (s0.savedFor v.isle (word 8) (s0.getVa core l (va + 32) 6) va = none → only 11) ∧
      ∀ y, s0.savedFor v.isle (word 8) (s0.getVa core l (va + 32) 6) va = some y →
        let z := s0.crewOfImage core l va y
        let bound := bit (word 12) 0 = true ∧ word 8 / 32 ≠ core
        let busy := x.toNat / 32 ≠ core ∨ s.crew core k ≠ none ∨ (s.core core).returned.find k ≠ none
        (z.badHeader y.kgo word = true → only 11) ∧
        (z.badHeader y.kgo word = false → (bound → only 10) ∧
          (¬bound → (busy ∨ s0.roomFor core z = none → only 9) ∧
            ∀ spad acc, ¬busy → s0.roomFor core z = some (spad, acc) →
              does i (fun s1 => s0.CrewRestored s1 core k y l va spad acc) Thread.Passed))) ∧
    (∀ h t s2 y,
      let want := wantOf (.scgset a n) 0 64 0 true false
      s.Reaches c th want (th.form c want a) h → t = h.page.getD (mPage h.pa) → s.settled c = true → s0.mustWait c h.pa 64 = false →
      (s0.noteHit v h).readHome core t.mode t.lease h.pa 64 = (s2, y, false) →
      does (.scgset a n) (fun s1 => s.GroupWritten s1 (s.isleNo core) n.toNat y ∧ s.KeepsBytes s1) Thread.Passed) ∧
    (s.settled c = true → does (.tlbinv a ext) (fun s1 => s0.TlbDropped s1 (s.isleNo core) (invExtent ext (th.readP c a)))
      (fun p q => ({ p with sysWait := .tlbinv (invExtent ext (th.readP c a)) s.nextId } : Thread).Passed q)) ∧
    (let va := (th.readP c a).toNat % 2 ^ 48
     ∃ y, AtpWord (s.translate core (s.isleNo core) va) va y ∧
       does (.atp d a) (fun s1 => s0.Walks s1 core) (fun p q => p.Wrote q d (.p y)))

/-- The beacon lane's own instructions and supervision (R240, R241, R243, R244, R250 to R260, R327, R328, R333, R385), each exactly:
`eret` restores the mode, the enables and the PC from mstat and mepc, or from the S level's own, and is PRIV where there is nothing to
return to; `wfi` waits; `ipi` sets the vector's bit in the target lane and no other; `sys` enters the M-level handler; `qpop` writes
the records taken to memory, removes them and counts them; `kgo` places a crew of the count's threads, or answers all ones; the
others act as for a thread. The model's choices: an ipi to a core of no isle sets its vector (log 83), eret takes every mode but M as S
(log 88), and in preempt, csave and crestore what logs 25, 41, 48, 49 and 90 settle. -/
def Obligations.LaneSupervision : Prop :=
  ∀ (s : State) (core : Nat) (i : Instr) (d a : Opnd) (vec k : BitVec 9) (cause : BitVec 8) (ext : BitVec 2) (n : BitVec 5),
    let l := (s.core core).lane
    let rd (o : Opnd) : Word := l.readW core (s.coreCycle core) (s.core core).pts o
    let past (t : State) : Host.Outcome State Fault Refusal := .next (t.laneSettle core .next)
    let does (eff : State → Prop) : Prop := ∃ s1, eff s1 ∧ exec i s = past s1
    let answers (r : Word) (u : State) : Prop :=
      LaneAfter l (u.core core).lane false d (.w r) ∧ (u.core core).lane.pc = l.pc + 1
    let v := s.laneViewer core
    let block (m : Nat) (wr : Bool) (f : Formed) (hits : List (Hit × Nat)) : Prop :=
      s.checkBlock v (sysWant i 6 m wr) f m 32 = .ok hits ∧ s.awaitLines (hitLines hits) wr = none
    s.LaneRuns core i →
    (i = .eret →
      (l.mode = .m → ∃ u, exec i s = .next u ∧ s.OnlyLane u core ∧ (u.core core).lane = { l with
        pc := lo32 l.mepc, exl := bit l.mstat.toNat 6, pie := bit l.mstat.toNat 5, ie := bit l.mstat.toNat 4,
        pmode := BitVec.extractLsb' 2 2 l.mstat, mode := if BitVec.extractLsb' 0 2 l.mstat = 2#2 then .m else .s, bind := none }) ∧
      (l.mode = .s → l.pmode = 1#2 → ∃ u, exec i s = .next u ∧ s.OnlyLane u core ∧
        (u.core core).lane = { l with pc := lo32 l.bepc, ie := l.pie, exl := false, bind := none }) ∧
      (l.mode = .s → l.pmode ≠ 1#2 → exec i s = .next (s.beaconException core ⟨causePriv, wordOf .eret, 0⟩))) ∧
    (i = .wfi → ∃ u, exec i s = .next u ∧ s.OnlyLane u core ∧
      (u.core core).lane = { l with wait := .wfi, pc := l.pc + 1, bind := none }) ∧
    (i = .sys k → exec i s = .next (s.onLane core (fun x =>
      { x with mepc := BitVec.setWidth 64 (x.pc + 1), mcause := BitVec.ofNat 64 causeSys, mstat := x.bstat, mode := .m,
               pc := lo32 x.mvec, bind := none, rsv := none }))) ∧
    (i = .ipi a vec →
      let t := (rd a).toNat
      let foreign := Config.cores ≤ t ∨ ∃ j, s.isleOfCore t = some j ∧ s.isleOfCore core ≠ some j
      let still (c : Core) : Core := { c with lane := { c.lane with ipivec := [] } }
      (¬foreign → ∃ u, exec i s = .next u ∧ u = { s with cores := u.cores } ∧
        (∀ j m b, b < 64 → bit (FMap.get 0#64 (u.core j).lane.ipivec m).toNat b =
          (bit (FMap.get 0#64 (s.core j).lane.ipivec m).toNat b || decide (j = t ∧ vec.toNat = 64 * m + b))) ∧
        (∀ j, j ≠ core → still (u.core j) = still (s.core j)) ∧
        still (u.core core) = still { s.core core with lane := { l with pc := l.pc + 1, bind := none } }) ∧
      (foreign → exec i s = .next (s.beaconException core ⟨causePriv, wordOf (.ipi a vec), 0⟩))) ∧
    (i = .qpop d a cause →
      let recs := s.popList core cause.toNat
      let m := 32 * recs.length
      let f := formAddr (v.seg 6) 6 m (rd a).toNat 0
      let page (r : Rec) : Nat := r.fault.toNat / 4096
      let first (j : Nat) : Nat := ((List.range (j + 1)).find? (fun b => decide ((recs[b]?).map page = (recs[j]?).map page))).getD j
      let batch (j : Nat) : Nat :=
        if (s.core core).ctl.dedup = true ∧ cause.toNat = causePage then (if first j = j then 0x100 else first j) else 0
      (recs = [] → ∃ u, exec i s = .next u ∧ s.OnlyLane u core ∧ answers 0#32 u) ∧
      (recs ≠ [] → ∀ hits, block m true f hits → (∀ x ∈ hits, x.1.pa < hbmEnd) → BlockPlaced hits →
        ∃ u, exec i s = .next u ∧ answers (BitVec.ofNat 32 recs.length) u ∧
          (u.core core).queue = (s.core core).queue.filter (fun r => !(recs.map (fun x => x.seq)).contains r.seq) ∧
          ∀ j r, recs[j]? = some r → u.inBlock hits (f.addr + 32 * j) 32 = some (r.bytes (batch j)))) ∧
    (i = .kgo d a → ∀ hits s1 x hits2 s2 bytes,
      let f := formAddr (v.seg 6) 6 32 (rd a).toNat 0
      let cnt := bits x 159 128
      let m := 32 * cnt
      let shape := BitVec.ofNat 32 (x >>> 32)
      let at' (j : Nat) : Nat := segBase (l.segs.getD 6 0#128) + bits x 95 64 + 32 * j
      let kst := (s.core core).ctl.kstack.toNat
      block 32 false f hits → (s.noteHits v hits).poisonIn hits = none → State.readHits core hits (s.noteHits v hits) = (s1, x) → badLaunch x = none →
      s1.checkBlock v (sysWant i 6 m false) (formAddr (v.seg 6) 6 m (bits x 95 64) 0) m 32 = .ok hits2 →
      s1.awaitLines (hitLines hits2) false = none → (s1.noteHits v hits2).poisonIn hits2 = none →
      State.readHits core hits2 (s1.noteHits v hits2) = (s2, bytes) →
      let fits := s.coreFits core (s.isleNo core) cnt (shRegs shape) = true
      (∀ spad acc j, fits → s.spadFit (clusterOf core) (shScratch shape) = some spad → s.accFit core (shAcc shape) = some acc →
        s.freeSlot core = some j →
        ∃ u w, exec i s = .next u ∧ answers (BitVec.ofNat 32 (crewId core j)) u ∧ u.crew core j = some w ∧ w.size = cnt ∧
          w.super = true ∧ w.kgo = true ∧ w.spadBase = spad ∧ w.accBase = acc ∧ w.shape = shape ∧
          (∀ b y, b ≠ j → s.crew core b = some y → ∃ z, u.crew core b = some z ∧ z.uid = y.uid) ∧
          ∀ b, b < cnt → ∃ y, w.threads.find b = some y ∧ y.life = .ready ∧ y.pc = BitVec.ofNat 32 x ∧
            y.reg 0 = BitVec.ofNat 32 (at' b) ∧ y.reg 1 = BitVec.ofNat 32 (at' b % 2 ^ 48 / 2 ^ 32) ∧
            y.reg 2 = BitVec.ofNat 32 (bits x 95 64 + 32 * b) ∧ y.reg 3 = BitVec.ofNat 32 b ∧ y.reg 4 = BitVec.ofNat 32 cnt ∧
            y.segs.getD 0 0#128 = forceSeg 0 (l.segs.getD 0 0#128) ∧ y.segs.getD 6 0#128 = l.segs.getD 6 0#128 ∧
            segLimit (y.segs.getD 3 0#128) = kst ∧
            segBase (y.segs.getD 3 0#128) = (segBase (l.segs.getD 3 0#128) + b * kst) % 2 ^ 48 ∧
            y.ubind = s2.bindWord core (recOf (bytes >>> (256 * b))).index) ∧
      ((¬fits ∨ s.spadFit (clusterOf core) (shScratch shape) = none ∨ s.accFit core (shAcc shape) = none) →
        ∃ u, exec i s = .next u ∧ answers 0xFFFFFFFF#32 u ∧ s.KeepsBytes u ∧
          ∀ b, (u.crew core b).map Crew.unreserved = (s.crew core b).map Crew.unreserved)) ∧
    (i = .qret a → does (fun s1 => s.QretDoes s1 core (rd a))) ∧ (i = .preempt a → does (fun s1 => s.PreemptDoes s1 core (rd a))) ∧
    (i = .tmove d a → does (fun s1 => s.MoveAsked s1 core (rd d) (rd a))) ∧
    (i = .mload d a → ∀ header y,
      let old := FMap.get (0, 0) (s.core core).entries (rd d).toNat
      s.MicroReads core v i (l.readP a).toNat header y → s.badMicro core (rd d) header (microProgram header y) = false →
      (old.2 = 0 ∨ s.mcallOpen core old.1 old.2 = false) → does (fun s1 => s.MicroLoaded s1 core (rd d) header y)) ∧
    (i = .csave d a →
      let va := (l.readP d).toNat % 2 ^ 48
      let j := (rd a).toNat % 32
      (∀ m, ((rd a).toNat / 32 ≠ core ∨ s.crew core j = none) → s.ImageAt v i va 4 true m → BlockPlaced m →
        does (fun s1 => s.StatusOnly s1 m va 2)) ∧
      ∀ m y, (rd a).toNat / 32 = core → s.crew core j = some y →
        s.ImageAt v i va (imageLayout y.size (s.savedRanges core j y) (4096 * (y.accLen + y.grant.acc))).2.2 true m → BlockPlaced m →
        let ready := bit (s.core core).ctl.pready.toNat j = true ∧ s.saveReady core y = true
        (¬ready → does (fun s1 => s.StatusOnly s1 m va 1)) ∧
        (ready → s.sharesAcc core j y = true → does (fun s1 => s.StatusOnly s1 m va 3)) ∧
        (ready → s.sharesAcc core j y = false → s.Savable core y → does (fun s1 => s.CrewSaved s1 core j y m va))) ∧
    (i = .crestore d a → ∀ m0 m m1,
      let va := (l.readP d).toNat % 2 ^ 48
      let j := (rd a).toNat % 32
      let word (o : Nat) : Nat := s.getVa core m (va + o) 4
      let only (n : Nat) : Prop := does (fun s1 => s.StatusOnly s1 m va n)
      s.ImageAt v i va 64 false m0 → s.poisonIn m0 = none → s.ImageAt v i va (max (s.getVa core m0 (va + 28) 4) 64) false m →
      s.poisonIn m = none → BlockPlaced m → s.ImageAt v i va 4 true m1 →
      (s.savedFor v.isle (word 8) (s.getVa core m (va + 32) 6) va = none → only 11) ∧
      ∀ y, s.savedFor v.isle (word 8) (s.getVa core m (va + 32) 6) va = some y →
        let z := s.crewOfImage core m va y
        let bound := bit (word 12) 0 = true ∧ word 8 / 32 ≠ core
        let busy := (rd a).toNat / 32 ≠ core ∨ s.crew core j ≠ none ∨ (s.core core).returned.find j ≠ none
        (z.badHeader y.kgo word = true → only 11) ∧
        (z.badHeader y.kgo word = false → (bound → only 10) ∧
          (¬bound → (busy ∨ s.roomFor core z = none → only 9) ∧
            ∀ spad acc, ¬busy → s.roomFor core z = some (spad, acc) → does (fun s1 => s.CrewRestored s1 core j y m va spad acc)))) ∧
    (i = .scgset a n → ∀ h t s2 y,
      let want := wantOf i 0 64 0 true false
      s.LaneReaches core want (l.form core (s.coreCycle core) (s.core core).pts want a) h → t = h.page.getD (mPage h.pa) →
      (s.noteHit v h).readHome core t.mode t.lease h.pa 64 = (s2, y, false) →
      does (fun s1 => s.GroupWritten s1 (s.isleNo core) n.toNat y ∧ s.KeepsBytes s1)) ∧
    (i = .tlbinv a ext → ∃ s1, s.TlbDropped s1 (s.isleNo core) (invExtent ext (l.readP a)) ∧ exec i s = past (s1.onLane core (fun x =>
      { x with wait := .tlbinv (invExtent ext (l.readP a)) s.nextId }))) ∧
    (i = .atp d a → ∃ s1 u y, exec i s = .next u ∧ s.Walks s1 core ∧ s1.OnlyLane u core ∧
      AtpWord (s.translate core (s.isleNo core) ((l.readP a).toNat % 2 ^ 48)) ((l.readP a).toNat % 2 ^ 48) y ∧
      LaneAfter l (u.core core).lane false d (.p y) ∧ (u.core core).lane.pc = l.pc + 1)

/-! ### The events of the memory system -/

/-- LOAD_DATA_RETURN and STORE_PERFORMED (R144, R151 to R154, R156, R169, R345): arriving data is written to the registers of
the parts that arrive, each by itself, for a `ret` to the PC, and pops the stack; with the last part the flag falls; poisoned
data writes nothing and defers a MACHINE trap. A store is performed in an SRAM, in the L1 that owns the line or, where it
has taken its place at the home, is over; exactly its bytes change, an stx writes its status, the flag falls. The
fence operations end once nothing that they wait for is left, and an acquire then acquires (R341, R342). That a `ret` whose data
is poisoned leaves the PC and sp as they are is the model's choice (log 39). -/
def Obligations.LoadsAndStoresComplete : Prop :=
  ∀ (s : State) (id parts v : Nat) (o : MemOp) (w : Crew) (th : Thread),
    let takes (k : Nat) : Prop := k < 4 ∧ bit parts k = true ∧ bit o.parts k = true
    let line := lineOf o.addr
    let store : Prop := o.kind = .st ∨ o.kind = .stx ∨ o.kind = .stRel
    let ends (u : State) (y : Thread) (status : Nat) : Prop :=
      exec (.storePerformed id) s = .next u ∧ u.op id = none ∧ u.thread o.core o.slot o.tid = some y ∧
        y.flags = (th.dropFlag o.flag).flags ∧
        (if o.kind = .stx then y.reg o.dst = BitVec.ofNat 32 status ∧ ∀ n, n ≠ o.dst → y.reg n = th.reg n
         else ∀ n, y.reg n = th.reg n)
    s.op id = some o → s.Has o.core o.slot o.uid o.tid w th →
    (¬store → o.kind ≠ .fenceRel → o.kind ≠ .fenceAcq → o.value = some v →
      (o.poisoned = false → ∃ u y, exec (.loadDataReturn id parts) s = .next u ∧
        s.Becomes u { s with ops := u.ops } o.core o.slot o.tid (s.core o.core) w ∧ u.thread o.core o.slot o.tid = some y ∧
        y = { th with regs := y.regs, sp := y.sp, pc := y.pc, flags := y.flags } ∧
        (o.dst < 128 → y.pc = th.pc ∧ (∀ k, takes k → y.reg (o.dst + k) = o.kind.word v k) ∧
          ∀ n, (∀ k, takes k → n ≠ o.dst + k) → y.reg n = th.reg n) ∧
        (o.dst = dstPc → o.parts = 1 → bit parts 0 = true →
          y.pc = o.kind.word v 0 ∧ y.sp = th.sp + 4 ∧ y.regs = th.regs) ∧
        ((∀ k, k < 4 → bit o.parts k = true → bit parts k = true) →
          u.op id = none ∧ y.flags = (th.dropFlag o.flag).flags) ∧
        (∀ k, k < 4 → bit o.parts k = true → bit parts k = false → u.op id ≠ none ∧ y.flags = th.flags)) ∧
      (o.poisoned = true → ∃ u y, exec (.loadDataReturn id parts) s = .next u ∧
        s.Becomes u (s.dropOp id) o.core o.slot o.tid (s.core o.core) w ∧ u.thread o.core o.slot o.tid = some y ∧
        y = { th with
          deferred := th.deferred ++ [⟨o.pc, o.fault, o.detail ||| 0x800#32⟩], flags := (th.dropFlag o.flag).flags })) ∧
    (o.kind = .fenceRel → s.blocked o = false → exec (.storePerformed id) s = .next (s.dropOp id)) ∧
    (o.kind = .fenceAcq → s.blocked o = false →
      exec (.storePerformed id) s = .next ((s.acquire (clusterOf o.core) o.scope none).dropOp id)) ∧
    (store → o.value = some v → ∃ u y, ends u y v ∧ s.KeepsBytes u) ∧
    (store → o.value = none → s.blocked o = false →
      (o.stores = false → ∃ u y, ends u y 1 ∧ s.KeepsBytes u) ∧
      (o.stores = true → o.page = none → o.space = 1 →
        ∃ u y, ends u y 0 ∧ s.StoresBytes u (.pad (clusterOf o.core)) o.addr o.n o.data) ∧
      (o.stores = true → o.page = none → o.space = 2 → s.accReady o = true →
        ∃ u y, ends u y 0 ∧ s.StoresBytes u (.acc o.core) o.addr o.n o.data) ∧
      (∀ t x, o.stores = true → o.page = some t → t.mode = .dir → s.bankPage t line = false → o.cache ≠ 2 →
        s.ownerCopy line = some (clusterOf o.core, x) → (x.st = .m ∨ x.st = .e) → o.addr % 128 + o.n ≤ 128 →
        ∃ u y, ends u y 0 ∧ s.StoresBytes u .memory o.addr o.n o.data))

/-- Requests at a home and their answers (R155, R272, R273, R309, R314, R315, R321, R344): a read miss that is served takes
its value (noalloc) or is granted the line, E where no other filter matches it, else S; an ownership request is granted M; the
answer installs the line and gives a load its value; a store and an atomic at the bank change exactly their bytes, the atomic
with the old word as its value; a probe that finds an S copy is answered by the peer, and the home registers the requester or
has the install discarded. The model's choices: an `ldx` asks for ownership (log 44), and a registration is discarded also where the
line is owned, demoted or served (log 43). -/
def Obligations.HomeRequests : Prop :=
  ∀ (s : State) (id peer : Nat) (o : MemOp) (t : Tlb),
    let line := lineOf o.addr
    let cl := clusterOf o.core
    let s0 := s.touchHome line t.mode
    let ready : Prop := o.value = none ∧ o.reply = none ∧ s.blocked o = false
    let lineBytes (d : Nat) : Prop := ∀ k, k < 128 → getData d k 1 = s.byteIn .memory (128 * line + k)
    s.op id = some o → o.page = some t → o.addr % 128 + o.n ≤ 128 →
    (∀ s1, t.mode = .dir → o.kind.loads = true → o.kind ≠ .ldx → s0.wantsLine o = true → s.copyOf cl line = none →
      s0.serve o false [cl] = (s1, true) →
      ∃ u p, exec (.readRequest id) s = .next u ∧ s.KeepsBytes u ∧ u.op id = some p ∧
        ((o.cache = 2 ∨ s0.canInstall cl line = false) → p.value = some (s.bytesIn .memory o.addr o.n)) ∧
        (o.cache ≠ 2 → s0.canInstall cl line = true → ∃ r, p.reply = some r ∧ lineBytes r.data ∧
          r.kind = (if s0.matching line [cl] = [] ∧ o.held = false then .e else .s))) ∧
    (∀ s1, t.mode = .dir → (o.kind = .ldx ∨ ((o.kind = .st ∨ o.kind = .stRel ∨ (o.kind = .stx ∧ o.cmp ≠ 0)) ∧ o.cache ≠ 2)) →
      s0.wantsLine o = true → (∀ x, s.copyOf cl line = some x → x.st ≠ .m ∧ x.st ≠ .e) → s0.canInstall cl line = true →
      s0.serve o true [cl] = (s1, true) →
      ∃ u p r, exec (.ownershipRequest id) s = .next u ∧ u.op id = some p ∧ p.reply = some r ∧ r.kind = .m ∧
        lineBytes r.data ∧ (u.lines.find line).bind (fun h => h.owner) = some cl) ∧
    (∀ r, o.reply = some r → r.peer = false → s.canInstall cl line = true → s.olderDue cl (homeSlice o.addr) r.seq = false →
      (r.kind = .e ∨ r.kind = .m ∨ (r.kind = .s ∧ o.cache ≠ 2 ∧ ∀ y, s.copyOf cl line = some y → y.filled ≤ r.seq)) →
      ∃ u p, exec (.dataReply id) s = .next u ∧ u.op id = some p ∧ p.reply = none ∧
        (u.copyOf cl line).map (fun x => (x.st, x.data, x.keep)) =
          some (if r.kind = .e then .e else if r.kind = .m then .m else .s, r.data, o.cache) ∧
        (o.kind.loads = true → (o.kind ≠ .ldx ∨ r.kind ≠ .s) → p.value = some (getData r.data (o.addr % 128) o.n))) ∧
    (s0.timedLine line = false → ready → (o.kind = .st ∨ o.kind = .stRel ∨ (o.kind = .stx ∧ o.cmp ≠ 0)) →
      ((s0.atBank line t.mode = true ∧ s0.await line t.mode true = none) ∨
        (s0.atBank line t.mode = false ∧ (t.sc = true ∨ o.cache = 2) ∧ ∃ s2, (match s0.lines.find line with
          | some h => if h.owner = some cl ∧ o.cache = 2 then s0.flushOwner line true else s0
          | none => s0).serve o true (if o.cache = 2 then [cl] else []) = (s2, true))) →
      ∃ u p, exec (.homeWrite id) s = .next u ∧ s.StoresBytes u .memory o.addr o.n o.data ∧ u.op id = some p ∧
        p.value = some 0) ∧
    (∀ f acq rel, o.kind = .atom f acq rel → o.n = 4 → o.value = none → s.blocked o = false →
      ((s0.timedLine line = false ∧ ((t.mode = .uncached ∧ s0.await line .uncached true = none) ∨
          (t.mode ≠ .uncached ∧ ∃ s1, s0.serve o true [] = (s1, true)))) ∨
        (s0.timedLine line = true ∧ o.held = false ∧ s.heldBefore o = false ∧ (s0.flushOwner line false).guarded o = false)) →
      ∃ u p, exec (.atomicApply id) s = .next u ∧ u.op id = some p ∧ p.value = some (s.bytesIn .memory o.addr 4) ∧
        match p.poisoned, atomResult f (BitVec.ofNat 32 (s.bytesIn .memory o.addr 4)) (BitVec.ofNat 32 o.data)
            (BitVec.ofNat 32 (o.data >>> 32)) with
        | false, some y => s.StoresBytes u .memory o.addr 4 y.toNat
        | _, _ => s.KeepsBytes u) ∧
    (∀ x, t.mode = .dir → ready → o.kind.loads = true → o.cache ≠ 2 → peer ≠ cl → s.bankPage t line = false → o.held = false →
      s.hitCopy o t = none → s.pushShut peer line = false → s.canInstall cl line = true → s.copyOf peer line = some x → x.st = .s →
      ∃ u p, exec (.peerProbe id peer) s = .next u ∧ s.KeepsBytes u ∧ u.op id = some p ∧ p.reply =
        some { seq := 0, kind := .s, data := x.data, poison := x.poison, wts := x.wts, rts := x.rts, peer := true }) ∧
    (∀ r, o.reply = some r → r.peer = true →
      let kept : Prop := (∃ h, s.lines.find line = some h ∧ h.owner = none ∧ h.demote = false) ∧ s.serving line = false
      ∃ u p, exec (.peerForwardRegistration id) s = .next u ∧ s.KeepsBytes u ∧ u.op id = some p ∧
        (kept → u.matchesLine cl line = true ∧ p.reply = some { r with peer := false, kind := .s, seq := s.nextId }) ∧
        (¬kept → u.filters = s.filters ∧ p.reply = some { r with peer := false, kind := .none, seq := s.nextId }))

/-- Lines that leave an L1 (R156, R313, R314): an invalidated copy is gone and acknowledged; a recalled owner gives the line's
data to its home and keeps S or nothing, later where a reservation holds the line, at the latest when the deferral expires; a
writeback; a saturated filter empties its set; the filter sent then names every line that the set still holds. Every byte
stays as it was. -/
def Obligations.RecallsAndFilters : Prop :=
  ∀ (s : State) (cl line : Nat) (h : HomeLine) (x : L1Line),
    let free (u : State) : Prop := ∃ g, u.lines.find line = some g ∧ g.owner = none ∧ g.recalling = none
    s.lines.find line = some h →
    (cl ∈ h.invals → s.replyDue cl line = false → ∃ u, exec (.invalidate cl line) s = .next u ∧ u.copyOf cl line = none ∧
      (u.lines.find line).map (fun g => g.invals) = some (h.invals.filter (fun a => a != cl)) ∧
      (h.owner ≠ some cl → s.KeepsBytes u)) ∧
    (∀ toI due, h.recalling = some (toI, due) → s.ownerCopy line = some (cl, x) → s.replyDue cl line = false →
      (s.reservedIn cl line = false → ∃ u, exec (.recallLine cl line) s = .next u ∧ s.KeepsBytes u ∧ free u ∧
        u.copyOf cl line = if toI then none else some { x with st := .s }) ∧
      (s.reservedIn cl line = true → due = none →
        exec (.recallLine cl line) s = .next (s.onHome line (fun g => { g with recalling := some (toI, some (s.cycle + 64)) })))) ∧
    (∀ toI d, h.recalling = some (toI, some d) → s.ownerCopy line = some (cl, x) → d ≤ s.cycle →
      ∃ u, exec (.recallDeferralExpiry cl line) s = .next u ∧ s.KeepsBytes u ∧ free u ∧ u.reservedIn cl line = false ∧
        u.copyOf cl line = if toI then none else some { x with st := .s }) ∧
    (s.ownerCopy line = some (cl, x) → s.reservedIn cl line = false →
      ∃ u, exec (.writeback cl line) s = .next u ∧ s.KeepsBytes u ∧ free u ∧ u.copyOf cl line = none) ∧
    (∀ set slice, ∃ u, exec (.filterAck cl set slice) s = .next u ∧ s.KeepsBytes u ∧ ∀ n y, l1Set n = set →
      homeSlice (128 * n) = slice → u.copyOf cl n = some y → y.tracked = true → u.matchesLine cl n = true) ∧
    (∀ set slice, 24 < filterCount (FMap.get 0#32 s.filters (filterKey cl set slice)) →
      ∃ u, exec (.setRecall cl set slice) s = .next u ∧ s.KeepsBytes u ∧ ∀ n y, l1Set n = set →
        homeSlice (128 * n) = slice → u.copyOf cl n = some y → y.tracked = false)

/-- Leased lines (R316 to R320, R342, R426): a read extends the lease and is answered with it; a write takes a time past every
lease and the core's pts, or is held by the guard band; a swept cluster has no leased line; a swept write is performed; the
tick; a floor that has moved far drops the leases before it. A write changes exactly its bytes, the rest none. The
model's choices: the time of a line's first write (log 107), the tick in cycle 0 (log 42), and the writer's own copy after a write
(log 110). -/
def Obligations.Leases : Prop :=
  ∀ (s : State) (id core i cl : Nat) (o : MemOp) (t : Tlb),
    let line := lineOf o.addr
    let s0 := s.touchHome line .selfInv
    s.op id = some o → o.page = some t → t.mode = .selfInv → o.addr % 128 + o.n ≤ 128 →
    (∀ h, o.kind.loads = true → o.value = none → o.reply = none → s.blocked o = false → s0.bankPage t line = false →
      s.hitCopy o t = none → (s0.flushOwner line true).lines.find line = some h →
      (s0.flushOwner line true).canInstall (clusterOf o.core) line = true →
      let lease := Time.max h.rts (Time.max h.wts (s.core o.core).pts + BitVec.ofNat 24 t.lease)
      ∃ u p r, exec (.leaseRead id) s = .next u ∧ s.KeepsBytes u ∧ u.op id = some p ∧ p.reply = some r ∧ r.kind = .leased ∧
        r.wts = h.wts ∧ r.rts = lease ∧ (u.lines.find line).map (fun g => g.rts) = some lease ∧
        ∀ k, k < 128 → getData r.data k 1 = s.byteIn .memory (128 * line + k)) ∧
    ((o.kind = .st ∨ o.kind = .stRel ∨ (o.kind = .stx ∧ o.cmp ≠ 0)) → o.value = none → s.blocked o = false → o.held = false →
      s.heldBefore o = false →
      let s1 := s0.flushOwner line false
      (s1.guarded o = true → ∃ u p, exec (.leaseWrite id) s = .next u ∧ s.KeepsBytes u ∧ u.op id = some p ∧ p.held = true) ∧
      (s1.guarded o = false → ∃ u p, exec (.leaseWrite id) s = .next u ∧ s.StoresBytes u .memory o.addr o.n o.data ∧
        u.op id = some p ∧ p.value = some 0 ∧
        (∀ h, s1.lines.find line = some h → ∃ n, (u.lines.find line).map (fun g => (g.wts, g.rts)) = some (n, n) ∧
          (n = Time.max (s1.core o.core).pts (h.rts + 1) ∨ (s.raises line = true ∧ n = (s1.core o.core).pts))))) ∧
    (∀ n, o.held = true → s.timedLine line = true → s.isleOfMem o.addr = some i → n = s.writeTime o.core line →
      cl ∈ s.sweepSet i n → cl ∉ o.swept →
      ∃ u p, exec (.sweep id cl) s = .next u ∧ s.KeepsBytes u ∧ u.op id = some p ∧ p.swept = cl :: o.swept ∧
        (∀ l y, u.copyOf cl l = some y → y.tracked = true)) ∧
    (∀ n, (o.kind = .st ∨ o.kind = .stRel) → o.held = true → o.value = none → s.timedLine line = true →
      s.isleOfMem o.addr = some i →
      n = s.writeTime o.core line → (∀ a ∈ s.sweepSet i n, a ∈ o.swept) → s.ownerCopy line = none →
      ∃ u p, exec (.heldWriteRelease id) s = .next u ∧ s.StoresBytes u .memory o.addr o.n o.data ∧ u.op id = some p ∧
        p.value = some 0 ∧ p.held = false) ∧
    (s.coreCycle core % 1024 = 0 →
      exec (.ptsTick core) s = .next (s.onCore core (fun c => { c with pts := c.pts + 1 }))) ∧
    (2 ^ 16 ≤ (s.floor i - (s.isle i).floorSent).toNat → ∃ u, exec (.floorDelivery i) s = .next u ∧ s.KeepsBytes u ∧
      (u.isle i).floorSent = s.floor i ∧
      (∀ k, k < 96 → FMap.get 0#24 (u.isle i).mts k = atFloor (s.floor i) (FMap.get 0#24 (s.isle i).mts k)) ∧
      ∀ a ∈ s.isleClusters i, ∀ l y, u.copyOf a l = some y → y.tracked = true ∨ Time.before y.rts (s.floor i) = false)

/-- Pushes at homes and receivers (R275 to R283, R285 to R288): a push takes its place at the home, a pst with exactly its
bytes, a ppush with none, once a reserved line has been recalled; a receiver that holds the line takes the new data, one with a
read miss of it installs it, another within its quota, else refuses, which its cluster and the thread count; with the last answer the flag falls; each window starts the quota anew;
expired forwardings disarm their permits.
The model's choices: a fill carries the line as the home holds it at the answer (log 57), and an owner that is a receiver goes to I while
the sender's goes to S (log 56). -/
def Obligations.PushEvents : Prop :=
  ∀ (s : State) (push n : Nat) (p : Push) (w : Crew) (th : Thread),
    let line := lineOf p.addr
    let answered (u : State) : Prop := ∃ q, u.push push = some q ∧ q.recv = p.recv.filter (fun c => c != n)
    s.push push = some p →
    (p.merged = false → s.pushHeld p = false → s.serving line = false → s.homeRoom line = true → p.addr % 128 + p.n ≤ 128 →
      (s.ownerReserved line = true → ∃ toI, exec (.pushMergeAtHome push) s =
        .next (s.onHome line (fun h => { h with recalling := some (toI, none) }))) ∧
      (s.ownerReserved line = false → ∃ u q, exec (.pushMergeAtHome push) s = .next u ∧ u.push push = some q ∧ q.merged = true ∧ q.recv = p.recv ∧
        match p.data with
        | some v => s.StoresBytes u .memory p.addr p.n v
        | none => s.KeepsBytes u)) ∧
    (p.merged = true → n ∈ p.recv → s.olderDue n (homeSlice p.addr) p.seq = false → s.Has p.core p.slot p.uid p.tid w th →
      let c := s.cluster n
      let mine := s.isleOfCluster n = some p.isle
      let refuses : Prop := ∃ u y, exec (.pushFill push n) s = .next u ∧ answered u ∧ s.KeepsBytes u ∧
        (u.cluster n).refused = min (c.refused + 1) 0xFFFF ∧ (u.cluster n).l1 = c.l1 ∧
        u.thread p.core p.slot p.tid = some y ∧
        (th.life ≠ .exited → y.pushref = BitVec.ofNat 32 (min (th.pushref.toNat + 1) 0xFFFFFFFF))
      let holds (u : State) : Prop := (u.copyOf n line).map (fun x => x.data) = some (s.lineData line)
      (c.powered = false ∨ s.atBank line p.page.mode = true → refuses) ∧
      (c.powered = true → s.atBank line p.page.mode = false → s.holdsValid n line = false →
        ((s.missOut n line = false ∧ c.quota ≤ c.installs) ∨ s.canInstall n line = false ∨ ¬mine) → refuses) ∧
      (c.powered = true → s.atBank line p.page.mode = false → s.holdsValid n line = false → s.missOut n line = true →
        s.canInstall n line = true → mine →
        ∃ u, exec (.pushFill push n) s = .next u ∧ answered u ∧ holds u ∧ (u.cluster n).installs = c.installs) ∧
      (c.powered = true → s.atBank line p.page.mode = false → s.holdsValid n line = true → s.ownerCopy line = none →
        s.lines.find line ≠ none →
        ∃ u, exec (.pushFill push n) s = .next u ∧ answered u ∧ s.KeepsBytes u ∧ holds u ∧ (u.cluster n).installs = c.installs) ∧
      (c.powered = true → s.atBank line p.page.mode = false → s.holdsValid n line = false → s.missOut n line = false →
        c.installs < c.quota → s.canInstall n line = true → mine →
        ∃ u, exec (.pushFill push n) s = .next u ∧ answered u ∧ holds u ∧ (u.cluster n).installs = c.installs + 1)) ∧
    (p.merged = true → p.recv = [] → s.Has p.core p.slot p.uid p.tid w th →
      ∃ u, exec (.pushComplete push) s = .next u ∧
        s.Becomes u { s with pushes := s.pushes.filter (fun x => decide (x.id ≠ push)) } p.core p.slot p.tid (s.core p.core) w ∧
        u.thread p.core p.slot p.tid = some (th.dropFlag p.flag)) ∧
    (s.coreCycle (4 * n) % 1024 = 0 →
      exec (.quotaWindowStart n) s = .next (s.onCluster n (fun c => { c with installs := 0 }))) ∧
    (∀ f, s.forwards.find n = some f → f.till ≤ s.cycle → ∃ u, exec (.forwardEntryExpiry n) s = .next u ∧
      u.forwards.find n = none ∧ ∀ k ∈ f.permits, s.forwardOf (clusterOf f.oldCore) k = some f →
        (u.permit (clusterOf f.oldCore) k).fwd = true → (u.permit (clusterOf f.oldCore) k).armed = false) ∧
    (∀ k, (∀ f, s.forwardOf n k = some f → f.till ≤ s.cycle) → ∃ u, exec (.permitForwardExpiry n k) s = .next u ∧
      ((u.permit n k).fwd = true → (u.permit n k).armed = false) ∧
      ∀ j, j ≠ k → u.permit n j = s.permit n j)

/-- The copy engine (R288 to R290, R297 to R300, R303): the first queued copy starts; the elements of a line are read into
the store queue as their bytes stand; an element written changes exactly its bytes, one of a multicast those of each receiver that
has accepted, in its scratchpad or in the image of its owner; a spilled copy returns where its slot
matches, else is abandoned; a receiver of a multicast accepts under its permit or refuses; at the end the counter takes the
increment and the refusals, or the error, and the flag falls; a counter that reaches the target wakes its waiter. -/
def Obligations.CopyEvents : Prop :=
  ∀ (s : State) (id core : Nat) (c : Copy) (w : Crew) (th : Thread),
    let place (sp : Nat) : Place := if sp = 1 then .pad (clusterOf c.core) else .memory
    let fits (sp pa : Nat) : Prop := sp = 1 ∨ pa % 128 + c.bytes ≤ 128
    s.copy id = some c →
    ((s.copiesOf core).find? (fun x => x.isSpilled || decide (x.stage = .queued)) = some c → c.stage = .queued →
      exec (.copyStart core) s = .next (s.onCopy id (fun x => { x with stage := .running }))) ∧
    (let l := c.lineGroup (c.srcPa c.next / 128) (c.dstAt c.next / 128) (c.count - c.next) c.next
     c.stage = .running → (s.copiesOf c.core).foldl (fun n x => n + x.buf.length) 0 < 16 →
     s.readHeld c l = false → (∀ n ∈ l, fits c.ssp (c.srcPa n)) →
     (c.ssp = 1 ∨ s.await (lineOf (c.srcPa c.next)) (c.srcPage c.next).mode false = none) →
     ∃ u es, exec (.copyLineRead id) s = .next u ∧ s.KeepsBytes u ∧ es.map (fun e => e.idx) = l ∧
      (∀ e ∈ es, e.val = s.bytesIn (place c.ssp) (c.srcPa e.idx) c.bytes) ∧
      u.copy id = some { c with
        next := c.next + l.length, buf := c.buf ++ [es], stage := if c.count ≤ c.next + l.length then .ended else .running }) ∧
    (∀ e rest, c.buf = [e] :: rest → c.decided = true → s.writesHeld c [e.idx] = false → s.writeWaits c [e] = none →
      (c.mcast = false → fits c.dsp (c.dstPa e.idx) →
        ∃ u, exec (.copyLineWrite id) s = .next u ∧ s.StoresBytes u (place c.dsp) (c.dstPa e.idx) c.bytes e.val ∧
          u.copy id = some { c with buf := rest }) ∧
      (c.mcast = true → (∀ r ∈ c.recv, ∀ k b im, r.2 = .accepted k b im → im = none) →
        let pads := c.recv.filterMap (fun r => match r.2 with
          | .accepted k b _ => some (k, b + (c.dstAt e.idx).toNat)
          | _ => none)
        (pads.map Prod.fst).Nodup →
        ∃ u, exec (.copyLineWrite id) s = .next u ∧ u.copy id = some { c with buf := rest } ∧
          (∀ x ∈ pads, ∀ j, j < c.bytes → u.byteIn (.pad x.1) (x.2 + j) = bits e.val (8 * j + 7) (8 * j)) ∧
          ∀ pl a, (∀ x ∈ pads, pl = .pad x.1 → a < x.2 ∨ x.2 + c.bytes ≤ a) → u.byteIn pl a = s.byteIn pl a) ∧
      (∀ k v pa t, c.mcast = true → c.recv = [(k, v)] → s.imagePlace c e.idx v = some (pa, t) → pa % 128 + c.bytes ≤ 128 →
        ∃ u, exec (.copyLineWrite id) s = .next u ∧ s.StoresBytes u .memory pa c.bytes e.val ∧
          u.copy id = some { c with buf := rest })) ∧
    (∀ s1 x, c.isSpilled = true → (s.copiesOf c.core).find? Copy.isSpilled = some c →
      ((s.copiesOf c.core).filter (fun x => x.unread && !x.isSpilled)).length < 16 → (∀ y ∈ c.ring, y.1 % 128 + y.2.1 ≤ 128) →
      s.awaitLines (hitLines c.ringHits) false = none → State.readHits c.core c.ringHits s = (s1, x) →
      ∃ u, exec (.spillSlotReadback id) s = .next u ∧ s.KeepsBytes u ∧ u.copy id = some { c with
        stage := if s.poisonIn c.ringHits = none ∧ Config.slotCheck x = c.check then .queued else .abandoned }) ∧
    (let n := if c.mcast then c.recv.length else 1
     let refused := (c.recv.filter (fun r => decide (r.2 = .refused))).length
     let t := c.cpage.getD (mPage c.counter)
     let ends := c.stage = .ended ∧ c.buf = [] ∧ c.decided = true
     (ends ∨ c.stage = .abandoned) → s.Has c.core c.slot c.uid c.tid w th → c.counter % 128 + 16 ≤ 128 →
     s.await (lineOf c.counter) t.mode true = none →
     ∃ u y, exec (.copyComplete id) s = .next u ∧ u.copies = s.copies.filter (fun x => decide (x.id ≠ id)) ∧
      u.thread c.core c.slot c.tid = some y ∧ y.flags = (th.dropFlag c.flag).flags ∧
      (∀ b ∈ y.batches, id ∉ b.copies ∧ b.copies ≠ []) ∧
      ((s.readHome c.core t.mode t.lease c.counter 16).2.2 = false →
        s.StoresBytes u .memory c.counter 16
          (counterNext (s.bytesIn .memory c.counter 16) (if c.stage = .abandoned then 0 else c.inc * n)
            (if c.stage = .abandoned then 0 else refused) (decide (c.stage = .abandoned)))) ∧
      ((s.readHome c.core t.mode t.lease c.counter 16).2.2 = true → s.KeepsBytes u)) ∧
    (∀ k, c.recv.find k = some .waiting → c.buf ≠ [] →
      let p := s.permit k c.permit
      let inside : Prop := 0 ≤ c.dbase + walkLow (fun d => d.ds) c.dims ∧
        c.dbase + walkHigh (fun d => d.ds) c.dims + (c.bytes : Int) ≤ 256 * ((p.len : Int) + 1)
      let may : Prop := p.armed = true ∧ p.key = c.key ∧ inside ∧ s.isleOfCluster k = some c.isle ∧ (s.cluster k).powered = true
      let decides (v : Verdict) : Prop :=
        exec (.multicastDelivery id k) s = .next (s.onCopy id (fun x => { x with recv := x.recv.put k v }))
      (may → p.fwd = false → decides (.accepted k (256 * p.base) none)) ∧ (¬may → decides .refused)) ∧
    (∀ slot tid x pa target, s.thread core slot tid = some x → x.life = .parked (.counter pa target) →
      counterReached (s.peekNat pa 8) target = true →
      ∃ u, exec (.cwaitWake core slot tid) s = .next u ∧ s.KeepsBytes u ∧
        u.thread core slot tid = some { x with life := .ready })

/-! ### The events of the matrix unit -/

/-- The matrix unit's queue (R217, R218, R225 to R231): an operation enters with the next place in the order; the operands of a
k-step arrive, or wait for the home of a line, and with the last the signers go on; a k-step accumulates into each of the 128 by
128 words of the tile the products of its row and column; after the last the operation leaves the queue, its flags fall, and a
linked one arrives at its barrier; an operand fault traps every signer at its mma and sets the resume step; mmz zeroes its tile,
accld and accst copy their 512 bytes, the flag falls. That a k-step over a
poisoned accumulator word reads and writes it as any other and leaves it poisoned is the model's choice (log 22). -/
def Obligations.MatrixEvents : Prop :=
  ∀ (s : State) (core : Nat) (m : MatOp),
    let falls (t : State) : Prop := (t.core core).matQ = (s.core core).matQ.tail ∧
      ∀ tid flag w th, m.flags.filter (fun x => decide (x.1 = tid)) = [(tid, flag)] → s.Has core m.slot m.uid tid w th →
        ∃ y, t.thread core m.slot tid = some y ∧ y.flags = (th.dropFlag flag).flags
    let goOn (t : State) (u : MmaWork) : Prop := ∀ tid w th, (u.signers.find tid).isSome = true → s.Has core m.slot m.uid tid w th →
      ∃ y, t.thread core m.slot tid = some y ∧ m.id ∉ y.waitAll
    let arrives (t : State) (u : MmaWork) : Prop :=
      (t.core core).arrivals = (s.core core).arrivals ++ (if fLink u.fmt = true then [fBar u.fmt] else [])
    (∀ rest, (s.core core).matWait = m :: rest → (s.core core).matQ.length < 64 →
      exec (.mmaEnterQueue core) s = .next ({ s with nextId := s.nextId + 1 }.onCore core (fun c =>
        { c with matWait := rest, matQ := c.matQ ++ [{ m with ord := s.nextId }] }))) ∧
    (∀ u, s.headMma core = some (m, u) →
      (∀ s1 u1 whole, u.fetched < u.steps → State.fetchPieces core (u.pieces u.fetched) s u = .ok (s1, u1, whole) →
        ∃ t, exec (.mmaOperandArrival core) s = .next t ∧ s.KeepsBytes t ∧
          (whole = false → (t.core core).matQ = { m with kind := .mma u1 } :: (s.core core).matQ.tail) ∧
          (whole = true → (t.core core).matQ = { m with
            kind := .mma { u1 with fetched := u.fetched + 1 }, accepted := decide (u.fetched + 1 = u.steps) } ::
              (s.core core).matQ.tail ∧
            (u.fetched + 1 = u.steps → goOn t u))) ∧
      (u.steps ≤ u.step → ∃ t, exec (.mmaKstep core) s = .next t ∧ s.KeepsBytes t ∧ falls t ∧ goOn t u ∧ arrives t u) ∧
      (u.step < u.steps → u.step < u.fetched → ∃ t, exec (.mmaKstep core) s = .next t ∧
        (u.step + 1 < u.steps → ∃ g, (t.core core).matQ =
          { m with kind := .mma { u with step := u.step + 1, got := g } } :: (s.core core).matQ.tail) ∧
        (u.step + 1 = u.steps → falls t ∧ goOn t u ∧ arrives t u) ∧
        (∀ a, a < m.off ∨ m.off + 65536 ≤ a → t.byteIn (.acc core) a = s.byteIn (.acc core) a) ∧
        ∀ i n, i < 128 → n < 128 →
          let old : Word := if fInit u.fmt = true ∧ u.step = 0 then 0#32
            else BitVec.ofNat 32 (s.readAcc core (m.off + 512 * i + 4 * n) 4)
          BitVec.ofNat 32 (t.readAcc core (m.off + 512 * i + 4 * n) 4) =
            if isInt8 (fA u.fmt) = true then
              accInt (fSat u.fmt) old (u.ints (fA u.fmt) u.a u.step i) (u.ints (fB u.fmt) u.b u.step n)
            else accFloat (fSat u.fmt) old (u.floats (fA u.fmt) u.a u.sa u.step i) (u.floats (fB u.fmt) u.b u.sb u.step n)) ∧
      (∀ r tid w th a, u.fetched < u.steps → u.fetched ≤ u.step →
        State.fetchPieces core (u.pieces u.fetched) s u = .error r → s.Has core m.slot m.uid tid w th → th.life = .ready →
        u.signers.find tid = some a →
        ∃ t y z, exec (.mmaOperandFault core) s = .next t ∧ s.KeepsBytes t ∧ (t.core core).matQ = (s.core core).matQ.tail ∧
          t.thread core m.slot tid = some y ∧ y.life = .trapped ∧ y.trap = some z ∧ z.cause = r.cause ∧ z.tpc = a.tpc ∧
          z.rpc = a.rpc ∧ (∀ n, y.reg n = th.reg n) ∧
          (t.crew core m.slot).map (fun x => ((x.cv u.cv).rsm, (x.cv u.cv).rsmv)) = some (u.step, true))) ∧
    (s.headOther core = some m →
      (m.kind = .mmz → ∃ t, exec (.mmzExecute core) s = .next t ∧ s.StoresBytes t (.acc core) m.off 65536 0 ∧ falls t) ∧
      (∀ va pa t tid, m.kind = .accld va pa t tid → pa % 128 = 0 → s.rowWaits t pa false = none →
        ((State.readLines core t pa 4 s).2.2 = false → ∃ u, exec (.accldExecute core) s = .next u ∧ falls u ∧
          (∀ a, a < 512 → u.byteIn (.acc core) (m.off + a) = s.byteIn .memory (pa + a)) ∧
          ∀ p a, (p ≠ .acc core ∨ a < m.off ∨ m.off + 512 ≤ a) → u.byteIn p a = s.byteIn p a) ∧
        ((State.readLines core t pa 4 s).2.2 = true → ∀ w th, s.Has core m.slot m.uid tid w th →
          ∃ u y, exec (.accldExecute core) s = .next u ∧ s.KeepsBytes u ∧ u.thread core m.slot tid = some y ∧
            y.deferred = th.deferred ++ [⟨m.pc, BitVec.ofNat 48 va, m.detail ||| 0x800#32⟩])) ∧
      (∀ va pa t tid, m.kind = .accst va pa t tid → pa % 128 = 0 → s.rowWaits t pa true = none → ∃ u, exec (.accstExecute core) s = .next u ∧ falls u ∧
        (∀ a, a < 512 → u.byteIn .memory (pa + a) = s.byteIn (.acc core) (m.off + a)) ∧
        ∀ p a, (p ≠ .memory ∨ a < pa ∨ pa + 512 ≤ a) → u.byteIn p a = s.byteIn p a))

/-! ### Records, boundary traps, crews -/

/-- Trap records and boundary traps (R164, R168, R169, R248, R249, R263): a record that is due goes to the queue, or to the
spill ring, or its trap is held and the event raised, once no trap of the core comes before it; with it come, in the order of their
gangs' issue and then of the thread ids, the others that R164 holds back no more (R390), so that nothing is served between; a record
for the ring waits for its home like every other write there (R315); the oldest spilled record and the first held trap follow when there is
room; a deferred MACHINE trap and a WATCHDOG trap are taken at a boundary. -/
def Obligations.TrapsAndRecords : Prop :=
  ∀ (s : State) (core slot tid : Nat) (w : Crew) (th : Thread),
    let c := s.core core
    let record := th.record w.super (indexWord core slot tid) c.seq
    let next := c.ctl.ringPa (c.ringHead + c.ringCount)
    let marked (u : State) (r : RecState) : Prop := ∃ y, u.thread core slot tid = some y ∧
      y.trap = th.trap.map (fun t => { t with record := r }) ∧ ∀ n, y.reg n = th.reg n
    let traps (i : Instr) (cause : Nat) (detail : Word) (fault : BitVec 48) (tpc : Word) : Prop := ∃ u y z,
      exec i s = .next u ∧ s.Becomes u s core slot tid c w ∧ u.thread core slot tid = some y ∧ y.life = .trapped ∧
        y.trap = some z ∧ z.cause = cause ∧ z.detail = detail ∧ z.fault = fault ∧ z.tpc = tpc ∧ z.rpc = th.pcOf ∧
        ∀ n, y.reg n = th.reg n
    let alone : Prop := ∀ x ∈ s.dueTraps core, (x.2.1 = slot ∧ x.2.2 = tid) ∨ s.mayRecord core x.2.1 x.2.2 = false
    let trapped (x : Nat × Nat × Nat) : Prop := ∃ y z, s.thread core x.2.1 x.2.2 = some y ∧ y.trap = some z
    s.crew core slot = some w → w.threads.find tid = some th →
    (∀ t, th.trap = some t → t.record = .due → s.recordReady core slot w.uid tid = true → s.recordFirst core slot tid t.since = true →
      (∀ x ∈ s.dueTraps core, s.mayRecord core x.2.1 x.2.2 = true ∧ trapped x) → ((s.dueTraps core).map Prod.snd).Nodup →
      c.ringCount = 0 → c.held = [] → c.queue.length + (s.dueTraps core).length ≤ 256 →
      ∃ u, exec (.trapRecordMade core slot tid) s = .next u ∧ s.KeepsBytes u ∧ (u.core core).queue.map (fun r => r.index) =
        c.queue.map (fun r => r.index) ++ (s.dueOrder core).map (fun x => indexWord core x.2.1 x.2.2)) ∧
    (∀ t, th.trap = some t → t.record = .due → s.recordReady core slot w.uid tid = true → s.recordFirst core slot tid t.since = true →
      alone →
      (c.room = .queue → c.held = [] → ∃ u, exec (.trapRecordMade core slot tid) s = .next u ∧ s.KeepsBytes u ∧
        (u.core core).queue = c.queue ++ [record] ∧ (u.core core).seq = c.seq + 1 ∧ marked u (.made record)) ∧
      (c.room = .ring → c.held = [] → next % 128 + 32 ≤ 128 → ∃ u, exec (.trapRecordMade core slot tid) s = .next u ∧
        (s.await (lineOf next) .dir true = none → s.StoresBytes u .memory next 32 (record.bytes 0)) ∧
        (s.await (lineOf next) .dir true ≠ none → s.KeepsBytes u ∧ u.duties = s.duties ++ [.put core .dir next 32 (record.bytes 0)]) ∧
        (u.core core).ringCount = c.ringCount + 1 ∧
        (u.core core).seq = c.seq + 1 ∧ bit (u.core core).lane.ipend.toNat 2 = true ∧ marked u (.made record)) ∧
      (c.room = .none ∨ c.held ≠ [] → ∃ u, exec (.trapRecordMade core slot tid) s = .next u ∧ s.KeepsBytes u ∧
        (u.core core).held = c.held ++ [(slot, tid)] ∧ (u.core core).ctl.ovf = true ∧
        bit (u.core core).lane.ipend.toNat 2 = true ∧ marked u .held)) ∧
    (0 < c.ringCount → c.queue.length < 256 → c.ctl.ringPa c.ringHead % 128 + 32 ≤ 128 →
      s.await (lineOf (c.ctl.ringPa c.ringHead)) .dir false = none →
      ∃ u, exec (.spillRecordReturn core) s = .next u ∧ s.KeepsBytes u ∧
        (u.core core).queue = c.queue ++ [recOf (s.bytesIn .memory (c.ctl.ringPa c.ringHead) 32)] ∧
        (u.core core).ringCount = c.ringCount - 1 ∧
        (u.core core).ringHead = (c.ringHead + 1) % max c.ctl.qspilln.toNat 1) ∧
    (∀ l, c.held = (slot, tid) :: l → c.room = .queue → ∃ u, exec (.heldTrapRecord core) s = .next u ∧ s.KeepsBytes u ∧
      (u.core core).queue = c.queue ++ [record] ∧ (u.core core).held = l ∧ marked u (.made record)) ∧
    (∀ d l, th.deferred = d :: l → th.atBoundary s = true →
      traps (.deferredMachineTrap core slot tid) causeMachine d.detail d.fault d.pc) ∧
    (th.deferred = [] → th.atBoundary s = true → s.watchdogDue core th = true →
      traps (.watchdogExpiry core slot tid) causeWatchdog (BitVec.ofNat 32 th.wdcount) 0#48 th.pcOf)

/-- What happens to crews between instructions (R36, R145, R177, R202, R256, R257, R261, R262): the grace of a pre-emption
stops every running thread at its next boundary; a crew that has stopped is ready to save; a slice expires; a freeze is complete;
a leaving thread has exited, and with the last one the crew leaves its slot, what it held free in the next cycle (R174), and a
launched kernel is reported done (R251); the head of the grant queue is granted, with registers that
read zero and the limits of seg.1 and seg.2 raised; a join whose patience is over is lost. The model's choices: a thread that has issued
exit retires without its deferred MACHINE trap (log 93), and waiting signers and leaving threads count as frozen (log 23). -/
def Obligations.CrewEvents : Prop :=
  ∀ (s : State) (core slot tid rm : Nat) (w : Crew) (th : Thread),
    let c := s.core core
    let stays (u : State) : Prop := ∀ k, u.thread core slot k = s.thread core slot k
    s.crew core slot = some w → slot < 32 →
    (∀ t, w.preempt = some t → t + 20000 ≤ s.cycle → ∃ u, exec (.preemptGraceExpiry core slot) s = .next u ∧ s.KeepsBytes u ∧
      ∀ k x, w.threads.find k = some x → (x.life = .ready → u.thread core slot k = some { x with stopDue := true }) ∧
        (x.life = .trapped → u.thread core slot k = some x)) ∧
    (w.preempt ≠ none → s.saveReady core w = true → ∃ u, exec (.crewReadyToSave core slot) s = .next u ∧ stays u ∧
      bit (u.core core).ctl.pready.toNat slot = true) ∧
    (w.super = false → w.isFrozen = false → w.sliceDue = false → c.ctl.slice.toNat ≠ 0 → c.ctl.slice.toNat ≤ w.slice →
      ((∀ x ∈ w.threads, ∀ z, x.2.trap = some z → z.mark ≠ 0) → ∃ u, exec (.sliceExpiry core slot) s = .next u ∧ stays u ∧
        bit (u.core core).ctl.sliceexp.toNat slot = true ∧ (u.crew core slot).map (fun x => x.slice) = some 0) ∧
      ((∃ x ∈ w.threads, ∃ z, x.2.trap = some z ∧ z.mark = 0) → ∃ u, exec (.sliceExpiry core slot) s = .next u ∧
        (u.core core).ctl = c.ctl ∧ (u.crew core slot).map (fun x => x.sliceDue) = some true)) ∧
    (w.freeze = .wanted → (∀ x ∈ w.threads, x.2.frozenStill = true) → ∃ u, exec (.debugFreezeComplete core slot) s = .next u ∧
      stays u ∧ (u.crew core slot).map (fun x => x.freeze) = some .done ∧ bit (u.core core).ctl.dbgstat.toNat slot = true ∧
      bit (u.core core).lane.ipend.toNat 7 = true) ∧
    (w.threads.find tid = some th → th.leaving = true → th.idleAll 4095 = true → s.quietThread core slot w.uid tid = true →
      w.threads.sorted = true →
      ((∃ k x, k ≠ tid ∧ w.threads.find k = some x ∧ x.life ≠ .exited) → ∃ u, exec (.exitRetire core slot tid) s = .next u ∧
        s.OneThread u core slot tid w ∧ u.thread core slot tid = some { th with life := .exited, leaving := false, rsv := none }) ∧
      ((∀ x ∈ w.threads, x.1 = tid ∨ x.2.life = .exited) → (∀ m ∈ c.matQ ++ c.matWait, m.uid ≠ w.uid) →
        (∀ o ∈ s.copies, o.core = core → o.uid ≠ w.uid) → ∃ u, exec (.exitRetire core slot tid) s = .next u ∧
          u.crew core slot = none ∧ (∃ y, (u.core core).returned.find slot = some y ∧ y.uid = w.uid ∧ y.grant = w.grant) ∧
          slot ∉ (u.core core).grantQ ∧ (u.core core).asks = true ∧ bit (u.core core).ctl.pready.toNat slot = false ∧
          (w.kgo = true → bit (u.core core).ctl.kdone.toNat slot = true) ∧
          ∀ j, j ≠ slot → (u.crew core j).map (fun x => x.uid) = (s.crew core j).map (fun x => x.uid))) ∧
    (∀ r rest, c.grantQ = slot :: rest → w.request = some r → s.blocksUsed core + w.rows * reqRegs r ≤ 512 →
      (reqAcc r = 0 ∨ s.accFree core w.accEnd (reqAcc r) = true) →
      (reqScratch r = 0 ∨ s.spadFree (clusterOf core) w.spadEnd (reqScratch r) = true) →
      ∃ u, exec (.racqGrant core) s = .next u ∧ s.KeepsBytes u ∧ (u.core core).grantQ = rest ∧
        (∃ W, u.crew core slot = some W ∧ W.grant = { regs := reqRegs r, scratch := reqScratch r, acc := reqAcc r } ∧
          W.request = none) ∧
        ∀ k x, w.threads.find k = some x → ∃ y, u.thread core slot k = some y ∧
          (∀ n, n < 64 → y.reg n = x.reg n) ∧ (∀ n, 64 ≤ n → n < 96 → y.reg n = 0#32) ∧
          y.segs = fittedSegs (if reqScratch r = 0 then none else some (w.spadLen + reqScratch r))
            (if reqAcc r = 0 then none else some (w.accLen + reqAcc r)) x.segs ∧
          (x.life = .parked .grant → y.life = .ready)) ∧
    (w.rmExpires rm = true → ∃ u, exec (.joinPatienceExpiry core slot rm) s = .next u ∧ s.KeepsBytes u ∧
      (u.crew core slot).map (fun x => x.rm rm) =
        some { w.rm rm with lost := w.rmMissing rm, gen := (w.rm rm).gen + 1, isOpen := false } ∧
      ∀ k x, w.threads.find k = some x → ∃ y, u.thread core slot k = some y ∧
        ((∃ g, x.life = .parked (.rejoin rm g)) → y.life = .ready) ∧ (x.life = .ready → y = x))

/-- Interrupts and translations (R240, R242, R243, R325, R327, R411, R412): the timer's level; the lowest pending enabled interrupt is
taken in S mode at level 0, with the PC, the cause and the old enable saved; a wfi ends; a tlbinv ends when no operation
holds a translation that it removes; a walk's leaf is kept in the TLB. The model's choices: what the
boot ROM's lane does that waits for its mailbox (log 8), and the zeros in ctl.bfault and ctl.bdetail at an interrupt (log 113). -/
def Obligations.InterruptsAndTranslations : Prop :=
  ∀ (s : State) (core slot tid va : Nat) (w : Crew) (th : Thread),
    let c := s.core core
    let l := c.lane
    (∃ u, exec (.timerCompare core) s = .next u ∧ s.OnlyLane u core ∧
      ∀ k, k < 64 → bit (u.core core).lane.ipend.toNat k =
        if k = 0 then decide (l.timecmp.toNat ≤ s.coreCycle core) else bit l.ipend.toNat k) ∧
    (l.mode = .s → l.exl = false → l.ie = true → c.wanted ≠ 0 → (l.wait = .none ∨ l.wait = .wfi) →
      ∃ u, exec (.interruptEntry core) s = .next u ∧ s.KeepsBytes u ∧ (u.core core).lane = { l with
        bepc := BitVec.setWidth 64 l.pcOf, bcause := BitVec.ofNat 64 (0x40 + lowBit c.wanted), bfault := 0, bdetail := 0,
        pie := true, ie := false, pmode := 1#2, exl := true, pc := lo32 l.bvec, bind := none, rsv := none, wait := .none }) ∧
    (c.wanted ≠ 0 →
      (l.wait = .wfi → ∃ u, exec (.wfiWake core) s = .next u ∧ s.OnlyLane u core ∧
        (u.core core).lane = { l with wait := .none }) ∧
      (l.wait = .mailbox → ∃ u, exec (.wfiWake core) s = .next u ∧ s.OnlyLane u core ∧
        (u.core core).lane = { l with wait := .none, pc := FMap.get 0#32 s.board.mailbox core, segs := s.imageSegs })) ∧
    (∀ e upto,
      (s.crew core slot = some w → w.threads.find tid = some th → th.sysWait = .tlbinv e upto →
        (s.tlbHolders (s.isleNo core) e upto = false → ∃ u, exec (.tlbinvComplete (.thread core slot tid)) s = .next u ∧
          s.OneThread u core slot tid w ∧ u.thread core slot tid = some { th with sysWait := .none }) ∧
        (s.tlbHolders (s.isleNo core) e upto = true → exec (.tlbinvComplete (.thread core slot tid)) s = .next s)) ∧
      (l.wait = .tlbinv e upto →
        (s.tlbHolders (s.isleNo core) e upto = false → ∃ u, exec (.tlbinvComplete (.lane core)) s = .next u ∧
          s.OnlyLane u core ∧ (u.core core).lane = { l with wait := .none }) ∧
        (s.tlbHolders (s.isleNo core) e upto = true → exec (.tlbinvComplete (.lane core)) s = .next s))) ∧
    (∀ i t level, s.isleOfCore core = some i → s.walk i (va % 2 ^ 48) = .leaf t level → t.covers (va % 2 ^ 48) = true →
      ∃ u, exec (.pageWalk core va) s = .next u ∧ s.KeepsBytes u ∧ u.tlbHit core (va % 2 ^ 48) = some t)

/-- Tasks between instructions (R356 to R358, R364, R385 to R387): the first queued piece that fits is placed, with its crews, and
leaves its queue; an overdue one lets no later one pass; pieces rise a class with age; a core that asks takes a piece of the nearest
cluster that has one, or the upper half of a piece that is split; a requested move is made once the crew has stopped, or refused with
its reason. -/
def Obligations.TaskEvents : Prop :=
  ∀ (s : State) (core slot n : Nat) (q : Queued) (pre rest : List Queued) (t : Task) (w : Crew) (m : MoveReq),
    let own := clusterOf core
    let here : Task → List Nat := fun _ => coresOf n
    let asking : Task → List Nat := askCores core
    let asked (u : State) : Prop := (u.core core).asks = false
    let idle := s.onCore core (fun c => { c with asks := false })
    let reports (u : State) (k : Nat) : Prop :=
      (u.core core).moves = (s.core core).moves.filter (fun x => x != m) ∧ (u.task w.task).map (fun x => x.mstat) = some k
    ((s.cluster n).order = pre ++ q :: rest → s.PassedOver pre here →
      (s.Fits q t (here t) → t.id = q.task → t.Homed (here t) → ∃ u, exec (.piecePlacement n) s = .next u ∧
        s.PiecePlaced u t q.lo q.hi (here t) ∧ (u.cluster n).queue = (s.cluster n).queue.filter (fun x => decide (x ≠ q))) ∧
      ((∀ x, ¬s.Fits q x (here x)) → s.overdue q = true → exec (.piecePlacement n) s = .next s)) ∧
    (∃ u, exec (.pieceAging n) s = .next u ∧ s.KeepsBytes u ∧ (u.cluster n).queue = (s.cluster n).queue.map (fun x =>
      if x.cls < 3 ∧ x.since + 2 ^ 20 ≤ s.cycle then { x with cls := x.cls + 1, since := s.cycle } else x)) ∧
    (∀ i, (s.core core).asks = true → s.isleOfCore core = some i → s.freeSlot core ≠ none →
      (idle.placeFirst own [core] (s.cluster own).order ≠ none → ∃ u, exec (.askForWork core) s = .next u ∧ asked u ∧ s.SameCrews u) ∧
      (idle.placeFirst own [core] (s.cluster own).order = none →
        let others := nearFirst own ((s.isleClusters i).filter (fun k => decide (dieOfCore (4 * k) = dieOfCore core) && decide (k ≠ own)))
        (∀ near far, others = near ++ n :: far → (∀ k ∈ near, idle.takeFirst core k (s.cluster k).order = none) →
          (s.cluster n).order = pre ++ q :: rest → idle.PassedOver pre asking → idle.Fits q t (asking t) → t.id = q.task →
          t.Homed (asking t) → ∃ u, exec (.askForWork core) s = .next u ∧ asked u ∧ s.PiecePlaced u t q.lo q.hi (asking t) ∧
            (u.cluster n).queue = (s.cluster n).queue.filter (fun x => decide (x ≠ q))) ∧
        ((∀ k ∈ others, idle.takeFirst core k (s.cluster k).order = none) →
          (idle.victims core i (dieOfCore core) = [] → ∃ u, exec (.askForWork core) s = .next u ∧ asked u ∧ s.SameCrews u) ∧
          (∀ k p, idle.splitVictim core i (dieOfCore core) = some (k, p, t) → k < s.nextId → s.task t.id = some t → t.isle = i →
            (s.domain i (dieOfCore core)).pieces.find k = some p →
            t.Homed (asking t) →
            let mid := p.cur + (p.hi - p.cur) / 2
            ∃ u, exec (.askForWork core) s = .next u ∧ asked u ∧ s.PiecePlaced u t mid p.hi (asking t) ∧
              ((u.domain i (dieOfCore core)).pieces.find k).map (fun x => (x.cur, x.hi)) = some (p.cur, mid))))) ∧
    ((s.core core).moves.find? (fun x => decide (x.slot = slot)) = some m →
      (s.crew core slot = none → (s.task m.task).isSome = true → ∃ u, exec (.crewMove core slot) s = .next u ∧ s.SameCrews u ∧
        (u.task m.task).map (fun x => x.mstat) = some 1) ∧
      (s.crew core slot = some w → w.uid = m.uid → s.task w.task = some t →
        (s.moveRefusal core slot w m.dest = none →
          (s.moveReady core slot w = true → ∃ u, exec (.crewMove core slot) s = .next u ∧ reports u 0 ∧
            s.CrewMoved u core slot m.dest w) ∧
          (s.moveReady core slot w = false → exec (.crewMove core slot) s = .next s)) ∧
        (∀ k, s.moveRefusal core slot w m.dest = some k → ∃ u, exec (.crewMove core slot) s = .next u ∧ reports u k ∧
          s.SameCrews u)))

/-! ### The events of the fabric and of the package -/

/-- The fabric engine and the devices (R415 to R417, R421 to R424): the source is read as its bytes stand and the flag falls;
a request is served at a member of this package, which writes its bytes, gives them, or refuses it with the outcome of R421; the
operation ends with its local bytes and its counter, which takes the error on any other outcome; a contribution enters its generation,
ends it, or is too late; a generation past its limit is abandoned, and is closed at once also where the home of a contributor's counter is busy,
which is told when it is free; peers and drives write exactly their bytes, and their completions
raise the device interrupt on the isle's cores that they name. The model's choices: generations and second contributions (log 64), windows
at acceptance and at arrival (log 65), rcnt with its low four bits ignored (log 66), refusals of a multicast (log 69), the layout
of the regions (log 94). -/
def Obligations.FabricEvents : Prop :=
  ∀ (s : State) (op : Nat) (f : FabOp) (w : Crew) (th : Thread) (reply : FabReply),
    let d := f.desc
    let t := f.cpage.getD (mPage f.counter)
    let free : Prop := s.endWaits [f] none = none
    let gone (u : State) : Prop := u.fabs = s.fabs.filter (fun x => decide (x.id ≠ op))
    let fails (i : Instr) (outcome : Nat) (gen : Word) : Prop := ∃ u, exec i s = .next u ∧ gone u ∧
      ((s.readHome f.core t.mode t.lease f.counter 32).2.2 = false → s.StoresBytes u .memory f.counter 32
        (counterNext (s.bytesIn .memory f.counter 16) 0 0 true + fabStatus outcome gen 0 * 2 ^ 128)) ∧
      ((s.readHome f.core t.mode t.lease f.counter 32).2.2 = true → s.KeepsBytes u)
    let succeeds (i : Instr) (n refused : Nat) : Prop := ∃ u, exec i s = .next u ∧ gone u ∧
      ((s.readHome f.core t.mode t.lease f.counter 16).2.2 = false → s.StoresBytes u .memory f.counter 16
        (counterNext (s.bytesIn .memory f.counter 16) n refused false)) ∧
      ((s.readHome f.core t.mode t.lease f.counter 16).2.2 = true → s.KeepsBytes u)
    let apart (pages : List Tlb) (va n pa : Nat) : Prop := ∀ k, k < n → ∀ j, j < 16 → extentPa pages va k ≠ pa + j
    let clean (core : Nat) (pages : List Tlb) (va n : Nat) : Prop := (State.readParts core pages (extentParts va n) s).2.all (fun b => !b.bad) = true
    s.fab op = some f → f.counter % 128 + 32 ≤ 128 →
    (f.kind.sends = true → f.src = none → s.fabHeld f f.lpages false d.laddr = false →
      s.partsWait f.lpages (extentParts d.laddr d.len) false = none → ExtentPlaced f.lpages d.laddr d.len →
      s.Has f.core f.slot f.uid f.tid w th →
      ∃ u g y bs, exec (.fabricSourceRead op) s = .next u ∧ s.KeepsBytes u ∧ u.fab op = some g ∧ g.src = some bs ∧
        bs.length = d.len ∧ s.ExtentHolds f.lpages d.laddr (bs.map (fun b => b.val)) ∧
        u.thread f.core f.slot f.tid = some y ∧ y.flags = (th.dropFlag f.flag).flags) ∧
    (∀ n m, f.members[n]? = some m → s.localMember m = true → f.served.find n = none →
      let e : Instr := .fabricRemoteRequest (.own op n)
      let wins := FMap.get [] f.wins m.2
      let answers (u : State) (o : Nat) (bs : List Byte) : Prop := u.fabs = s.fabs.map (fun x =>
        if x.id = op then { x with served := x.served.put n o, back := bs } else x)
      let refuses (o : Nat) : Prop := ∃ u, exec e s = .next u ∧ answers u o [] ∧ s.KeepsBytes u
      (∀ bs, (f.kind = .put ∨ f.kind = .mcast) → f.src = some bs →
        ((s.isle m.2).inReset = true → refuses 7) ∧
        ((s.isle m.2).inReset = false → inWindows wins (fun g => g.wr) d.raddr bs.length = false → refuses 2) ∧
        ((s.isle m.2).inReset = false → d.rcnt = 0 → inWindows wins (fun g => g.wr) d.raddr bs.length = true →
          s.remotePages m.2 d.raddr bs.length false true = none → refuses 3) ∧
        (∀ pages, d.rcnt = 0 → s.TargetMay m.2 wins d.raddr bs.length false true (fun g => g.wr) (extentParts d.raddr bs.length) pages →
          ∃ u, exec e s = .next u ∧ answers u 0 [] ∧ s.ExtentWritten u pages d.raddr (bs.map (fun b => b.val))) ∧
        (∀ pages cpages lf lv, let c := d.rcnt / 16 * 16
          d.rcnt ≠ 0 → s.TargetMay m.2 wins d.raddr bs.length false true (fun g => g.wr) [] pages →
          inWindows wins (fun g => g.wr) c 32 = true → s.remotePages m.2 c 32 true true = some cpages →
          s.partsWait (cpages ++ pages) ((c, 16) :: extentParts d.raddr bs.length) true = none →
          s.walk m.2 d.rcnt = .leaf lf lv → lf.pa c % 128 + 16 ≤ 128 → apart pages d.raddr bs.length (lf.pa c) →
          ∃ u, exec e s = .next u ∧ answers u 0 [] ∧ u.ExtentHolds pages d.raddr (bs.map (fun b => b.val)) ∧
            s.Counted u (lf.pa c) 1 0)) ∧
      (f.kind = .get →
        ((s.isle m.2).inReset = true → refuses 7) ∧
        ((s.isle m.2).inReset = false → inWindows wins (fun g => g.rd) d.raddr d.len = false → refuses 2) ∧
        ((s.isle m.2).inReset = false → inWindows wins (fun g => g.rd) d.raddr d.len = true →
          s.remotePages m.2 d.raddr d.len true false = none → refuses 3) ∧
        (∀ pages, s.TargetMay m.2 wins d.raddr d.len true false (fun g => g.rd) (extentParts d.raddr d.len) pages →
          (clean f.core pages d.raddr d.len → ∃ u bs, exec e s = .next u ∧ answers u 0 bs ∧ s.KeepsBytes u ∧ bs.length = d.len ∧
            s.ExtentHolds pages d.raddr bs) ∧
          (¬clean f.core pages d.raddr d.len → refuses 4))) ∧
      (f.kind = .atom →
        let k := if d.wide = true then 8 else 4
        ((s.isle m.2).inReset = true → refuses 7) ∧
        (∀ pages, s.TargetMay m.2 wins d.raddr k true true (fun g => g.at') [(d.raddr, k)] pages → d.raddr % k = 0 →
          let p := pageFor pages d.raddr
          p.pa d.raddr % k = 0 →
          let old := s.bytesIn .memory (p.pa d.raddr) k
          ((s.readHome f.core p.mode p.lease (p.pa d.raddr) k).2.2 = false → ∃ u, exec e s = .next u ∧ answers u 0 (leBytes k old) ∧
            s.StoresBytes u .memory (p.pa d.raddr) k (fabAtomNew d.sub d.wide old d.op1.toNat d.op2.toNat)) ∧
          ((s.readHome f.core p.mode p.lease (p.pa d.raddr) k).2.2 = true → refuses 4)))) ∧
    (∀ isle raddr verb, (s.isle isle).inReset = true → exec (.fabricRemoteRequest (.outside isle raddr verb)) s = .next s) ∧
    (∀ isle raddr bs pages, s.TargetMay isle (s.isle isle).windows raddr bs.length false true (fun g => g.wr)
        (extentParts raddr bs.length) pages →
      ∃ u, exec (.fabricRemoteRequest (.outside isle raddr (.put bs 0))) s = .next u ∧
        s.ExtentWritten u pages raddr (bs.map (fun b => b.val))) ∧
    (∀ isle raddr n, (s.isle isle).inReset = false → ∃ u, exec (.fabricRemoteRequest (.outside isle raddr (.get n))) s = .next u ∧
      s.KeepsBytes u) ∧
    (∀ isle raddr pages sub wide op1 op2, let k := if wide = true then 8 else 4
      s.TargetMay isle (s.isle isle).windows raddr k true true (fun g => g.at') [(raddr, k)] pages → raddr % k = 0 →
      let p := pageFor pages raddr
      p.pa raddr % k = 0 → (s.readHome (s.engineCore isle) p.mode p.lease (p.pa raddr) k).2.2 = false →
      ∃ u, exec (.fabricRemoteRequest (.outside isle raddr (.atom sub wide op1 op2))) s = .next u ∧ s.StoresBytes u .memory (p.pa raddr) k
        (fabAtomNew sub wide (s.bytesIn .memory (p.pa raddr) k) op1.toNat op2.toNat)) ∧
    (∀ outcome bs, f.kind ≠ .red → f.kind ≠ .mcast → s.fabOutcome f reply = some (outcome, bs) → free →
      (outcome ≠ 0 → fails (.fabricComplete op reply) outcome 0#32) ∧
      (outcome = 0 → f.kind = .put → succeeds (.fabricComplete op reply) 1 0) ∧
      (outcome = 0 → f.kind ≠ .put → bs.length = d.len → s.fabHeld f f.lpages true d.laddr = false →
        s.partsWait f.lpages (extentParts d.laddr d.len) true = none → ExtentPlaced f.lpages d.laddr d.len →
        apart f.lpages d.laddr d.len f.counter → ∃ u, exec (.fabricComplete op reply) s = .next u ∧ gone u ∧
          u.ExtentHolds f.lpages d.laddr bs ∧ s.Counted u f.counter 1 0)) ∧
    (let mine := placesOf s.localMember f.members
     let good := (mine.filter (fun k => decide (f.served.find k = some 0))).length
     f.kind = .mcast → f.src ≠ none → (∀ k ∈ mine, f.served.find k ≠ none) →
     reply.accepted + reply.refused ≤ f.members.length - mine.length → (reply.outcome ≠ 1 ∨ mine ≠ []) → free →
     succeeds (.fabricComplete op reply) (good + reply.accepted) (mine.length - good + reply.refused)) ∧
    (f.kind ≠ .red → (∀ m ∈ f.members, s.localMember m = false) → f.since + 2 ^ 24 ≤ s.cycle →
      (f.kind.sends = true → f.src ≠ none) → free → fails (.fabricUnreachable op) 1 0#32) ∧
    (let enters (e : Instr) (g : Nat) (gen : Word) (limit : Nat) (c : Contrib) : Prop :=
       let x := FMap.get { limit := limit, since := s.cycle, got := [] } (s.reduction g).pending gen.toNat
       let y : Gather := { x with got := x.got ++ [c] }
       s.Contributes e g gen limit c x y (s.ownOps y.got)
     (∀ bs, f.kind = .red → f.src = some bs → f.contributed = false → s.fabHeld f f.rpages true d.raddr = false →
       let g := d.tgt % 256
       (genAfter d.gen (s.reduction g).closed = false → free → fails (.reductionContribution (.own op)) 6 d.gen) ∧
       (genAfter d.gen (s.reduction g).closed = true → enters (.reductionContribution (.own op)) g d.gen f.limit
         { member := s.memberOf f, members := f.members, own := some op, sub := d.sub, len := d.len, data := bs })) ∧
     (∀ g member members gen sub len limit data, data.length = len →
       let e : Instr := .reductionContribution (.outside g member members gen sub len limit data)
       (genAfter gen (s.reduction g).closed = false → exec e s = .next s) ∧
       (genAfter gen (s.reduction g).closed = true → enters e g gen limit
         { member := member, members := members, own := none, sub := sub, len := len, data := data }))) ∧
    (∀ g gen x, (s.reduction g).pending = [(gen, x)] → gen < 2 ^ 32 → x.since + x.limit ≤ s.cycle →
      s.endWaits (s.ownOps x.got) none = none →
      ∃ u, exec (.reductionTimeout g) s = .next u ∧ (u.reduction g).closed = BitVec.ofNat 32 gen ∧ (u.reduction g).pending = [] ∧
        (∀ h ∈ s.ownOps x.got, u.fab h.id = none) ∧
        (s.ownOps x.got = [f] → (s.readHome f.core t.mode t.lease f.counter 32).2.2 = false → s.StoresBytes u .memory f.counter 32
          (counterNext (s.bytesIn .memory f.counter 16) 0 0 true + fabStatus 5 (BitVec.ofNat 32 gen) x.mask * 2 ^ 128))) ∧
    (∀ g gen x s1, (s.reduction g).pending = [(gen, x)] → gen < 2 ^ 32 → x.since + x.limit ≤ s.cycle →
      s.endWaits (s.ownOps x.got) none = some s1 →
      ∃ u, exec (.reductionTimeout g) s = .next u ∧ s.KeepsBytes u ∧ (u.reduction g).closed = BitVec.ofNat 32 gen ∧
        (u.reduction g).pending = [] ∧
        (s.ownOps x.got = [f] → u.fab op = some { f with failing := some (5, BitVec.ofNat 32 gen, x.mask) })) ∧
    (∀ bs outcome gen mask, f.kind = .red → f.src = some bs → f.contributed = true → f.failing = some (outcome, gen, mask) → free →
      ∃ u, exec (.reductionContribution (.own op)) s = .next u ∧ gone u ∧
        ((s.readHome f.core t.mode t.lease f.counter 32).2.2 = false → s.StoresBytes u .memory f.counter 32
          (counterNext (s.bytesIn .memory f.counter 16) 0 0 true + fabStatus outcome gen mask * 2 ^ 128))) ∧
    (∀ qp key va (data : List Byte) i, (s.board.pair qp).isle = some i →
      let may (n : Nat) (rd wr : Bool) (ok : Machine.Grants → Bool) (parts : List (Nat × Nat)) (pages : List Tlb) : Prop :=
        (s.isle i).peerMay key va n ok = true ∧ s.remotePages i va n rd wr = some pages ∧ s.partsWait pages parts wr = none ∧
          ExtentPlaced pages va n
      (∀ pages, may data.length false true (fun g => g.wr) (extentParts va data.length) pages →
        (∃ u, exec (.rdmaPeerAccess ⟨qp, key, va, .write data⟩) s = .next u ∧ s.ExtentWritten u pages va data) ∧
        (∃ u, exec (.rdmaPeerAccess ⟨qp, key, va, .send data⟩) s = .next u ∧ s.ExtentWritten u pages va data)) ∧
      (∀ pages n, may n true false (fun g => g.rd) (extentParts va n) pages →
        ∃ u, exec (.rdmaPeerAccess ⟨qp, key, va, .read n⟩) s = .next u ∧ s.KeepsBytes u) ∧
      (∀ pages x, may 8 true true (fun g => g.at') [(va, 8)] pages → va % 8 = 0 →
        let p := pageFor pages va
        p.pa va % 8 = 0 → (s.readHome (s.engineCore i) p.mode p.lease (p.pa va) 8).2.2 = false →
        ∃ u, exec (.rdmaPeerAccess ⟨qp, key, va, .fetchAdd x⟩) s = .next u ∧
          s.StoresBytes u .memory (p.pa va) 8 ((s.bytesIn .memory (p.pa va) 8 + x.toNat) % 2 ^ 64)) ∧
      ((s.isle i).peerMay key va data.length (fun g => g.wr) = false →
        exec (.rdmaPeerAccess ⟨qp, key, va, .write data⟩) s = .next s)) ∧
    (∀ port i pa data len, s.board.portIsle.find port = some i → data ≠ [] →
      let req : DmaAccess := ⟨port, pa, len, some data⟩
      (s.extentOwned i pa data.length = false → exec (.nvmeDma req) s = .next s) ∧
      (s.extentOwned i pa data.length = true → s.dmaWaits req = none →
        (∃ u, exec (.nvmeDma req) s = .next u ∧ s.StoresBytes u .memory pa data.length (leNat data)) ∧
        ∀ cores, ∃ u, exec (.nvmeCompletion port ⟨cores, [req]⟩) s = .next u ∧
          s.StoresBytes u .memory pa data.length (leNat data) ∧
          ∀ k ∈ cores, s.isleOfCore k = some i → bit (u.core k).lane.ipend.toNat 8 = true)) ∧
    (let device (i : Nat) (at' : Nat → Prop) (e : Instr) : Prop := ∃ u, exec e s = .next u ∧ s.KeepsBytes u ∧
       ∀ k, (at' k → s.isleOfCore k = some i → bit (u.core k).lane.ipend.toNat 8 = true) ∧
         ((¬at' k ∨ s.isleOfCore k ≠ some i) → u.core k = s.core k)
     (∀ port i cores, s.board.portIsle.find port = some i → device i (fun k => k ∈ cores) (.nvmeCompletion port ⟨cores, []⟩)) ∧
     (∀ port qp i, (s.board.pair (1024 * port + qp)).isle = some i →
       device i (fun k => k < Config.cores ∧ bit (s.board.pair (1024 * port + qp)).cores.toNat k = true) (.rdmaWorkCompletion port qp)))

/-- The package's own events (R270, R324, R408, R411, R413, R424, R425): a package reset keeps memory and puts every beacon lane at
the boot ROM; an isle's reset ends its crews at once and restarts its cores when nothing of it is in flight, memory as it was; a
report is ready; a corrected error is counted and raised, an uncorrectable one poisons its site; a cluster without an isle is
powered down with its lines written back, and up with an empty L1; a throttle step and a port down are recorded. The model's choices:
memory kept at a package reset (log 70), scratchpads across power-down (log 71), the segments of core 0's lane (log 72), what an isle
reset keeps (log 75), how throttle steps and failed ports are recorded (log 81). -/
def Obligations.PackageEvents : Prop :=
  ∀ (s : State) (i n : Nat),
    let sameMemory (u : State) : Prop := ∀ a, u.byteIn .memory a = s.byteIn .memory a
    (∃ u, exec .packageReset s = .next u ∧ u.mem = s.mem ∧ u.cycle = s.cycle ∧ u.board.rom = s.board.rom ∧
      u.board.flash = s.board.flash ∧ ∀ k, (u.core k).crews = [] ∧ (u.core k).lane = Lane.reset) ∧
    (∀ auto, (s.isle i).resetDue = some ⟨auto, none⟩ → ∃ u, exec (.isleReset i) s = .next u ∧ sameMemory u ∧
      (u.isle i).resetDue = some ⟨auto, some (s.floor i)⟩ ∧ ∀ k ∈ s.isleCores i, (u.core k).crews = []) ∧
    (∀ auto f, (s.isle i).resetDue = some ⟨auto, some f⟩ → s.isleBusy i = false → ∃ u, exec (.isleReset i) s = .next u ∧
      sameMemory u ∧ (u.isle i).resetDue = none ∧ (u.isle i).resets = (s.isle i).resets + 1 ∧
      (∀ k ∈ s.isleCores i, (u.core k).crews = [] ∧ (u.core k).pts = f ∧ (k ≠ 0 → (u.core k).lane = Lane.reset) ∧
        (k = 0 → (u.core k).lane.mode = .s ∧ (u.core k).lane.pc = s.board.core0Entry)) ∧
      ∀ k ∈ s.isleClusters i, ∀ a, u.byteIn (.pad k) a = 0) ∧
    (∀ rest, s.board.reports = i :: rest → ∃ u, exec .attestationReportReady s = .next u ∧ u.board.reports = rest ∧
      u.board.reportsDone.find i =
        some { nonce := (s.isle i).nonce, measure := s.board.measure, secCount := s.board.secCount } ∧
      (u.isle i).request = false) ∧
    (∀ site, (∀ j, s.eccIsle site = some j →
        (∃ u, exec (.eccCorrected site) s = .next u ∧ s.KeepsBytes u ∧ (u.isle j).eccCor = countUp (s.isle j).eccCor ∧
          ∀ k ∈ s.isleCores j, bit (u.core k).lane.ipend.toNat 9 = true) ∧
        (∃ u, exec (.eccUncorrectable site) s = .next u ∧ s.KeepsBytes u ∧ (u.isle j).eccUnc = countUp (s.isle j).eccUnc)) ∧
      (s.eccIsle site = none → (∃ u, exec (.eccCorrected site) s = .next u ∧ u.board.sharedCor = countUp s.board.sharedCor) ∧
        ∃ u, exec (.eccUncorrectable site) s = .next u ∧ u.board.sharedUnc = countUp s.board.sharedUnc)) ∧
    (∀ a, (∃ u, exec (.eccUncorrectable (.hbm a)) s = .next u ∧ u.poison.contains (a / 32) = true) ∧
      (∃ u, exec (.eccUncorrectable (.scratch n a)) s = .next u ∧ u.spadBad n (a / 4 * 4) 4 = true) ∧
      (∃ u, exec (.eccUncorrectable (.accum n a)) s = .next u ∧ u.accBad n (a / 4 * 4) 4 = true)) ∧
    (s.isleOfCluster n = none → (s.cluster n).powered = true → s.clusterBusy n = false →
      ∃ u, exec (.clusterPowerDown n) s = .next u ∧ s.KeepsBytes u ∧ (u.cluster n).powered = false) ∧
    ((s.cluster n).powered = false → n < Config.clusters → ∃ u, exec (.clusterPowerUp n) s = .next u ∧
      (u.cluster n).powered = true ∧ (u.cluster n).l1 = [] ∧
      ∀ j, s.isleOfCluster n = some j → ∀ k ∈ coresOf n, (u.core k).pts = s.floor j) ∧
    (∃ u, exec .thermalThrottle s = .next u ∧ u.board.throttle = s.board.throttle + 1 ∧ s.KeepsBytes u) ∧
    (n < 8 → ∃ u, exec (.fabricPortDown n) s = .next u ∧ s.KeepsBytes u ∧ bit u.board.portsDown.toNat n = true ∧
      ∀ k, k ≠ n → bit u.board.portsDown.toNat k = bit s.board.portsDown.toNat k)
end

