-- ==== Sys2Proof/Laws/Maps.lean ====
section
/-! SUPPORT. Laws of tables and byte memories: what is read after a write, and that writing keeps the canonical
form (R4, R270, R408). -/

set_option Elab.async false

namespace Sys2Proof.Machine

/-! ### Reading a table back -/

variable {α : Type}

@[simp] theorem FMap.find_put (m : FMap α) (k : Nat) (a : α) : (m.put k a).find k = some a := by
  induction m with
  | nil => simp [FMap.put, FMap.find]
  | cons x m ih =>
    obtain ⟨j, b⟩ := x
    simp only [FMap.put]
    split
    · simp [FMap.find]
    · split
      · simp [FMap.find]
      · simp [FMap.find, *]

theorem FMap.find_put_ne (m : FMap α) {k j : Nat} (a : α) (h : j ≠ k) : (m.put k a).find j = m.find j := by
  induction m with
  | nil => simp [FMap.put, FMap.find, Ne.symm h]
  | cons x m ih =>
    obtain ⟨i, b⟩ := x
    simp only [FMap.put]
    split
    · simp [FMap.find, Ne.symm h]
    · split
      · next hi => subst hi; simp [FMap.find, Ne.symm h]
      · simp [FMap.find, ih]

@[simp] theorem FMap.find_del (m : FMap α) (k : Nat) : (m.del k).find k = none := by
  induction m with
  | nil => rfl
  | cons x m ih =>
    obtain ⟨j, b⟩ := x
    simp only [FMap.del]
    split
    · exact ih
    · simp [FMap.find, *]

theorem FMap.find_del_ne (m : FMap α) {k j : Nat} (h : j ≠ k) : (m.del k).find j = m.find j := by
  induction m with
  | nil => rfl
  | cons x m ih =>
    obtain ⟨i, b⟩ := x
    simp only [FMap.del]
    split
    · next hi => subst hi; simpa [FMap.find, Ne.symm h] using ih
    · simp [FMap.find, ih]

@[simp] theorem FMap.find_mapVal (f : Nat → α → α) (m : FMap α) (k : Nat) : (m.mapVal f).find k = (m.find k).map (f k) := by
  induction m with
  | nil => rfl
  | cons x m ih =>
    obtain ⟨j, b⟩ := x
    simp only [FMap.mapVal, FMap.find]
    split
    · next h => subst h; rfl
    · exact ih

@[simp] theorem FMap.find_keepAt (p : Nat → α → Bool) (m : FMap α) (k : Nat) :
    (m.keepAt p).find k = (m.find k).filter (p k) := by
  induction m with
  | nil => rfl
  | cons x m ih =>
    obtain ⟨j, b⟩ := x
    simp only [FMap.keepAt]
    cases hb : p j b with
    | true =>
      simp only [if_true, FMap.find]
      split
      · next h => subst h; simp [Option.filter, hb]
      · exact ih
    | false =>
      simp only [Bool.false_eq_true, if_false, FMap.find]
      by_cases hj : j = k
      · subst hj; simp [Option.filter, hb]
      · simp only [hj, if_false]
        rw [← ih]
        exact FMap.find_del_ne _ (fun e => hj e.symm)

@[simp] theorem FMap.find_keep (p : α → Bool) (m : FMap α) (k : Nat) : (m.keep p).find k = (m.find k).filter p :=
  m.find_keepAt (fun _ => p) k

@[simp] theorem FMap.find_modify (m : FMap α) (k : Nat) (f : α → α) : (m.modify k f).find k = (m.find k).map f := by
  simp only [FMap.modify]
  split <;> simp_all

theorem FMap.find_modify_ne (m : FMap α) {k j : Nat} (f : α → α) (h : j ≠ k) : (m.modify k f).find j = m.find j := by
  simp only [FMap.modify]
  split
  · exact m.find_put_ne _ h
  · rfl

@[simp] theorem FMap.get_put (d : α) (m : FMap α) (k : Nat) (a : α) : FMap.get d (m.put k a) k = a := by
  simp [FMap.get]

theorem FMap.get_put_ne (d : α) (m : FMap α) {k j : Nat} (a : α) (h : j ≠ k) :
    FMap.get d (m.put k a) j = FMap.get d m j := by
  simp [FMap.get, m.find_put_ne a h]

@[simp] theorem FMap.get_set [DecidableEq α] (d : α) (m : FMap α) (k : Nat) (a : α) : FMap.get d (m.set d k a) k = a := by
  simp only [FMap.set]
  split <;> simp_all [FMap.get]

theorem FMap.get_set_ne [DecidableEq α] (d : α) (m : FMap α) {k j : Nat} (a : α) (h : j ≠ k) :
    FMap.get d (m.set d k a) j = FMap.get d m j := by
  simp only [FMap.set]
  split
  · simp [FMap.get, m.find_del_ne h]
  · exact FMap.get_put_ne d m a h

/-! ### Rising keys -/

/-- Every key of a table lies above `k`. -/
def FMap.above (k : Nat) (m : FMap α) : Prop := ∀ x ∈ m, k < x.1

theorem FMap.sorted_cons {j : Nat} {b : α} {m : FMap α} : FMap.sorted ((j, b) :: m) = true ↔ FMap.above j m ∧ m.sorted = true := by
  induction m generalizing j b with
  | nil => simp [FMap.sorted, FMap.above]
  | cons x m ih =>
    obtain ⟨k, c⟩ := x
    have e : FMap.sorted ((j, b) :: (k, c) :: m) = (decide (j < k) && FMap.sorted ((k, c) :: m)) := rfl
    rw [e, Bool.and_eq_true, decide_eq_true_eq]
    constructor
    · rintro ⟨h, hs⟩
      refine ⟨fun x hx => ?_, hs⟩
      rcases List.mem_cons.mp hx with rfl | hx
      · exact h
      · exact Nat.lt_trans h ((ih.mp hs).1 x hx)
    · rintro ⟨h, hs⟩
      exact ⟨h _ (List.mem_cons_self ..), hs⟩

theorem FMap.mem_put {m : FMap α} {k : Nat} {a : α} {x : Nat × α} (h : x ∈ m.put k a) : x = (k, a) ∨ x ∈ m := by
  induction m with
  | nil => simpa [FMap.put] using h
  | cons y m ih =>
    obtain ⟨j, b⟩ := y
    simp only [FMap.put] at h
    split at h
    · simpa using h
    · split at h
      · rcases List.mem_cons.mp h with h | h
        · exact .inl h
        · exact .inr (List.mem_cons_of_mem _ h)
      · rcases List.mem_cons.mp h with h | h
        · exact .inr (by simp [h])
        · exact (ih h).imp_right (List.mem_cons_of_mem _)

theorem FMap.mem_del {m : FMap α} {k : Nat} {x : Nat × α} (h : x ∈ m.del k) : x ∈ m := by
  induction m with
  | nil => exact h
  | cons y m ih =>
    obtain ⟨j, b⟩ := y
    simp only [FMap.del] at h
    split at h
    · exact List.mem_cons_of_mem _ (ih h)
    · rcases List.mem_cons.mp h with h | h
      · simp [h]
      · exact List.mem_cons_of_mem _ (ih h)

theorem FMap.sorted_put {m : FMap α} (h : m.sorted = true) (k : Nat) (a : α) : (m.put k a).sorted = true := by
  induction m with
  | nil => rfl
  | cons x m ih =>
    obtain ⟨j, b⟩ := x
    obtain ⟨hj, hm⟩ := FMap.sorted_cons.mp h
    simp only [FMap.put]
    split
    · next hk =>
      refine FMap.sorted_cons.mpr ⟨fun x hx => ?_, h⟩
      rcases List.mem_cons.mp hx with rfl | hx
      · exact hk
      · exact Nat.lt_trans hk (hj x hx)
    · split
      · next hk => subst hk; exact FMap.sorted_cons.mpr ⟨hj, hm⟩
      · refine FMap.sorted_cons.mpr ⟨fun x hx => ?_, ih hm⟩
        rcases FMap.mem_put hx with rfl | hx
        · simp only; omega
        · exact hj x hx

theorem FMap.sorted_del {m : FMap α} (h : m.sorted = true) (k : Nat) : (m.del k).sorted = true := by
  induction m with
  | nil => rfl
  | cons x m ih =>
    obtain ⟨j, b⟩ := x
    obtain ⟨hj, hm⟩ := FMap.sorted_cons.mp h
    simp only [FMap.del]
    split
    · exact ih hm
    · exact FMap.sorted_cons.mpr ⟨fun x hx => hj x (FMap.mem_del hx), ih hm⟩

theorem FMap.sorted_set [DecidableEq α] {m : FMap α} (h : m.sorted = true) (d : α) (k : Nat) (a : α) :
    (m.set d k a).sorted = true := by
  simp only [FMap.set]
  split
  · exact FMap.sorted_del h k
  · exact FMap.sorted_put h k a

theorem FMap.above_mapVal {f : Nat → α → α} {m : FMap α} {k : Nat} (h : FMap.above k m) : FMap.above k (m.mapVal f) := by
  induction m with
  | nil => exact h
  | cons x m ih =>
    obtain ⟨j, b⟩ := x
    intro y hy
    rcases List.mem_cons.mp hy with rfl | hy
    · exact h (j, b) (List.mem_cons_self ..)
    · exact ih (fun z hz => h z (List.mem_cons_of_mem _ hz)) y hy

theorem FMap.sorted_mapVal {f : Nat → α → α} {m : FMap α} (h : m.sorted = true) : (m.mapVal f).sorted = true := by
  induction m with
  | nil => rfl
  | cons x m ih =>
    obtain ⟨j, b⟩ := x
    obtain ⟨hj, hm⟩ := FMap.sorted_cons.mp h
    exact FMap.sorted_cons.mpr ⟨FMap.above_mapVal hj, ih hm⟩

theorem FMap.sorted_modify {m : FMap α} (h : m.sorted = true) (k : Nat) (f : α → α) : (m.modify k f).sorted = true := by
  simp only [FMap.modify]
  split
  · exact FMap.sorted_put h k _
  · exact h

/-! ### Memory -/

@[simp] theorem Memory.read_write (m : Memory) (a : Nat) (b : Byte) : (m.write a b).read a = b := by
  simp [Memory.read, Memory.write]

theorem Memory.read_write_ne (m : Memory) {a c : Nat} (b : Byte) (h : c ≠ a) : (m.write a b).read c = m.read c :=
  FMap.get_set_ne _ m b h

theorem Memory.wf_iff {m : Memory} : m.wf = true ↔ FMap.sorted m = true ∧ ∀ x ∈ m, x.2 ≠ Memory.blank := by
  simp [Memory.wf]

theorem Memory.wf_write {m : Memory} (h : m.wf = true) (a : Nat) (b : Byte) : (m.write a b).wf = true := by
  obtain ⟨hs, hb⟩ := Memory.wf_iff.mp h
  refine Memory.wf_iff.mpr ⟨FMap.sorted_set hs _ a b, fun x hx => ?_⟩
  simp only [Memory.write, FMap.set] at hx
  split at hx
  · exact hb x (FMap.mem_del hx)
  · rcases FMap.mem_put hx with rfl | hx
    · assumption
    · exact hb x hx

theorem Memory.wf_writeBytes {m : Memory} (h : m.wf = true) (a : Nat) (l : List Byte) : (m.writeBytes a l).wf = true := by
  induction l generalizing m a with
  | nil => exact h
  | cons b l ih => exact ih (Memory.wf_write h a b) (a + 1)

theorem Memory.wf_writeNat {m : Memory} (h : m.wf = true) (a n x : Nat) : (m.writeNat a n x).wf = true :=
  Memory.wf_writeBytes h a _

theorem Memory.read_writeBytes_out (m : Memory) {a c : Nat} (l : List Byte) (h : c < a ∨ a + l.length ≤ c) :
    (m.writeBytes a l).read c = m.read c := by
  induction l generalizing m a with
  | nil => rfl
  | cons b l ih =>
    rw [List.length_cons] at h
    simp only [Memory.writeBytes]
    rw [ih _ (by omega), Memory.read_write_ne _ _ (by omega)]

theorem Memory.read_writeBytes_in (m : Memory) {a k : Nat} (l : List Byte) (h : k < l.length) :
    (m.writeBytes a l).read (a + k) = l[k] := by
  induction l generalizing m a k with
  | nil => simp at h
  | cons b l ih =>
    simp only [Memory.writeBytes]
    cases k with
    | zero => rw [Memory.read_writeBytes_out _ _ (by omega)]; simp
    | succ k =>
      have := ih (m := m.write a b) (a := a + 1) (k := k) (by simpa using h)
      rw [show a + (k + 1) = a + 1 + k by omega, this]
      rfl

@[simp] theorem leBytes_length (n x : Nat) : (leBytes n x).length = n := by
  induction n generalizing x with
  | zero => rfl
  | succ n ih => simp [leBytes, ih]

theorem leBytes_getElem {n x k : Nat} (h : k < (leBytes n x).length) : (leBytes n x)[k] = BitVec.ofNat 8 (x / 256 ^ k) := by
  induction n generalizing x k with
  | zero => simp [leBytes] at h
  | succ n ih =>
    cases k with
    | zero => simp [leBytes]
    | succ k =>
      simp only [leBytes, List.getElem_cons_succ]
      rw [ih, Nat.div_div_eq_div_mul, Nat.pow_succ']

theorem Memory.read_writeNat_in (m : Memory) {a k : Nat} (n x : Nat) (h : k < n) :
    (m.writeNat a n x).read (a + k) = BitVec.ofNat 8 (x / 256 ^ k) := by
  rw [Memory.writeNat, Memory.read_writeBytes_in m _ (by simpa using h), leBytes_getElem]

theorem Memory.read_writeNat_out (m : Memory) {a c : Nat} (n x : Nat) (h : c < a ∨ a + n ≤ c) :
    (m.writeNat a n x).read c = m.read c :=
  Memory.read_writeBytes_out m _ (by simpa using h)

theorem leNat_leBytes (n x : Nat) : leNat (leBytes n x) = x % 256 ^ n := by
  induction n generalizing x with
  | zero => simp [leBytes, leNat, Nat.mod_one]
  | succ n ih =>
    rw [leBytes, leNat, ih, BitVec.toNat_ofNat, show 256 ^ (n + 1) = 256 * 256 ^ n from Nat.pow_succ', Nat.mod_mul]

theorem Memory.readBytes_congr {m m' : Memory} {a : Nat} (n : Nat) (h : ∀ k < n, m.read (a + k) = m'.read (a + k)) :
    m.readBytes a n = m'.readBytes a n := by
  induction n generalizing a with
  | zero => rfl
  | succ n ih =>
    simp only [Memory.readBytes]
    rw [show m.read a = m'.read a from h 0 (by omega),
      ih (a := a + 1) (fun k hk => by rw [show a + 1 + k = a + (k + 1) by omega]; exact h (k + 1) (by omega))]

theorem Memory.readBytes_writeBytes (m : Memory) (a : Nat) (l : List Byte) :
    (m.writeBytes a l).readBytes a l.length = l := by
  induction l generalizing m a with
  | nil => rfl
  | cons b l ih =>
    simp only [Memory.writeBytes, List.length_cons, Memory.readBytes]
    rw [ih, Memory.read_writeBytes_out _ _ (by omega), Memory.read_write]

/-- A number written is read back (R4). -/
theorem Memory.readNat_writeNat (m : Memory) (a n x : Nat) : (m.writeNat a n x).readNat a n = x % 256 ^ n := by
  have := Memory.readBytes_writeBytes m a (leBytes n x)
  rw [leBytes_length] at this
  rw [Memory.readNat, Memory.writeNat, this, leNat_leBytes]

end Sys2Proof.Machine
end

