-- ==== Sys2Proof/Laws/State.lean ====
section
/-! SUPPORT. Laws of the state: what each update of a part of the state leaves of every field, and what is read back
through the accessors after it. -/

namespace Sys2Proof.Machine

/-! #### onCore -/

@[simp] theorem State.onCore_cycle (s : State) (k : Nat) (f : Core → Core) : (s.onCore k f).cycle = s.cycle := rfl
@[simp] theorem State.onCore_agenda (s : State) (k : Nat) (f : Core → Core) : (s.onCore k f).agenda = s.agenda := rfl
@[simp] theorem State.onCore_timing (s : State) (k : Nat) (f : Core → Core) : (s.onCore k f).timing = s.timing := rfl
@[simp] theorem State.onCore_acting (s : State) (k : Nat) (f : Core → Core) : (s.onCore k f).acting = s.acting := rfl
@[simp] theorem State.onCore_nextId (s : State) (k : Nat) (f : Core → Core) : (s.onCore k f).nextId = s.nextId := rfl
@[simp] theorem State.onCore_clusters (s : State) (k : Nat) (f : Core → Core) : (s.onCore k f).clusters = s.clusters := rfl
@[simp] theorem State.onCore_isles (s : State) (k : Nat) (f : Core → Core) : (s.onCore k f).isles = s.isles := rfl
@[simp] theorem State.onCore_domains (s : State) (k : Nat) (f : Core → Core) : (s.onCore k f).domains = s.domains := rfl
@[simp] theorem State.onCore_mem (s : State) (k : Nat) (f : Core → Core) : (s.onCore k f).mem = s.mem := rfl
@[simp] theorem State.onCore_poison (s : State) (k : Nat) (f : Core → Core) : (s.onCore k f).poison = s.poison := rfl
@[simp] theorem State.onCore_lines (s : State) (k : Nat) (f : Core → Core) : (s.onCore k f).lines = s.lines := rfl
@[simp] theorem State.onCore_filters (s : State) (k : Nat) (f : Core → Core) : (s.onCore k f).filters = s.filters := rfl
@[simp] theorem State.onCore_ops (s : State) (k : Nat) (f : Core → Core) : (s.onCore k f).ops = s.ops := rfl
@[simp] theorem State.onCore_copies (s : State) (k : Nat) (f : Core → Core) : (s.onCore k f).copies = s.copies := rfl
@[simp] theorem State.onCore_pushes (s : State) (k : Nat) (f : Core → Core) : (s.onCore k f).pushes = s.pushes := rfl
@[simp] theorem State.onCore_fabs (s : State) (k : Nat) (f : Core → Core) : (s.onCore k f).fabs = s.fabs := rfl
@[simp] theorem State.onCore_reductions (s : State) (k : Nat) (f : Core → Core) : (s.onCore k f).reductions = s.reductions := rfl
@[simp] theorem State.onCore_forwards (s : State) (k : Nat) (f : Core → Core) : (s.onCore k f).forwards = s.forwards := rfl
@[simp] theorem State.onCore_saved (s : State) (k : Nat) (f : Core → Core) : (s.onCore k f).saved = s.saved := rfl
@[simp] theorem State.onCore_parks (s : State) (k : Nat) (f : Core → Core) : (s.onCore k f).parks = s.parks := rfl
@[simp] theorem State.onCore_ctlWrites (s : State) (k : Nat) (f : Core → Core) : (s.onCore k f).ctlWrites = s.ctlWrites := rfl
@[simp] theorem State.onCore_board (s : State) (k : Nat) (f : Core → Core) : (s.onCore k f).board = s.board := rfl

/-! #### onCrew -/

@[simp] theorem State.onCrew_cycle (s : State) (k slot : Nat) (f : Crew → Crew) : (s.onCrew k slot f).cycle = s.cycle := rfl
@[simp] theorem State.onCrew_agenda (s : State) (k slot : Nat) (f : Crew → Crew) : (s.onCrew k slot f).agenda = s.agenda := rfl
@[simp] theorem State.onCrew_timing (s : State) (k slot : Nat) (f : Crew → Crew) : (s.onCrew k slot f).timing = s.timing := rfl
@[simp] theorem State.onCrew_acting (s : State) (k slot : Nat) (f : Crew → Crew) : (s.onCrew k slot f).acting = s.acting := rfl
@[simp] theorem State.onCrew_nextId (s : State) (k slot : Nat) (f : Crew → Crew) : (s.onCrew k slot f).nextId = s.nextId := rfl
@[simp] theorem State.onCrew_clusters (s : State) (k slot : Nat) (f : Crew → Crew) : (s.onCrew k slot f).clusters = s.clusters := rfl
@[simp] theorem State.onCrew_isles (s : State) (k slot : Nat) (f : Crew → Crew) : (s.onCrew k slot f).isles = s.isles := rfl
@[simp] theorem State.onCrew_domains (s : State) (k slot : Nat) (f : Crew → Crew) : (s.onCrew k slot f).domains = s.domains := rfl
@[simp] theorem State.onCrew_mem (s : State) (k slot : Nat) (f : Crew → Crew) : (s.onCrew k slot f).mem = s.mem := rfl
@[simp] theorem State.onCrew_poison (s : State) (k slot : Nat) (f : Crew → Crew) : (s.onCrew k slot f).poison = s.poison := rfl
@[simp] theorem State.onCrew_lines (s : State) (k slot : Nat) (f : Crew → Crew) : (s.onCrew k slot f).lines = s.lines := rfl
@[simp] theorem State.onCrew_filters (s : State) (k slot : Nat) (f : Crew → Crew) : (s.onCrew k slot f).filters = s.filters := rfl
@[simp] theorem State.onCrew_ops (s : State) (k slot : Nat) (f : Crew → Crew) : (s.onCrew k slot f).ops = s.ops := rfl
@[simp] theorem State.onCrew_copies (s : State) (k slot : Nat) (f : Crew → Crew) : (s.onCrew k slot f).copies = s.copies := rfl
@[simp] theorem State.onCrew_pushes (s : State) (k slot : Nat) (f : Crew → Crew) : (s.onCrew k slot f).pushes = s.pushes := rfl
@[simp] theorem State.onCrew_fabs (s : State) (k slot : Nat) (f : Crew → Crew) : (s.onCrew k slot f).fabs = s.fabs := rfl
@[simp] theorem State.onCrew_reductions (s : State) (k slot : Nat) (f : Crew → Crew) : (s.onCrew k slot f).reductions = s.reductions := rfl
@[simp] theorem State.onCrew_forwards (s : State) (k slot : Nat) (f : Crew → Crew) : (s.onCrew k slot f).forwards = s.forwards := rfl
@[simp] theorem State.onCrew_saved (s : State) (k slot : Nat) (f : Crew → Crew) : (s.onCrew k slot f).saved = s.saved := rfl
@[simp] theorem State.onCrew_parks (s : State) (k slot : Nat) (f : Crew → Crew) : (s.onCrew k slot f).parks = s.parks := rfl
@[simp] theorem State.onCrew_ctlWrites (s : State) (k slot : Nat) (f : Crew → Crew) : (s.onCrew k slot f).ctlWrites = s.ctlWrites := rfl
@[simp] theorem State.onCrew_board (s : State) (k slot : Nat) (f : Crew → Crew) : (s.onCrew k slot f).board = s.board := rfl

/-! #### onThread -/

@[simp] theorem State.onThread_cycle (s : State) (k slot tid : Nat) (f : Thread → Thread) : (s.onThread k slot tid f).cycle = s.cycle := rfl
@[simp] theorem State.onThread_agenda (s : State) (k slot tid : Nat) (f : Thread → Thread) : (s.onThread k slot tid f).agenda = s.agenda := rfl
@[simp] theorem State.onThread_timing (s : State) (k slot tid : Nat) (f : Thread → Thread) : (s.onThread k slot tid f).timing = s.timing := rfl
@[simp] theorem State.onThread_acting (s : State) (k slot tid : Nat) (f : Thread → Thread) : (s.onThread k slot tid f).acting = s.acting := rfl
@[simp] theorem State.onThread_nextId (s : State) (k slot tid : Nat) (f : Thread → Thread) : (s.onThread k slot tid f).nextId = s.nextId := rfl
@[simp] theorem State.onThread_clusters (s : State) (k slot tid : Nat) (f : Thread → Thread) : (s.onThread k slot tid f).clusters = s.clusters := rfl
@[simp] theorem State.onThread_isles (s : State) (k slot tid : Nat) (f : Thread → Thread) : (s.onThread k slot tid f).isles = s.isles := rfl
@[simp] theorem State.onThread_domains (s : State) (k slot tid : Nat) (f : Thread → Thread) : (s.onThread k slot tid f).domains = s.domains := rfl
@[simp] theorem State.onThread_mem (s : State) (k slot tid : Nat) (f : Thread → Thread) : (s.onThread k slot tid f).mem = s.mem := rfl
@[simp] theorem State.onThread_poison (s : State) (k slot tid : Nat) (f : Thread → Thread) : (s.onThread k slot tid f).poison = s.poison := rfl
@[simp] theorem State.onThread_lines (s : State) (k slot tid : Nat) (f : Thread → Thread) : (s.onThread k slot tid f).lines = s.lines := rfl
@[simp] theorem State.onThread_filters (s : State) (k slot tid : Nat) (f : Thread → Thread) : (s.onThread k slot tid f).filters = s.filters := rfl
@[simp] theorem State.onThread_ops (s : State) (k slot tid : Nat) (f : Thread → Thread) : (s.onThread k slot tid f).ops = s.ops := rfl
@[simp] theorem State.onThread_copies (s : State) (k slot tid : Nat) (f : Thread → Thread) : (s.onThread k slot tid f).copies = s.copies := rfl
@[simp] theorem State.onThread_pushes (s : State) (k slot tid : Nat) (f : Thread → Thread) : (s.onThread k slot tid f).pushes = s.pushes := rfl
@[simp] theorem State.onThread_fabs (s : State) (k slot tid : Nat) (f : Thread → Thread) : (s.onThread k slot tid f).fabs = s.fabs := rfl
@[simp] theorem State.onThread_reductions (s : State) (k slot tid : Nat) (f : Thread → Thread) : (s.onThread k slot tid f).reductions = s.reductions := rfl
@[simp] theorem State.onThread_forwards (s : State) (k slot tid : Nat) (f : Thread → Thread) : (s.onThread k slot tid f).forwards = s.forwards := rfl
@[simp] theorem State.onThread_saved (s : State) (k slot tid : Nat) (f : Thread → Thread) : (s.onThread k slot tid f).saved = s.saved := rfl
@[simp] theorem State.onThread_parks (s : State) (k slot tid : Nat) (f : Thread → Thread) : (s.onThread k slot tid f).parks = s.parks := rfl
@[simp] theorem State.onThread_ctlWrites (s : State) (k slot tid : Nat) (f : Thread → Thread) : (s.onThread k slot tid f).ctlWrites = s.ctlWrites := rfl
@[simp] theorem State.onThread_board (s : State) (k slot tid : Nat) (f : Thread → Thread) : (s.onThread k slot tid f).board = s.board := rfl

/-! #### onLane -/

@[simp] theorem State.onLane_cycle (s : State) (k : Nat) (f : Lane → Lane) : (s.onLane k f).cycle = s.cycle := rfl
@[simp] theorem State.onLane_agenda (s : State) (k : Nat) (f : Lane → Lane) : (s.onLane k f).agenda = s.agenda := rfl
@[simp] theorem State.onLane_timing (s : State) (k : Nat) (f : Lane → Lane) : (s.onLane k f).timing = s.timing := rfl
@[simp] theorem State.onLane_acting (s : State) (k : Nat) (f : Lane → Lane) : (s.onLane k f).acting = s.acting := rfl
@[simp] theorem State.onLane_nextId (s : State) (k : Nat) (f : Lane → Lane) : (s.onLane k f).nextId = s.nextId := rfl
@[simp] theorem State.onLane_clusters (s : State) (k : Nat) (f : Lane → Lane) : (s.onLane k f).clusters = s.clusters := rfl
@[simp] theorem State.onLane_isles (s : State) (k : Nat) (f : Lane → Lane) : (s.onLane k f).isles = s.isles := rfl
@[simp] theorem State.onLane_domains (s : State) (k : Nat) (f : Lane → Lane) : (s.onLane k f).domains = s.domains := rfl
@[simp] theorem State.onLane_mem (s : State) (k : Nat) (f : Lane → Lane) : (s.onLane k f).mem = s.mem := rfl
@[simp] theorem State.onLane_poison (s : State) (k : Nat) (f : Lane → Lane) : (s.onLane k f).poison = s.poison := rfl
@[simp] theorem State.onLane_lines (s : State) (k : Nat) (f : Lane → Lane) : (s.onLane k f).lines = s.lines := rfl
@[simp] theorem State.onLane_filters (s : State) (k : Nat) (f : Lane → Lane) : (s.onLane k f).filters = s.filters := rfl
@[simp] theorem State.onLane_ops (s : State) (k : Nat) (f : Lane → Lane) : (s.onLane k f).ops = s.ops := rfl
@[simp] theorem State.onLane_copies (s : State) (k : Nat) (f : Lane → Lane) : (s.onLane k f).copies = s.copies := rfl
@[simp] theorem State.onLane_pushes (s : State) (k : Nat) (f : Lane → Lane) : (s.onLane k f).pushes = s.pushes := rfl
@[simp] theorem State.onLane_fabs (s : State) (k : Nat) (f : Lane → Lane) : (s.onLane k f).fabs = s.fabs := rfl
@[simp] theorem State.onLane_reductions (s : State) (k : Nat) (f : Lane → Lane) : (s.onLane k f).reductions = s.reductions := rfl
@[simp] theorem State.onLane_forwards (s : State) (k : Nat) (f : Lane → Lane) : (s.onLane k f).forwards = s.forwards := rfl
@[simp] theorem State.onLane_saved (s : State) (k : Nat) (f : Lane → Lane) : (s.onLane k f).saved = s.saved := rfl
@[simp] theorem State.onLane_parks (s : State) (k : Nat) (f : Lane → Lane) : (s.onLane k f).parks = s.parks := rfl
@[simp] theorem State.onLane_ctlWrites (s : State) (k : Nat) (f : Lane → Lane) : (s.onLane k f).ctlWrites = s.ctlWrites := rfl
@[simp] theorem State.onLane_board (s : State) (k : Nat) (f : Lane → Lane) : (s.onLane k f).board = s.board := rfl

/-! #### onCluster -/

@[simp] theorem State.onCluster_cycle (s : State) (n : Nat) (f : Cluster → Cluster) : (s.onCluster n f).cycle = s.cycle := rfl
@[simp] theorem State.onCluster_agenda (s : State) (n : Nat) (f : Cluster → Cluster) : (s.onCluster n f).agenda = s.agenda := rfl
@[simp] theorem State.onCluster_timing (s : State) (n : Nat) (f : Cluster → Cluster) : (s.onCluster n f).timing = s.timing := rfl
@[simp] theorem State.onCluster_acting (s : State) (n : Nat) (f : Cluster → Cluster) : (s.onCluster n f).acting = s.acting := rfl
@[simp] theorem State.onCluster_nextId (s : State) (n : Nat) (f : Cluster → Cluster) : (s.onCluster n f).nextId = s.nextId := rfl
@[simp] theorem State.onCluster_cores (s : State) (n : Nat) (f : Cluster → Cluster) : (s.onCluster n f).cores = s.cores := rfl
@[simp] theorem State.onCluster_isles (s : State) (n : Nat) (f : Cluster → Cluster) : (s.onCluster n f).isles = s.isles := rfl
@[simp] theorem State.onCluster_domains (s : State) (n : Nat) (f : Cluster → Cluster) : (s.onCluster n f).domains = s.domains := rfl
@[simp] theorem State.onCluster_mem (s : State) (n : Nat) (f : Cluster → Cluster) : (s.onCluster n f).mem = s.mem := rfl
@[simp] theorem State.onCluster_poison (s : State) (n : Nat) (f : Cluster → Cluster) : (s.onCluster n f).poison = s.poison := rfl
@[simp] theorem State.onCluster_lines (s : State) (n : Nat) (f : Cluster → Cluster) : (s.onCluster n f).lines = s.lines := rfl
@[simp] theorem State.onCluster_filters (s : State) (n : Nat) (f : Cluster → Cluster) : (s.onCluster n f).filters = s.filters := rfl
@[simp] theorem State.onCluster_ops (s : State) (n : Nat) (f : Cluster → Cluster) : (s.onCluster n f).ops = s.ops := rfl
@[simp] theorem State.onCluster_copies (s : State) (n : Nat) (f : Cluster → Cluster) : (s.onCluster n f).copies = s.copies := rfl
@[simp] theorem State.onCluster_pushes (s : State) (n : Nat) (f : Cluster → Cluster) : (s.onCluster n f).pushes = s.pushes := rfl
@[simp] theorem State.onCluster_fabs (s : State) (n : Nat) (f : Cluster → Cluster) : (s.onCluster n f).fabs = s.fabs := rfl
@[simp] theorem State.onCluster_reductions (s : State) (n : Nat) (f : Cluster → Cluster) : (s.onCluster n f).reductions = s.reductions := rfl
@[simp] theorem State.onCluster_forwards (s : State) (n : Nat) (f : Cluster → Cluster) : (s.onCluster n f).forwards = s.forwards := rfl
@[simp] theorem State.onCluster_saved (s : State) (n : Nat) (f : Cluster → Cluster) : (s.onCluster n f).saved = s.saved := rfl
@[simp] theorem State.onCluster_parks (s : State) (n : Nat) (f : Cluster → Cluster) : (s.onCluster n f).parks = s.parks := rfl
@[simp] theorem State.onCluster_ctlWrites (s : State) (n : Nat) (f : Cluster → Cluster) : (s.onCluster n f).ctlWrites = s.ctlWrites := rfl
@[simp] theorem State.onCluster_board (s : State) (n : Nat) (f : Cluster → Cluster) : (s.onCluster n f).board = s.board := rfl

/-! #### onIsle -/

@[simp] theorem State.onIsle_cycle (s : State) (n : Nat) (f : Isle → Isle) : (s.onIsle n f).cycle = s.cycle := rfl
@[simp] theorem State.onIsle_agenda (s : State) (n : Nat) (f : Isle → Isle) : (s.onIsle n f).agenda = s.agenda := rfl
@[simp] theorem State.onIsle_timing (s : State) (n : Nat) (f : Isle → Isle) : (s.onIsle n f).timing = s.timing := rfl
@[simp] theorem State.onIsle_acting (s : State) (n : Nat) (f : Isle → Isle) : (s.onIsle n f).acting = s.acting := rfl
@[simp] theorem State.onIsle_nextId (s : State) (n : Nat) (f : Isle → Isle) : (s.onIsle n f).nextId = s.nextId := rfl
@[simp] theorem State.onIsle_cores (s : State) (n : Nat) (f : Isle → Isle) : (s.onIsle n f).cores = s.cores := rfl
@[simp] theorem State.onIsle_clusters (s : State) (n : Nat) (f : Isle → Isle) : (s.onIsle n f).clusters = s.clusters := rfl
@[simp] theorem State.onIsle_domains (s : State) (n : Nat) (f : Isle → Isle) : (s.onIsle n f).domains = s.domains := rfl
@[simp] theorem State.onIsle_mem (s : State) (n : Nat) (f : Isle → Isle) : (s.onIsle n f).mem = s.mem := rfl
@[simp] theorem State.onIsle_poison (s : State) (n : Nat) (f : Isle → Isle) : (s.onIsle n f).poison = s.poison := rfl
@[simp] theorem State.onIsle_lines (s : State) (n : Nat) (f : Isle → Isle) : (s.onIsle n f).lines = s.lines := rfl
@[simp] theorem State.onIsle_filters (s : State) (n : Nat) (f : Isle → Isle) : (s.onIsle n f).filters = s.filters := rfl
@[simp] theorem State.onIsle_ops (s : State) (n : Nat) (f : Isle → Isle) : (s.onIsle n f).ops = s.ops := rfl
@[simp] theorem State.onIsle_copies (s : State) (n : Nat) (f : Isle → Isle) : (s.onIsle n f).copies = s.copies := rfl
@[simp] theorem State.onIsle_pushes (s : State) (n : Nat) (f : Isle → Isle) : (s.onIsle n f).pushes = s.pushes := rfl
@[simp] theorem State.onIsle_fabs (s : State) (n : Nat) (f : Isle → Isle) : (s.onIsle n f).fabs = s.fabs := rfl
@[simp] theorem State.onIsle_reductions (s : State) (n : Nat) (f : Isle → Isle) : (s.onIsle n f).reductions = s.reductions := rfl
@[simp] theorem State.onIsle_forwards (s : State) (n : Nat) (f : Isle → Isle) : (s.onIsle n f).forwards = s.forwards := rfl
@[simp] theorem State.onIsle_saved (s : State) (n : Nat) (f : Isle → Isle) : (s.onIsle n f).saved = s.saved := rfl
@[simp] theorem State.onIsle_parks (s : State) (n : Nat) (f : Isle → Isle) : (s.onIsle n f).parks = s.parks := rfl
@[simp] theorem State.onIsle_ctlWrites (s : State) (n : Nat) (f : Isle → Isle) : (s.onIsle n f).ctlWrites = s.ctlWrites := rfl
@[simp] theorem State.onIsle_board (s : State) (n : Nat) (f : Isle → Isle) : (s.onIsle n f).board = s.board := rfl

/-! #### onDomain -/

@[simp] theorem State.onDomain_cycle (s : State) (i d : Nat) (f : Domain → Domain) : (s.onDomain i d f).cycle = s.cycle := rfl
@[simp] theorem State.onDomain_agenda (s : State) (i d : Nat) (f : Domain → Domain) : (s.onDomain i d f).agenda = s.agenda := rfl
@[simp] theorem State.onDomain_timing (s : State) (i d : Nat) (f : Domain → Domain) : (s.onDomain i d f).timing = s.timing := rfl
@[simp] theorem State.onDomain_acting (s : State) (i d : Nat) (f : Domain → Domain) : (s.onDomain i d f).acting = s.acting := rfl
@[simp] theorem State.onDomain_nextId (s : State) (i d : Nat) (f : Domain → Domain) : (s.onDomain i d f).nextId = s.nextId := rfl
@[simp] theorem State.onDomain_cores (s : State) (i d : Nat) (f : Domain → Domain) : (s.onDomain i d f).cores = s.cores := rfl
@[simp] theorem State.onDomain_clusters (s : State) (i d : Nat) (f : Domain → Domain) : (s.onDomain i d f).clusters = s.clusters := rfl
@[simp] theorem State.onDomain_isles (s : State) (i d : Nat) (f : Domain → Domain) : (s.onDomain i d f).isles = s.isles := rfl
@[simp] theorem State.onDomain_mem (s : State) (i d : Nat) (f : Domain → Domain) : (s.onDomain i d f).mem = s.mem := rfl
@[simp] theorem State.onDomain_poison (s : State) (i d : Nat) (f : Domain → Domain) : (s.onDomain i d f).poison = s.poison := rfl
@[simp] theorem State.onDomain_lines (s : State) (i d : Nat) (f : Domain → Domain) : (s.onDomain i d f).lines = s.lines := rfl
@[simp] theorem State.onDomain_filters (s : State) (i d : Nat) (f : Domain → Domain) : (s.onDomain i d f).filters = s.filters := rfl
@[simp] theorem State.onDomain_ops (s : State) (i d : Nat) (f : Domain → Domain) : (s.onDomain i d f).ops = s.ops := rfl
@[simp] theorem State.onDomain_copies (s : State) (i d : Nat) (f : Domain → Domain) : (s.onDomain i d f).copies = s.copies := rfl
@[simp] theorem State.onDomain_pushes (s : State) (i d : Nat) (f : Domain → Domain) : (s.onDomain i d f).pushes = s.pushes := rfl
@[simp] theorem State.onDomain_fabs (s : State) (i d : Nat) (f : Domain → Domain) : (s.onDomain i d f).fabs = s.fabs := rfl
@[simp] theorem State.onDomain_reductions (s : State) (i d : Nat) (f : Domain → Domain) : (s.onDomain i d f).reductions = s.reductions := rfl
@[simp] theorem State.onDomain_forwards (s : State) (i d : Nat) (f : Domain → Domain) : (s.onDomain i d f).forwards = s.forwards := rfl
@[simp] theorem State.onDomain_saved (s : State) (i d : Nat) (f : Domain → Domain) : (s.onDomain i d f).saved = s.saved := rfl
@[simp] theorem State.onDomain_parks (s : State) (i d : Nat) (f : Domain → Domain) : (s.onDomain i d f).parks = s.parks := rfl
@[simp] theorem State.onDomain_ctlWrites (s : State) (i d : Nat) (f : Domain → Domain) : (s.onDomain i d f).ctlWrites = s.ctlWrites := rfl
@[simp] theorem State.onDomain_board (s : State) (i d : Nat) (f : Domain → Domain) : (s.onDomain i d f).board = s.board := rfl

/-! #### onHome -/

@[simp] theorem State.onHome_cycle (s : State) (l : Nat) (f : HomeLine → HomeLine) : (s.onHome l f).cycle = s.cycle := rfl
@[simp] theorem State.onHome_agenda (s : State) (l : Nat) (f : HomeLine → HomeLine) : (s.onHome l f).agenda = s.agenda := rfl
@[simp] theorem State.onHome_timing (s : State) (l : Nat) (f : HomeLine → HomeLine) : (s.onHome l f).timing = s.timing := rfl
@[simp] theorem State.onHome_acting (s : State) (l : Nat) (f : HomeLine → HomeLine) : (s.onHome l f).acting = s.acting := rfl
@[simp] theorem State.onHome_nextId (s : State) (l : Nat) (f : HomeLine → HomeLine) : (s.onHome l f).nextId = s.nextId := rfl
@[simp] theorem State.onHome_cores (s : State) (l : Nat) (f : HomeLine → HomeLine) : (s.onHome l f).cores = s.cores := rfl
@[simp] theorem State.onHome_clusters (s : State) (l : Nat) (f : HomeLine → HomeLine) : (s.onHome l f).clusters = s.clusters := rfl
@[simp] theorem State.onHome_isles (s : State) (l : Nat) (f : HomeLine → HomeLine) : (s.onHome l f).isles = s.isles := rfl
@[simp] theorem State.onHome_domains (s : State) (l : Nat) (f : HomeLine → HomeLine) : (s.onHome l f).domains = s.domains := rfl
@[simp] theorem State.onHome_mem (s : State) (l : Nat) (f : HomeLine → HomeLine) : (s.onHome l f).mem = s.mem := rfl
@[simp] theorem State.onHome_poison (s : State) (l : Nat) (f : HomeLine → HomeLine) : (s.onHome l f).poison = s.poison := rfl
@[simp] theorem State.onHome_filters (s : State) (l : Nat) (f : HomeLine → HomeLine) : (s.onHome l f).filters = s.filters := rfl
@[simp] theorem State.onHome_ops (s : State) (l : Nat) (f : HomeLine → HomeLine) : (s.onHome l f).ops = s.ops := rfl
@[simp] theorem State.onHome_copies (s : State) (l : Nat) (f : HomeLine → HomeLine) : (s.onHome l f).copies = s.copies := rfl
@[simp] theorem State.onHome_pushes (s : State) (l : Nat) (f : HomeLine → HomeLine) : (s.onHome l f).pushes = s.pushes := rfl
@[simp] theorem State.onHome_fabs (s : State) (l : Nat) (f : HomeLine → HomeLine) : (s.onHome l f).fabs = s.fabs := rfl
@[simp] theorem State.onHome_reductions (s : State) (l : Nat) (f : HomeLine → HomeLine) : (s.onHome l f).reductions = s.reductions := rfl
@[simp] theorem State.onHome_forwards (s : State) (l : Nat) (f : HomeLine → HomeLine) : (s.onHome l f).forwards = s.forwards := rfl
@[simp] theorem State.onHome_saved (s : State) (l : Nat) (f : HomeLine → HomeLine) : (s.onHome l f).saved = s.saved := rfl
@[simp] theorem State.onHome_parks (s : State) (l : Nat) (f : HomeLine → HomeLine) : (s.onHome l f).parks = s.parks := rfl
@[simp] theorem State.onHome_ctlWrites (s : State) (l : Nat) (f : HomeLine → HomeLine) : (s.onHome l f).ctlWrites = s.ctlWrites := rfl
@[simp] theorem State.onHome_board (s : State) (l : Nat) (f : HomeLine → HomeLine) : (s.onHome l f).board = s.board := rfl

/-! #### onOp -/

@[simp] theorem State.onOp_cycle (s : State) (id : Nat) (f : MemOp → MemOp) : (s.onOp id f).cycle = s.cycle := rfl
@[simp] theorem State.onOp_agenda (s : State) (id : Nat) (f : MemOp → MemOp) : (s.onOp id f).agenda = s.agenda := rfl
@[simp] theorem State.onOp_timing (s : State) (id : Nat) (f : MemOp → MemOp) : (s.onOp id f).timing = s.timing := rfl
@[simp] theorem State.onOp_acting (s : State) (id : Nat) (f : MemOp → MemOp) : (s.onOp id f).acting = s.acting := rfl
@[simp] theorem State.onOp_nextId (s : State) (id : Nat) (f : MemOp → MemOp) : (s.onOp id f).nextId = s.nextId := rfl
@[simp] theorem State.onOp_cores (s : State) (id : Nat) (f : MemOp → MemOp) : (s.onOp id f).cores = s.cores := rfl
@[simp] theorem State.onOp_clusters (s : State) (id : Nat) (f : MemOp → MemOp) : (s.onOp id f).clusters = s.clusters := rfl
@[simp] theorem State.onOp_isles (s : State) (id : Nat) (f : MemOp → MemOp) : (s.onOp id f).isles = s.isles := rfl
@[simp] theorem State.onOp_domains (s : State) (id : Nat) (f : MemOp → MemOp) : (s.onOp id f).domains = s.domains := rfl
@[simp] theorem State.onOp_mem (s : State) (id : Nat) (f : MemOp → MemOp) : (s.onOp id f).mem = s.mem := rfl
@[simp] theorem State.onOp_poison (s : State) (id : Nat) (f : MemOp → MemOp) : (s.onOp id f).poison = s.poison := rfl
@[simp] theorem State.onOp_lines (s : State) (id : Nat) (f : MemOp → MemOp) : (s.onOp id f).lines = s.lines := rfl
@[simp] theorem State.onOp_filters (s : State) (id : Nat) (f : MemOp → MemOp) : (s.onOp id f).filters = s.filters := rfl
@[simp] theorem State.onOp_copies (s : State) (id : Nat) (f : MemOp → MemOp) : (s.onOp id f).copies = s.copies := rfl
@[simp] theorem State.onOp_pushes (s : State) (id : Nat) (f : MemOp → MemOp) : (s.onOp id f).pushes = s.pushes := rfl
@[simp] theorem State.onOp_fabs (s : State) (id : Nat) (f : MemOp → MemOp) : (s.onOp id f).fabs = s.fabs := rfl
@[simp] theorem State.onOp_reductions (s : State) (id : Nat) (f : MemOp → MemOp) : (s.onOp id f).reductions = s.reductions := rfl
@[simp] theorem State.onOp_forwards (s : State) (id : Nat) (f : MemOp → MemOp) : (s.onOp id f).forwards = s.forwards := rfl
@[simp] theorem State.onOp_saved (s : State) (id : Nat) (f : MemOp → MemOp) : (s.onOp id f).saved = s.saved := rfl
@[simp] theorem State.onOp_parks (s : State) (id : Nat) (f : MemOp → MemOp) : (s.onOp id f).parks = s.parks := rfl
@[simp] theorem State.onOp_ctlWrites (s : State) (id : Nat) (f : MemOp → MemOp) : (s.onOp id f).ctlWrites = s.ctlWrites := rfl
@[simp] theorem State.onOp_board (s : State) (id : Nat) (f : MemOp → MemOp) : (s.onOp id f).board = s.board := rfl

/-! #### dropOp -/

@[simp] theorem State.dropOp_cycle (s : State) (id : Nat) : (s.dropOp id).cycle = s.cycle := rfl
@[simp] theorem State.dropOp_agenda (s : State) (id : Nat) : (s.dropOp id).agenda = s.agenda := rfl
@[simp] theorem State.dropOp_timing (s : State) (id : Nat) : (s.dropOp id).timing = s.timing := rfl
@[simp] theorem State.dropOp_acting (s : State) (id : Nat) : (s.dropOp id).acting = s.acting := rfl
@[simp] theorem State.dropOp_nextId (s : State) (id : Nat) : (s.dropOp id).nextId = s.nextId := rfl
@[simp] theorem State.dropOp_cores (s : State) (id : Nat) : (s.dropOp id).cores = s.cores := rfl
@[simp] theorem State.dropOp_clusters (s : State) (id : Nat) : (s.dropOp id).clusters = s.clusters := rfl
@[simp] theorem State.dropOp_isles (s : State) (id : Nat) : (s.dropOp id).isles = s.isles := rfl
@[simp] theorem State.dropOp_domains (s : State) (id : Nat) : (s.dropOp id).domains = s.domains := rfl
@[simp] theorem State.dropOp_mem (s : State) (id : Nat) : (s.dropOp id).mem = s.mem := rfl
@[simp] theorem State.dropOp_poison (s : State) (id : Nat) : (s.dropOp id).poison = s.poison := rfl
@[simp] theorem State.dropOp_lines (s : State) (id : Nat) : (s.dropOp id).lines = s.lines := rfl
@[simp] theorem State.dropOp_filters (s : State) (id : Nat) : (s.dropOp id).filters = s.filters := rfl
@[simp] theorem State.dropOp_copies (s : State) (id : Nat) : (s.dropOp id).copies = s.copies := rfl
@[simp] theorem State.dropOp_pushes (s : State) (id : Nat) : (s.dropOp id).pushes = s.pushes := rfl
@[simp] theorem State.dropOp_fabs (s : State) (id : Nat) : (s.dropOp id).fabs = s.fabs := rfl
@[simp] theorem State.dropOp_reductions (s : State) (id : Nat) : (s.dropOp id).reductions = s.reductions := rfl
@[simp] theorem State.dropOp_forwards (s : State) (id : Nat) : (s.dropOp id).forwards = s.forwards := rfl
@[simp] theorem State.dropOp_saved (s : State) (id : Nat) : (s.dropOp id).saved = s.saved := rfl
@[simp] theorem State.dropOp_parks (s : State) (id : Nat) : (s.dropOp id).parks = s.parks := rfl
@[simp] theorem State.dropOp_ctlWrites (s : State) (id : Nat) : (s.dropOp id).ctlWrites = s.ctlWrites := rfl
@[simp] theorem State.dropOp_board (s : State) (id : Nat) : (s.dropOp id).board = s.board := rfl

/-! #### launch -/

@[simp] theorem State.launch_cycle (s : State) (o : MemOp) (a b : Bool) : (s.launch o a b).cycle = s.cycle := rfl
@[simp] theorem State.launch_agenda (s : State) (o : MemOp) (a b : Bool) : (s.launch o a b).agenda = s.agenda := rfl
@[simp] theorem State.launch_timing (s : State) (o : MemOp) (a b : Bool) : (s.launch o a b).timing = s.timing := rfl
@[simp] theorem State.launch_acting (s : State) (o : MemOp) (a b : Bool) : (s.launch o a b).acting = s.acting := rfl
@[simp] theorem State.launch_clusters (s : State) (o : MemOp) (a b : Bool) : (s.launch o a b).clusters = s.clusters := rfl
@[simp] theorem State.launch_isles (s : State) (o : MemOp) (a b : Bool) : (s.launch o a b).isles = s.isles := rfl
@[simp] theorem State.launch_domains (s : State) (o : MemOp) (a b : Bool) : (s.launch o a b).domains = s.domains := rfl
@[simp] theorem State.launch_mem (s : State) (o : MemOp) (a b : Bool) : (s.launch o a b).mem = s.mem := rfl
@[simp] theorem State.launch_poison (s : State) (o : MemOp) (a b : Bool) : (s.launch o a b).poison = s.poison := rfl
@[simp] theorem State.launch_lines (s : State) (o : MemOp) (a b : Bool) : (s.launch o a b).lines = s.lines := rfl
@[simp] theorem State.launch_filters (s : State) (o : MemOp) (a b : Bool) : (s.launch o a b).filters = s.filters := rfl
@[simp] theorem State.launch_copies (s : State) (o : MemOp) (a b : Bool) : (s.launch o a b).copies = s.copies := rfl
@[simp] theorem State.launch_pushes (s : State) (o : MemOp) (a b : Bool) : (s.launch o a b).pushes = s.pushes := rfl
@[simp] theorem State.launch_fabs (s : State) (o : MemOp) (a b : Bool) : (s.launch o a b).fabs = s.fabs := rfl
@[simp] theorem State.launch_reductions (s : State) (o : MemOp) (a b : Bool) : (s.launch o a b).reductions = s.reductions := rfl
@[simp] theorem State.launch_forwards (s : State) (o : MemOp) (a b : Bool) : (s.launch o a b).forwards = s.forwards := rfl
@[simp] theorem State.launch_saved (s : State) (o : MemOp) (a b : Bool) : (s.launch o a b).saved = s.saved := rfl
@[simp] theorem State.launch_parks (s : State) (o : MemOp) (a b : Bool) : (s.launch o a b).parks = s.parks := rfl
@[simp] theorem State.launch_ctlWrites (s : State) (o : MemOp) (a b : Bool) : (s.launch o a b).ctlWrites = s.ctlWrites := rfl
@[simp] theorem State.launch_board (s : State) (o : MemOp) (a b : Bool) : (s.launch o a b).board = s.board := rfl
/-! ### Reading back -/

@[simp] theorem State.core_onCore (s : State) (k : Nat) (f : Core → Core) : (s.onCore k f).core k = f (s.core k) := by
  simp [State.core, State.onCore]

theorem State.core_onCore_ne (s : State) {k j : Nat} (f : Core → Core) (h : j ≠ k) : (s.onCore k f).core j = s.core j := by
  simp [State.core, State.onCore, FMap.get_put_ne _ _ _ h]

@[simp] theorem State.core_onLane (s : State) (k : Nat) (f : Lane → Lane) :
    (s.onLane k f).core k = { s.core k with lane := f (s.core k).lane } := by simp [State.onLane]

theorem State.core_onLane_ne (s : State) {k j : Nat} (f : Lane → Lane) (h : j ≠ k) : (s.onLane k f).core j = s.core j :=
  s.core_onCore_ne _ h

@[simp] theorem State.core_onCrew (s : State) (k slot : Nat) (f : Crew → Crew) :
    (s.onCrew k slot f).core k = { s.core k with crews := (s.core k).crews.modify slot f } := by simp [State.onCrew]

theorem State.core_onCrew_ne (s : State) {k j : Nat} (slot : Nat) (f : Crew → Crew) (h : j ≠ k) :
    (s.onCrew k slot f).core j = s.core j := s.core_onCore_ne _ h

@[simp] theorem State.crew_onCrew (s : State) (k slot : Nat) (f : Crew → Crew) :
    (s.onCrew k slot f).crew k slot = (s.crew k slot).map f := by simp [State.crew]

theorem State.crew_onCrew_ne (s : State) (k slot : Nat) (f : Crew → Crew) {j t : Nat} (h : j ≠ k ∨ t ≠ slot) :
    (s.onCrew k slot f).crew j t = s.crew j t := by
  by_cases hj : j = k
  · subst hj
    simp [State.crew, FMap.find_modify_ne _ _ (h.resolve_left (fun x => x rfl))]
  · simp [State.crew, State.core_onCrew_ne s slot f hj]

@[simp] theorem State.crew_onThread (s : State) (k slot tid : Nat) (f : Thread → Thread) :
    (s.onThread k slot tid f).crew k slot =
      (s.crew k slot).map (fun w => { w with threads := w.threads.modify tid f }) := by simp [State.onThread]

theorem State.crew_onThread_ne (s : State) (k slot tid : Nat) (f : Thread → Thread) {j t : Nat} (h : j ≠ k ∨ t ≠ slot) :
    (s.onThread k slot tid f).crew j t = s.crew j t := s.crew_onCrew_ne k slot _ h

@[simp] theorem State.thread_onThread (s : State) (k slot tid : Nat) (f : Thread → Thread) :
    (s.onThread k slot tid f).thread k slot tid = (s.thread k slot tid).map f := by
  simp only [State.thread, State.crew_onThread]
  cases s.crew k slot <;> simp

theorem State.thread_onThread_ne (s : State) (k slot tid : Nat) (f : Thread → Thread) {j t i : Nat}
    (h : j ≠ k ∨ t ≠ slot ∨ i ≠ tid) : (s.onThread k slot tid f).thread j t i = s.thread j t i := by
  by_cases hj : j ≠ k ∨ t ≠ slot
  · simp only [State.thread, s.crew_onThread_ne k slot tid f hj]
  · obtain ⟨rfl, rfl⟩ : j = k ∧ t = slot := by omega
    have hi : i ≠ tid := by omega
    simp only [State.thread, State.crew_onThread]
    cases s.crew j t <;> simp [FMap.find_modify_ne _ _ hi]

theorem State.thread_of_crew {s : State} {k slot tid : Nat} {w : Crew} (h : s.crew k slot = some w) :
    s.thread k slot tid = w.threads.find tid := by simp [State.thread, h]

/-- A core's own data stays when a crew of it changes. -/
@[simp] theorem State.lane_onCrew (s : State) (k slot : Nat) (f : Crew → Crew) (j : Nat) :
    ((s.onCrew k slot f).core j).lane = (s.core j).lane := by
  by_cases h : j = k
  · subst h; simp
  · rw [s.core_onCrew_ne slot f h]

@[simp] theorem State.lane_onThread (s : State) (k slot tid : Nat) (f : Thread → Thread) (j : Nat) :
    ((s.onThread k slot tid f).core j).lane = (s.core j).lane := s.lane_onCrew k slot _ j

@[simp] theorem State.pts_onThread (s : State) (k slot tid : Nat) (f : Thread → Thread) (j : Nat) :
    ((s.onThread k slot tid f).core j).pts = (s.core j).pts := by
  by_cases h : j = k
  · subst h; simp [State.onThread]
  · rw [State.onThread, s.core_onCrew_ne slot _ h]

@[simp] theorem State.born_onThread (s : State) (k slot tid : Nat) (f : Thread → Thread) (j : Nat) :
    ((s.onThread k slot tid f).core j).born = (s.core j).born := by
  by_cases h : j = k
  · subst h; simp [State.onThread]
  · rw [State.onThread, s.core_onCrew_ne slot _ h]

@[simp] theorem State.cluster_onCluster (s : State) (n : Nat) (f : Cluster → Cluster) :
    (s.onCluster n f).cluster n = f (s.cluster n) := by simp [State.cluster, State.onCluster]

theorem State.cluster_onCluster_ne (s : State) {n j : Nat} (f : Cluster → Cluster) (h : j ≠ n) :
    (s.onCluster n f).cluster j = s.cluster j := by simp [State.cluster, State.onCluster, FMap.get_put_ne _ _ _ h]

@[simp] theorem State.isle_onIsle (s : State) (n : Nat) (f : Isle → Isle) : (s.onIsle n f).isle n = f (s.isle n) := by
  simp [State.isle, State.onIsle]

theorem State.isle_onIsle_ne (s : State) {n j : Nat} (f : Isle → Isle) (h : j ≠ n) :
    (s.onIsle n f).isle j = s.isle j := by simp [State.isle, State.onIsle, FMap.get_put_ne _ _ _ h]

end Sys2Proof.Machine
end

