-- ==== Sys2Proof/Laws/Issue.lean ====
section
/-! SUPPORT. Laws of issuing: what the shared operations around an instruction's own effect come to, for a gang and for a
beacon lane (R9, R142, R149, R167, R185, R236, R240). -/

set_option Elab.async false

namespace Sys2Proof.Machine

/-! ### Before the effect -/

@[simp] theorem Thread.openWin_fields (th : Thread) (n : Nat) :
    (th.openWin n).regs = th.regs ∧ (th.openWin n).pc = th.pc ∧ (th.openWin n).sp = th.sp ∧
      (th.openWin n).latch = th.latch ∧ (th.openWin n).segs = th.segs ∧ (th.openWin n).flags = th.flags ∧
      (th.openWin n).life = th.life ∧ (th.openWin n).bind = th.bind ∧ (th.openWin n).mac = th.mac ∧
      (th.openWin n).shadows = th.shadows ∧ (th.openWin n).rsv = th.rsv ∧ (th.openWin n).cover = th.cover := by
  unfold Thread.openWin
  split
  · split <;> simp
  · simp

/-- A window that opens changes nothing but the window and the latches' validity. -/
theorem Thread.openWin_eq (th : Thread) (n : Nat) :
    th.openWin n = { th with win := (th.openWin n).win, lvalid := (th.openWin n).lvalid } := by
  unfold Thread.openWin
  split
  · split <;> rfl
  · rfl

/-- No trap comes before the effect (R167). -/
theorem firstTrap_none {c : Ctx} {i : Instr} {pre : Thread → Option Raise} {th : Thread}
    (hb : badBind i th.bind = false) (hp : privOf i = .u ∨ (privOf i = .s ∧ c.super = true)) (hpre : pre th = none)
    (ho : operandTrap c i.opnds th = none) : firstTrap c i pre th = none := by
  unfold firstTrap
  rw [hb]
  rcases hp with hp | ⟨hp, hs⟩ <;> simp [*]

/-- A privileged instruction traps in user mode, and an instruction of the beacon lane always (R68, R167). -/
theorem firstTrap_priv {c : Ctx} {i : Instr} {pre : Thread → Option Raise} {th : Thread}
    (hb : badBind i th.bind = false) (hp : privOf i = .b ∨ (privOf i = .s ∧ c.super = false)) :
    firstTrap c i pre th = some ⟨causePriv, wordOf i, 0⟩ := by
  unfold firstTrap
  rw [hb]
  rcases hp with hp | ⟨hp, hs⟩ <;> simp [*]

/-! ### After the effect -/

/-- A member that stands in no window that another member closed stays as it is. -/
theorem Thread.closeWith_same (th : Thread) (back : Option Word) (last shut : Bool) (h : th.win.isSome = true → shut = false) :
    th.closeWith back last shut false = th := by
  unfold Thread.closeWith
  split
  · simp only [Bool.false_and, Bool.false_eq_true, if_false, Bool.or_false]
    split
    · next hs => simp_all
    · rfl
  · rfl

/-- A gang of one thread that did not trap needs no closing. -/
theorem find_closeGang_one (n tid : Nat) (last : Bool) (old ts : FMap Thread) (th : Thread) (hf : ts.find tid = some th)
    (hn : th.isTrapped = false) (j : Nat) : (closeGang n [tid] last old ts).find j = ts.find j := by
  unfold closeGang
  simp only [FMap.find_mapVal, hf, List.any_cons, List.any_nil, Bool.or_false]
  by_cases hj : j = tid
  · subst hj
    simp only [hf, Option.map_some, List.contains_cons, beq_self_eq_true, Bool.true_or, if_true]
    have hb : trappedIn ((old.find j).map (fun th => th.openWin n)) (some th) = false := by
      cases old.find j <;> simp [trappedIn, hn]
    rw [hb, Thread.closeWith_same]
    intro h
    cases hw : th.win with
    | none => simp [hw] at h
    | some v => cases old.find j <;> simp [leftWin, hw]
  · have : ([tid].contains j) = false := by simp [hj]
    simp only [this, Bool.false_eq_true, if_false]
    cases ts.find j <;> rfl

/-- A gang of one thread that trapped is left as it is (R185). -/
theorem find_closeGang_trapped (n tid : Nat) (last : Bool) (old ts : FMap Thread) (th : Thread) (hf : ts.find tid = some th)
    (hn : th.life = .trapped) (j : Nat) : (closeGang n [tid] last old ts).find j = ts.find j := by
  unfold closeGang
  simp only [FMap.find_mapVal]
  by_cases hj : j = tid
  · subst hj
    simp [hf, Thread.closeWith, hn]
  · have : ([tid].contains j) = false := by simp [hj]
    simp only [this, Bool.false_eq_true, if_false]
    cases ts.find j <;> rfl

/-- The closing of a gang, as `gangFold` does it; `n` and `old` are the cycle and the threads before the instruction. -/
def State.closed (s : State) (n : Nat) (old : FMap Thread) (core slot : Nat) (tids : List Nat) (i : Instr) : State :=
  s.onCrew core slot (fun w => { w with threads := closeGang n tids (lastOnly i) old w.threads })

/-- After a gang of one thread, every thread is as the effect and the thread's own accounting left it. -/
theorem State.thread_closed_one {s : State} {core slot tid : Nat} {th : Thread} (n : Nat) (old : FMap Thread) (i : Instr)
    (h : s.thread core slot tid = some th) (a b c : Nat) :
    (s.closed n old core slot [tid] i).thread a b c = s.thread a b c := by
  by_cases hab : a = core ∧ b = slot
  · obtain ⟨rfl, rfl⟩ := hab
    simp only [State.thread, State.closed, State.crew_onCrew]
    cases hw : s.crew a b with
    | none => rfl
    | some w =>
      have hf : w.threads.find tid = some th := by simpa [State.thread, hw] using h
      simp only [Option.map_some, Option.bind_some]
      by_cases ht : th.life = .trapped
      · exact find_closeGang_trapped n tid _ _ _ th hf ht c
      · exact find_closeGang_one n tid _ _ _ th hf (by unfold Thread.isTrapped; split <;> simp_all) c
  · have hab : a ≠ core ∨ b ≠ slot := by omega
    simp only [State.thread, State.closed, s.crew_onCrew_ne core slot _ hab]

/-- An effect that goes on: neither a trap nor a stall. -/
def Eff.goes : Eff → Bool
  | .trap _ => false
  | .trapOn _ => false
  | .stall => false
  | _ => true

/-- WHAT A SHARED INSTRUCTION OF A GANG OF ONE THREAD COMES TO: its effect, then the thread's accounting. -/
theorem gangFold_one {s s2 : State} {core slot gsize tid : Nat} {i : Instr} {pre : State → Ctx → Thread → Option Raise}
    {body : Body} {w : Crew} {th : Thread} {e : Eff} (hw : s.crew core slot = some w) (hf : w.threads.find tid = some th)
    (hl : th.life = .ready)
    (ht : firstTrap (s.ctx core slot w gsize tid) i (pre s (s.ctx core slot w gsize tid)) (th.openWin s.cycle) = none)
    (hb : body (s.ctx core slot w gsize tid) (s.onThread core slot tid (fun t => t.openWin s.cycle)) = .next (s2, e))
    (he : e.goes = true) :
    s.gangFold core slot [tid] gsize i pre body =
      .next ((s2.onThread core slot tid (fun t =>
        t.settle s.cycle i (s.schedFor (s.ctx core slot w gsize tid) t) e)).closed s.cycle w.threads core slot [tid] i) := by
  unfold State.gangFold State.issueAll State.issueOne
  simp only [hw, hf, hl, ne_eq, not_true_eq_false, if_false, ht, hb]
  cases e <;> simp_all [Eff.goes, State.issueAll, State.closed]

/-- A shared instruction of a gang of one thread that traps before its effect. -/
theorem gangFold_trap {s : State} {core slot gsize tid : Nat} {i : Instr} {pre : State → Ctx → Thread → Option Raise}
    {body : Body} {w : Crew} {th : Thread} {r : Raise} (hw : s.crew core slot = some w) (hf : w.threads.find tid = some th)
    (hl : th.life = .ready)
    (ht : firstTrap (s.ctx core slot w gsize tid) i (pre s (s.ctx core slot w gsize tid)) (th.openWin s.cycle) = some r) :
    s.gangFold core slot [tid] gsize i pre body =
      .next ((((s.onThread core slot tid (fun t => t.openWin s.cycle)).onThread core slot tid (fun t => t.trapSite i)).trapThread
        core slot tid r).closed s.cycle w.threads core slot [tid] i) := by
  unfold State.gangFold State.issueAll State.issueOne
  simp only [hw, hf, hl, ne_eq, not_true_eq_false, if_false, ht, State.issueAll, State.closed, Option.map_some, Option.getD_some]

/-- A shared instruction of a gang of one thread whose effect traps undoes the effect (R9, R115) but its walks (R325). -/
theorem gangFold_raises {s s2 : State} {core slot gsize tid : Nat} {i : Instr} {pre : State → Ctx → Thread → Option Raise}
    {body : Body} {w : Crew} {th : Thread} {r : Raise} (hw : s.crew core slot = some w) (hf : w.threads.find tid = some th)
    (hl : th.life = .ready)
    (ht : firstTrap (s.ctx core slot w gsize tid) i (pre s (s.ctx core slot w gsize tid)) (th.openWin s.cycle) = none)
    (hb : body (s.ctx core slot w gsize tid) (s.onThread core slot tid (fun t => t.openWin s.cycle)) = .next (s2, .trap r)) :
    s.gangFold core slot [tid] gsize i pre body =
      .next (((((s.onThread core slot tid (fun t => t.openWin s.cycle)).trapWalk core r).onThread core slot tid (fun t => t.trapSite i)).trapThread
        core slot tid r).closed s.cycle w.threads core slot [tid] i) := by
  unfold State.gangFold State.issueAll State.issueOne
  simp only [hw, hf, hl, ne_eq, not_true_eq_false, if_false, ht, hb, State.issueAll, State.closed, Option.map_some, Option.getD_some]

/-! ### Instructions that touch only their threads -/

/-- What `gangMap` makes of each thread of its crew. -/
theorem State.thread_gangMap {s : State} {core slot : Nat} {tids : List Nat} {gsize : Nat} {i : Instr}
    {pre : Ctx → Thread → Option Raise} {f : Ctx → Thread → Thread × Eff} {w : Crew} (hw : s.crew core slot = some w)
    (j : Nat) : (s.gangMap core slot tids gsize i pre f).thread core slot j =
      (closeGang s.cycle tids (lastOnly i) w.threads (w.threads.mapVal (fun t th =>
        if tids.contains t && decide (th.life = .ready) then
          th.issue (s.ctx core slot w gsize t) i (s.schedFor (s.ctx core slot w gsize t))
            (pre (s.ctx core slot w gsize t)) (f (s.ctx core slot w gsize t))
        else th))).find j := by
  simp [State.thread, State.gangMap, hw]

/-- A thread's part that runs without a trap: its effect, then its accounting. -/
theorem Thread.issue_goes {c : Ctx} {i : Instr} {sched : Thread → Word → Option Bool} {pre : Thread → Option Raise}
    {f : Thread → Thread × Eff} {th t2 : Thread} {e : Eff} (ht : firstTrap c i pre (th.openWin c.cycle) = none)
    (hf : f (th.openWin c.cycle) = (t2, e)) (he : e.goes = true) :
    th.issue c i sched pre f = t2.settle c.cycle i (sched t2) e := by
  unfold Thread.issue
  simp only [ht, hf]
  cases e <;> simp_all [Eff.goes]

/-- A thread's part that traps before its effect. -/
theorem Thread.issue_trap {c : Ctx} {i : Instr} {sched : Thread → Word → Option Bool} {pre : Thread → Option Raise}
    {f : Thread → Thread × Eff} {th : Thread} {r : Raise} (ht : firstTrap c i pre (th.openWin c.cycle) = some r) :
    th.issue c i sched pre f = ((th.openWin c.cycle).trapSite i).takeTrap r := by
  unfold Thread.issue
  simp only [ht]

/-- A gang in which nobody trapped: a member keeps all but its window, the validity of its latches and a due STEP. -/
theorem find_closeGang_calm {n : Nat} {tids : List Nat} {last : Bool} {old ts : FMap Thread} {j : Nat} {th : Thread}
    (hc : ∀ t ∈ tids, ∀ x, ts.find t = some x → x.isTrapped = false) (hf : ts.find j = some th) :
    ∃ win lv sd, (closeGang n tids last old ts).find j = some { th with win := win, lvalid := lv, stepDue := sd } := by
  unfold closeGang
  simp only [FMap.find_mapVal, hf, Option.map_some]
  have hb : (tids.any (fun t => trappedIn ((old.find t).map (fun th => th.openWin n)) (ts.find t))) = false := by
    rw [List.any_eq_false]
    intro t ht
    cases hx : ts.find t with
    | none => cases old.find t <;> simp [trappedIn]
    | some x => cases old.find t <;> simp [trappedIn, hc t ht x hx]
  rw [hb]
  split
  · unfold Thread.closeWith
    split
    · simp only [Bool.false_and, Bool.false_eq_true, if_false]
      split
      · exact ⟨none, 0#8, th.step, rfl⟩
      · exact ⟨th.win, th.lvalid, th.stepDue, rfl⟩
    · exact ⟨th.win, th.lvalid, th.stepDue, rfl⟩
  · exact ⟨th.win, th.lvalid, th.stepDue, rfl⟩

/-! ### Accounting -/

/-- What the accounting of an instruction keeps, and where it leaves the PC (R11). -/
theorem Thread.account_fields (th : Thread) (n : Nat) (last : Bool) (pc : Word) (taken : Bool) (sched : Option Bool) :
    (th.account n last pc taken sched).regs = th.regs ∧ (th.account n last pc taken sched).sp = th.sp ∧
      (th.account n last pc taken sched).pc = pc ∧ (th.account n last pc taken sched).latch = th.latch ∧
      (th.account n last pc taken sched).segs = th.segs ∧ (th.account n last pc taken sched).flags = th.flags ∧
      (th.account n last pc taken sched).life = th.life ∧ (th.account n last pc taken sched).trap = th.trap ∧
      (th.account n last pc taken sched).rsv = th.rsv ∧ (th.account n last pc taken sched).mac = th.mac ∧
      (th.account n last pc taken sched).bind = none ∧ (th.account n last pc taken sched).ubind = th.ubind ∧
      (th.account n last pc taken sched).arrival = th.arrival ∧ (th.account n last pc taken sched).guard = th.guard ∧
      (th.account n last pc taken sched).decl = th.decl ∧ (th.account n last pc taken sched).pushref = th.pushref ∧
      (th.account n last pc taken sched).wdcount = th.wdcount + 1 ∧ (th.account n last pc taken sched).shadows = th.shadows := by
  simp [Thread.account]

/-- A thread outside any mcall goes on to the next word. -/
theorem Thread.settle_next (th : Thread) (n : Nat) (i : Instr) (sched : Word → Option Bool) (h : th.mac = none) :
    th.settle n i sched .next = th.account n (lastOnly i) (th.pc + 1) false (sched (th.pc + 1)) := by
  simp [Thread.settle, h]

/-! ### The beacon lane -/

/-- An instruction that the lane executes, whose effect goes on (R236). -/
theorem laneRun_next {s s1 : State} {core : Nat} {i : Instr}
    {body : Lane → State → Host.Outcome (State × LaneEff) Fault Refusal} (h1 : i.onLane = true)
    (h2 : badBind i (s.core core).lane.bind = false) (hb : body (s.core core).lane s = .next (s1, .next)) :
    s.laneRun core i body = .next (s1.onLane core (fun l => { l with pc := l.pc + 1, bind := none })) := by
  simp [State.laneRun, h1, h2, hb, State.laneSettle]

/-- An instruction that the lane executes, with any effect but an exception (R236). -/
theorem laneRun_goes {s s1 : State} {core : Nat} {i : Instr}
    {body : Lane → State → Host.Outcome (State × LaneEff) Fault Refusal} {e : LaneEff} (h1 : i.onLane = true)
    (h2 : badBind i (s.core core).lane.bind = false) (hb : body (s.core core).lane s = .next (s1, e))
    (he : ∀ r, e ≠ .exc r) : s.laneRun core i body = .next (s1.laneSettle core e) := by
  simp only [State.laneRun, h1, h2, hb]
  cases e <;> simp_all

/-- An instruction that the lane does not execute, or with a hint that may not bind to it (R236). -/
theorem laneRun_illegal {s : State} {core : Nat} {i : Instr}
    {body : Lane → State → Host.Outcome (State × LaneEff) Fault Refusal}
    (h : i.onLane = false ∨ badBind i (s.core core).lane.bind = true) :
    s.laneRun core i body = .next (s.beaconException core ⟨causeIllegal, wordOf i, 0⟩) := by
  rcases h with h | h <;> simp [State.laneRun, h]

/-- An effect that raises an exception is undone (R240) but its walks (R325). -/
theorem laneRun_exc {s s1 : State} {core : Nat} {i : Instr}
    {body : Lane → State → Host.Outcome (State × LaneEff) Fault Refusal} {r : Raise} (h1 : i.onLane = true)
    (h2 : badBind i (s.core core).lane.bind = false) (hb : body (s.core core).lane s = .next (s1, .exc r)) :
    s.laneRun core i body = .next ((s.laneWalk core r).beaconException core r) := by
  simp [State.laneRun, h1, h2, hb]

end Sys2Proof.Machine
end

