-- ==== Sys2Proof/Laws/Compute.lean ====
section
/-! SUPPORT. Laws of the instructions that compute a register result: what `regOp` comes to for a gang of any size and for a
beacon lane (R114, R235), and what frames the shared operations keep. -/

set_option Elab.async false

namespace Sys2Proof.Machine

/-! ### Operands that can be read -/

/-- Allocated registers and valid latches raise nothing (R13, R17). -/
theorem operandTrap_ok {c : Ctx} {i : Instr} {th : Thread} (h : OpndsOk c i th) : operandTrap c i.opnds th = none := by
  have hb : i.opnds.filter (fun u => (useRegs u).any (fun r => !c.allocated r)) = [] := by
    rw [List.filter_eq_nil_iff]
    intro u hu
    have := (h u hu).1
    simpa using this
  have hd : ((i.opnds.map useLatches).flatten.filter (fun k => !bit th.lvalid.toNat k)) = [] := by
    rw [List.filter_eq_nil_iff]
    intro k hk
    obtain ⟨l, hl, hk⟩ := List.mem_flatten.mp hk
    obtain ⟨u, hu, rfl⟩ := List.mem_map.mp hl
    simp [(h u hu).2 k hk]
  simp [operandTrap, hb, hd]

/-- An instruction that fits traps at most for what it names itself (R167). -/
theorem Fits.firstTrap {c : Ctx} {i : Instr} {th : Thread} (h : Fits c i th) {pre : Thread → Option Raise}
    (hp : pre (th.openWin c.cycle) = none) : firstTrap c i pre (th.openWin c.cycle) = none :=
  firstTrap_none (by rw [(th.openWin_fields c.cycle).2.2.2.2.2.2.2.1]; exact h.hints) h.allowed hp (operandTrap_ok h.opnds)

@[simp] theorem State.ctx_cycle (s : State) (core slot : Nat) (w : Crew) (g t : Nat) :
    (s.ctx core slot w g t).cycle = s.cycle := rfl

/-! ### Registers and latches after a result -/

@[simp] theorem Thread.reg_putReg (th : Thread) (r : Nat) (v : Word) : (th.putReg r v).reg r = v := by
  unfold Thread.putReg Thread.reg
  split <;> simp

theorem Thread.reg_putReg_ne (th : Thread) {r n : Nat} (v : Word) (h : n ≠ r) : (th.putReg r v).reg n = th.reg n := by
  unfold Thread.putReg Thread.reg
  by_cases hr : r = 109
  · subst hr; simp [h]
  · simp only [hr, if_false]
    split
    · rfl
    · exact FMap.get_put_ne _ _ _ h

@[simp] theorem Thread.reg_result (th : Thread) (c : Ctx) (k r : Nat) (v : Word) : (th.result c k r v).reg r = v := by
  simpa [Thread.result, Thread.reg] using th.reg_putReg r v

theorem Thread.reg_result_ne (th : Thread) (c : Ctx) (k : Nat) {r n : Nat} (v : Word) (h : n ≠ r) :
    (th.result c k r v).reg n = th.reg n := by
  simpa [Thread.result, Thread.reg] using th.reg_putReg_ne v h

@[simp] theorem Thread.reg_shift (th : Thread) (c : Ctx) (k : Nat) (v : Word) (n : Nat) :
    (th.shift c k v).reg n = th.reg n := rfl

@[simp] theorem Thread.latch_putReg (th : Thread) (r : Nat) (v : Word) : (th.putReg r v).latch = th.latch := by
  unfold Thread.putReg; split <;> rfl

@[simp] theorem Thread.latch_result (th : Thread) (c : Ctx) (k r : Nat) (v : Word) : (th.result c k r v).latch = th.latch := by
  simp [Thread.result]

@[simp] theorem Thread.latchAt_shift_zero (th : Thread) (c : Ctx) (k : Nat) (v : Word) : (th.shift c k v).latchAt 0 = v := by
  simp [Thread.shift, Thread.latchAt]

theorem Thread.latchAt_shift_succ (th : Thread) (c : Ctx) (k : Nat) (v : Word) {n : Nat} (h : n < 7) :
    (th.shift c k v).latchAt (n + 1) = th.latchAt n := by
  simp only [Thread.shift, Thread.latchAt, List.take_succ_cons, List.getD_cons_succ]
  simp [List.getD_eq_getElem?_getD, h]

/-- A result in the registers (R39). -/
theorem writeResult_regs (th : Thread) (c : Ctx) (k : Nat) (nw : Bool) (d : Opnd) (r : Res) :
    RegsAfter th (th.writeResult c k nw d r) nw d r := by
  cases nw <;> cases r
  · exact ⟨by simp [Thread.writeResult], fun n hn => by simp [Thread.writeResult, Thread.reg_result_ne _ _ _ _ hn]⟩
  · refine ⟨?_, ?_, fun n h1 h2 => ?_⟩
    · simp [Thread.writeResult, Thread.reg_result_ne _ _ _ _ (show d.toNat ≠ d.toNat + 1 by omega)]
    · simp [Thread.writeResult]
    · simp [Thread.writeResult, Thread.reg_result_ne _ _ _ _ h2, Thread.reg_result_ne _ _ _ _ h1]
  · intro n; simp [Thread.writeResult]
  · intro n; simp [Thread.writeResult]

/-- A result in the latches (R16). -/
theorem writeResult_latches (th : Thread) (c : Ctx) (k : Nat) (nw : Bool) (d : Opnd) (r : Res) :
    LatchesAfter th (th.writeResult c k nw d r) r := by
  have hl (x : Thread) (h : x.latch = th.latch) (n : Nat) : x.latchAt n = th.latchAt n := by simp [Thread.latchAt, h]
  cases r with
  | w v =>
    refine ⟨by simp [Thread.writeResult], fun n hn => ?_⟩
    simp only [Thread.writeResult, Thread.latchAt_shift_succ _ _ _ _ hn]
    exact hl _ (by split <;> simp) n
  | p v =>
    refine ⟨by simp [Thread.writeResult], ?_, fun n hn => ?_⟩
    · simp [Thread.writeResult, Thread.latchAt_shift_succ _ _ _ _ (show 0 < 7 by omega)]
    · simp only [Thread.writeResult, Thread.latchAt_shift_succ _ _ _ _ (show n + 1 < 7 by omega),
        Thread.latchAt_shift_succ _ _ _ _ (show n < 7 by omega)]
      exact hl _ (by split <;> simp) n

/-- A result changes nothing of a thread but its registers and latches. -/
theorem writeResult_frame (th : Thread) (c : Ctx) (k : Nat) (nw : Bool) (d : Opnd) (r : Res) :
    th.writeResult c k nw d r =
      { th with regs := (th.writeResult c k nw d r).regs, sp := (th.writeResult c k nw d r).sp,
                latch := (th.writeResult c k nw d r).latch, lvalid := (th.writeResult c k nw d r).lvalid,
                ltime := (th.writeResult c k nw d r).ltime, shadows := (th.writeResult c k nw d r).shadows } := by
  cases nw <;> cases r <;> simp [Thread.writeResult, Thread.result, Thread.shift, Thread.putReg] <;>
    (repeat' split) <;> simp_all

/-! ### Accounting -/

theorem Thread.Accounted.refl (th : Thread) : th.Accounted th := rfl

theorem Thread.AccountedRegs.of_eq {a b : Thread} (h : b =
    { a with pc := b.pc, win := b.win, cover := b.cover, bind := b.bind, lvalid := b.lvalid, skip := b.skip,
             lastIssue := b.lastIssue, age := b.age, wdcount := b.wdcount, waitMask := b.waitMask, stepDue := b.stepDue,
             live := b.live, mac := b.mac, regs := b.regs, sp := b.sp, latch := b.latch, ltime := b.ltime,
             shadows := b.shadows }) : a.AccountedRegs b := h

/-- The accounting changes only what `Accounted` names. -/
theorem Thread.account_accounted (th : Thread) (n : Nat) (last : Bool) (pc : Word) (taken : Bool) (sched : Option Bool) :
    th.Accounted (th.account n last pc taken sched) := by
  simp [Thread.Accounted, Thread.account]

/-- So does going on to the next word, inside an mcall too (R59). -/
theorem Thread.settle_next_accounted (th : Thread) (n : Nat) (i : Instr) (sched : Word → Option Bool) :
    th.Accounted (th.settle n i sched .next) := by
  simp only [Thread.settle]
  split
  · unfold Thread.macNext
    split
    · simp [Thread.Accounted]
    · simp [Thread.Accounted, Thread.account]
  · exact th.account_accounted ..

theorem Thread.openWin_accounted (th : Thread) (n : Nat) : th.Accounted (th.openWin n) := by
  rw [th.openWin_eq n]; simp [Thread.Accounted]

theorem Thread.Accounted.trans {a b c : Thread} (h1 : a.Accounted b) (h2 : b.Accounted c) : a.Accounted c := by
  unfold Thread.Accounted at *
  rw [h2, h1]

/-- A going-on thread that was in no mcall is past its instruction (R11). -/
theorem Thread.settle_next_pc (th : Thread) (n : Nat) (i : Instr) (sched : Word → Option Bool) (h : th.mac = none) :
    (th.settle n i sched .next).pc = th.pc + 1 := by
  rw [th.settle_next n i sched h]; simp [Thread.account]

theorem Thread.settle_next_life (th : Thread) (n : Nat) (i : Instr) (sched : Word → Option Bool) :
    (th.settle n i sched .next).life = th.life := by
  rw [th.settle_next_accounted n i sched]

/-! ### The gang -/

/-- Threads changed in one crew. -/
theorem State.onlyThreads_onCrew {s : State} (core slot : Nat) (f : Crew → Crew)
    (hf : ∀ w, ∃ ts, f w = { w with threads := ts }) : s.OnlyThreads (s.onCrew core slot f) core slot where
  rest := rfl
  cores k h := s.core_onCrew_ne slot f h
  here := by simp
  slots j h := s.crew_onCrew_ne core slot f (.inr h)
  crew w h := by
    obtain ⟨ts, hts⟩ := hf w
    exact ⟨ts, by simp [h, hts]⟩

/-- The reads of a thread do not depend on its window. -/
theorem Thread.reads_openWin (th : Thread) (c : Ctx) (n : Nat) : (th.openWin n).reads c = th.reads c := by
  rw [th.openWin_eq n]
  rfl

/-- WHAT `regOp` COMES TO FOR A GANG (R114). -/
theorem regOp_gang {s : State} {i : Instr} {core slot gsize : Nat} {tids : List Nat} {w : Crew} (dist : Nat) (nw : Bool)
    (d : Opnd) (f : Reads → Res) (h : s.GangFits i core slot tids gsize w) :
    ∃ u, regOp i dist nw d f s = .next u ∧
      s.Computes u core slot tids gsize w (fun c th => some (nw, d, f (th.reads c))) := by
  refine ⟨s.gangMap core slot tids gsize i noTrap (regThread dist nw d f), by simp [regOp, h.acting], ⟨?_, ?_⟩, ?_⟩
  · exact State.onlyThreads_onCrew _ _ _ (fun w => ⟨_, rfl⟩)
  · intro j hj
    rw [State.thread_gangMap h.crew, State.thread_of_crew h.crew]
    have hc : (tids.contains j) = false := by simpa using hj
    unfold closeGang
    simp only [FMap.find_mapVal, hc, Bool.false_and, Bool.false_eq_true, if_false]
    cases w.threads.find j <;> rfl
  · intro t ht th hf nw' d' r hr
    simp only [Option.some.injEq, Prod.mk.injEq] at hr
    obtain ⟨rfl, rfl, rfl⟩ := hr
    rw [State.thread_gangMap h.crew]
    -- one member's part
    have part (j : Nat) (hj : j ∈ tids) (x : Thread) (hx : w.threads.find j = some x) :
        x.life = .ready ∧ x.issue (s.ctx core slot w gsize j) i (s.schedFor (s.ctx core slot w gsize j))
          (noTrap (s.ctx core slot w gsize j)) (regThread dist nw d f (s.ctx core slot w gsize j)) =
        ((x.openWin s.cycle).writeResult (s.ctx core slot w gsize j) dist nw d
          (f (x.reads (s.ctx core slot w gsize j)))).settle s.cycle i
            (s.schedFor (s.ctx core slot w gsize j) ((x.openWin s.cycle).writeResult (s.ctx core slot w gsize j) dist nw d
              (f (x.reads (s.ctx core slot w gsize j))))) .next := by
      obtain ⟨y, hy, hl, hfit⟩ := h.members j hj
      obtain rfl : y = x := by rw [hx] at hy; exact (Option.some.inj hy).symm
      refine ⟨hl, ?_⟩
      rw [Thread.issue_goes (hfit.firstTrap rfl) rfl rfl]
      simp [Thread.reads_openWin]
    generalize hts : (w.threads.mapVal (fun t th =>
        if tids.contains t && decide (th.life = .ready) then
          th.issue (s.ctx core slot w gsize t) i (s.schedFor (s.ctx core slot w gsize t))
            (noTrap (s.ctx core slot w gsize t)) (regThread dist nw d f (s.ctx core slot w gsize t))
        else th)) = ts
    have find (j : Nat) (hj : j ∈ tids) (x : Thread) (hx : w.threads.find j = some x) :
        ts.find j = some (x.issue (s.ctx core slot w gsize j) i (s.schedFor (s.ctx core slot w gsize j))
          (noTrap (s.ctx core slot w gsize j)) (regThread dist nw d f (s.ctx core slot w gsize j))) := by
      rw [← hts, FMap.find_mapVal, hx]
      simp [hj, (part j hj x hx).1]
    have calm : ∀ j ∈ tids, ∀ x, ts.find j = some x → x.isTrapped = false := by
      intro j hj x hx
      obtain ⟨y, hy, hl, -⟩ := h.members j hj
      rw [find j hj y hy] at hx
      obtain rfl := Option.some.inj hx
      rw [(part j hj y hy).2]
      unfold Thread.isTrapped
      rw [Thread.settle_next_life, writeResult_frame, (y.openWin_fields s.cycle).2.2.2.2.2.2.1, hl]
    obtain ⟨win, lv, sd, hc⟩ := find_closeGang_calm (last := lastOnly i) calm (find t ht th hf)
    rw [hc, (part t ht th hf).2]
    generalize hx : (th.openWin s.cycle).writeResult (s.ctx core slot w gsize t) dist nw d
      (f (th.reads (s.ctx core slot w gsize t))) = x
    generalize hy : x.settle s.cycle i (s.schedFor (s.ctx core slot w gsize t) x) .next = y
    have ha : x.Accounted y := hy ▸ x.settle_next_accounted ..
    have hf2 := writeResult_frame (th.openWin s.cycle) (s.ctx core slot w gsize t) dist nw d
      (f (th.reads (s.ctx core slot w gsize t)))
    rw [hx] at hf2
    refine ⟨_, rfl, ?_, ?_, ?_, ?_⟩
    · have := writeResult_regs (th.openWin s.cycle) (s.ctx core slot w gsize t) dist nw d
        (f (th.reads (s.ctx core slot w gsize t)))
      rw [hx] at this
      have hr (n : Nat) : Thread.reg { y with win := win, lvalid := lv, stepDue := sd } n = x.reg n := by rw [ha]; rfl
      have ho (n : Nat) : (th.openWin s.cycle).reg n = th.reg n := by rw [th.openWin_eq]; rfl
      revert this
      unfold RegsAfter
      split <;> simp only [hr, ho] <;> exact id
    · have := writeResult_latches (th.openWin s.cycle) (s.ctx core slot w gsize t) dist nw d
        (f (th.reads (s.ctx core slot w gsize t)))
      rw [hx] at this
      have hr (n : Nat) : Thread.latchAt { y with win := win, lvalid := lv, stepDue := sd } n = x.latchAt n := by rw [ha]; rfl
      have ho (n : Nat) : (th.openWin s.cycle).latchAt n = th.latchAt n := by rw [th.openWin_eq]; rfl
      revert this
      unfold LatchesAfter
      split <;> simp only [hr, ho] <;> exact id
    · unfold Thread.AccountedRegs
      rw [ha, hf2, th.openWin_eq]
    · intro hm
      have hxm : x.mac = none := by rw [hf2, (th.openWin_fields s.cycle).2.2.2.2.2.2.2.2.1, hm]
      have hxp : x.pc = th.pc := by rw [hf2, (th.openWin_fields s.cycle).2.1]
      show y.pc = th.pc + 1
      rw [← hy, Thread.settle_next_pc _ _ _ _ hxm, hxp]

/-! ### The beacon lane -/

@[simp] theorem Lane.breg_setB (l : Lane) (n : Nat) (v : DWord) : (l.setB n v).breg n = v := by
  simp [Lane.setB, Lane.breg]

theorem Lane.breg_setB_ne (l : Lane) {n k : Nat} (v : DWord) (h : k ≠ n) : (l.setB n v).breg k = l.breg k :=
  FMap.get_set_ne _ _ _ h

/-- A result in the b registers (R235). -/
theorem lane_writeResult (l : Lane) (nw : Bool) (d : Opnd) (r : Res) : LaneAfter l (l.writeResult nw d r) nw d r := by
  cases nw
  · cases r with
    | w v =>
      simp only [LaneAfter, Lane.writeResult, Lane.writeW, Bool.false_eq_true, if_false]
      split
      · exact ⟨rfl, fun n => rfl⟩
      · exact ⟨rfl, by simp, fun n hn => l.breg_setB_ne _ hn⟩
    | p v => exact ⟨rfl, by simp [Lane.writeResult, Lane.writeP], fun n hn => l.breg_setB_ne _ hn⟩
  · cases r <;> exact ⟨rfl, fun n => rfl⟩

/-- A result changes nothing of a lane but its b registers and sp. -/
theorem lane_writeResult_frame (l : Lane) (nw : Bool) (d : Opnd) (r : Res) :
    l.writeResult nw d r = { l with b := (l.writeResult nw d r).b, sp := (l.writeResult nw d r).sp } := by
  cases nw <;> cases r <;> simp [Lane.writeResult, Lane.writeW, Lane.writeP, Lane.setB] <;> split <;> rfl

/-- A lane changed on one core. -/
theorem State.onlyLane_onLane (s : State) (core : Nat) (f : Lane → Lane) : s.OnlyLane (s.onLane core f) core where
  rest := rfl
  cores k h := s.core_onLane_ne f h
  here := by simp

@[simp] theorem State.onLane_onLane (s : State) (core : Nat) (f g : Lane → Lane) :
    (s.onLane core f).onLane core g = s.onLane core (fun l => g (f l)) := by
  have hp {α : Type} (m : FMap α) (k : Nat) (a b : α) : (m.put k a).put k b = m.put k b := by
    induction m with
    | nil => simp [FMap.put]
    | cons x m ih =>
      obtain ⟨j, c⟩ := x
      simp only [FMap.put]
      split
      · simp [FMap.put]
      · split
        · simp [FMap.put]
        · simp [FMap.put, *]
  simp [State.onLane, State.onCore, State.core, hp]

/-- WHAT `regOp` COMES TO ON A BEACON LANE (R235). -/
theorem regOp_lane {s : State} {i : Instr} {core : Nat} (dist : Nat) (nw : Bool) (d : Opnd) (f : Reads → Res)
    (h : s.LaneRuns core i) :
    ∃ u, regOp i dist nw d f s = .next u ∧
      s.LaneComputes u core (fun l => some (nw, d, f (l.reads core (s.coreCycle core) (s.core core).pts))) := by
  generalize hr : f ((s.core core).lane.reads core (s.coreCycle core) (s.core core).pts) = r
  refine ⟨s.onLane core (fun l => { (s.core core).lane.writeResult nw d r with
      pc := ((s.core core).lane.writeResult nw d r).pc + 1, bind := none }), ?_, s.onlyLane_onLane core _, ?_⟩
  · simp only [regOp, h.acting]
    rw [laneRun_next h.listed h.hints rfl]
    simp [hr]
  · intro nw' d' r' hh
    simp only [Option.some.injEq, Prod.mk.injEq] at hh
    obtain ⟨rfl, rfl, hr'⟩ := hh
    rw [hr] at hr'
    subst hr'
    simp only [State.core_onLane]
    refine ⟨?_, ?_⟩
    · have := lane_writeResult (s.core core).lane nw d r
      revert this
      unfold LaneAfter
      split <;> exact id
    · rw [lane_writeResult_frame]

end Sys2Proof.Machine
end

