-- ==== Sys2Proof/Laws/Accept.lean ====
section
/-! SUPPORT. Laws of accesses at issue: what a thread changes of the checks on an access (nothing), and what an accepted
access comes to (R148 to R150). -/

set_option Elab.async false

namespace Sys2Proof.Machine

/-! ### The checks do not look at threads -/

@[simp] theorem State.peekNat_onThread (s : State) (k slot tid : Nat) (f : Thread → Thread) (pa n : Nat) :
    (s.onThread k slot tid f).peekNat pa n = s.peekNat pa n := rfl

@[simp] theorem State.isleNo_onThread (s : State) (k slot tid : Nat) (f : Thread → Thread) (core : Nat) :
    (s.onThread k slot tid f).isleNo core = s.isleNo core := rfl

@[simp] theorem State.inPartition_onThread (s : State) (k slot tid : Nat) (f : Thread → Thread) (i pa : Nat) :
    (s.onThread k slot tid f).inPartition i pa = s.inPartition i pa := rfl

theorem State.walkFrom_onThread (s : State) (k slot tid : Nat) (f : Thread → Thread) (i va fuel : Nat) :
    ∀ level table, (s.onThread k slot tid f).walkFrom i va fuel level table = s.walkFrom i va fuel level table := by
  induction fuel with
  | zero => intro level table; rfl
  | succ n ih =>
    intro level table
    unfold State.walkFrom
    simp only [ih]
    rfl

@[simp] theorem State.walk_onThread (s : State) (k slot tid : Nat) (f : Thread → Thread) (i va : Nat) :
    (s.onThread k slot tid f).walk i va = s.walk i va := s.walkFrom_onThread ..

@[simp] theorem State.tlb_onThread (s : State) (k slot tid : Nat) (f : Thread → Thread) (j : Nat) :
    ((s.onThread k slot tid f).core j).tlb = (s.core j).tlb := by
  by_cases h : j = k
  · subst h; simp [State.onThread]
  · rw [State.onThread, s.core_onCrew_ne slot _ h]

@[simp] theorem State.itlb_onThread (s : State) (k slot tid : Nat) (f : Thread → Thread) (j : Nat) :
    ((s.onThread k slot tid f).core j).itlb = (s.core j).itlb := by
  by_cases h : j = k
  · subst h; simp [State.onThread]
  · rw [State.onThread, s.core_onCrew_ne slot _ h]

@[simp] theorem State.tlbFind_onThread (s : State) (k slot tid : Nat) (f : Thread → Thread) (fetch : Bool) (core va : Nat) :
    (s.onThread k slot tid f).tlbFind fetch core va = s.tlbFind fetch core va := by
  cases fetch <;> simp [State.tlbFind, Core.tlbFor]

@[simp] theorem State.translateFor_onThread (s : State) (k slot tid : Nat) (f : Thread → Thread) (fetch : Bool)
    (core i va : Nat) : (s.onThread k slot tid f).translateFor fetch core i va = s.translateFor fetch core i va := by
  simp only [State.translateFor, State.tlbFind_onThread, State.walk_onThread]
  rfl

@[simp] theorem State.checkFormed_onThread (s : State) (k slot tid : Nat) (f : Thread → Thread) (v : Viewer) (w : Want)
    (x : Formed) : (s.onThread k slot tid f).checkFormed v w x = s.checkFormed v w x := by
  simp [State.checkFormed, State.checkPage]

theorem State.viewer_openWin (s : State) (c : Ctx) (th : Thread) (n : Nat) : s.viewer c (th.openWin n) = s.viewer c th := by
  rw [th.openWin_eq n]; rfl

@[simp] theorem State.viewer_onThread (s : State) (k slot tid : Nat) (f : Thread → Thread) (c : Ctx) (th : Thread) :
    (s.onThread k slot tid f).viewer c th = s.viewer c th := rfl

theorem Thread.form_openWin (th : Thread) (n : Nat) (c : Ctx) (w : Want) (a : Opnd) : (th.openWin n).form c w a = th.form c w a := by
  rw [th.openWin_eq n]; rfl

/-! ### The TLB after an access -/

theorem State.walkLines_onThread (s : State) (k slot tid : Nat) (f : Thread → Thread) (va fuel : Nat) :
    ∀ level table, (s.onThread k slot tid f).walkLines va fuel level table = s.walkLines va fuel level table := by
  induction fuel with
  | zero => intro level table; rfl
  | succ n ih =>
    intro level table
    unfold State.walkLines
    simp only [ih]
    rfl

@[simp] theorem State.recallTables_onThread (s : State) (k slot tid : Nat) (f : Thread → Thread) (i va : Nat) :
    (s.onThread k slot tid f).recallTables i va = (s.recallTables i va).onThread k slot tid f := by
  unfold State.recallTables
  rw [State.walkLines_onThread]
  rfl

/-- What an access notes depends on its translation and the core's TLB alone: nothing, or a walk (R325). -/
theorem State.noteHit_eq (s : State) (v : Viewer) (h : Hit) :
    (∀ u : State, (∀ va, u.tlbFind false v.core va = s.tlbFind false v.core va) → u.noteHit v h = u) ∨
      ∃ t, ∀ u : State, (∀ va, u.tlbFind false v.core va = s.tlbFind false v.core va) →
        u.noteHit v h = (u.recallTables (u.isleNo v.core) h.addr).walked false v.core t := by
  cases hp : h.page with
  | none => exact .inl (fun u _ => by simp [State.noteHit, State.noteFor, hp])
  | some t =>
    by_cases hm : v.mmode = true
    · exact .inl (fun u _ => by simp [State.noteHit, State.noteFor, hp, hm])
    · by_cases ht : s.tlbFind false v.core h.addr = some t
      · exact .inl (fun u hu => by simp [State.noteHit, State.noteFor, State.noteUse, hp, hm, hu, ht])
      · exact .inr ⟨t, fun u hu => by simp [State.noteHit, State.noteFor, State.noteUse, hp, hm, hu, ht]⟩

theorem State.core_walked (s : State) (core : Nat) (t : Tlb) (k : Nat) :
    (s.walked false core t).core k = if k = core then { s.core core with tlb := putTlb t (s.core core).tlb } else s.core k := by
  have e : (s.walked false core t).core k = (s.onCore core (fun c => { c with tlb := putTlb t c.tlb })).core k := rfl
  rw [e]
  split
  · next h => subst h; simp
  · next h => exact s.core_onCore_ne _ h

/-- The clusters after an acquire: the leased lines of one are gone, and it has acquired (R342). -/
theorem State.cluster_walked (s : State) (core : Nat) (t : Tlb) (n : Nat) : (s.walked false core t).cluster n =
    if n = clusterOf core then { s.cluster n with l1 := (s.cluster n).l1.keep L1Line.tracked, acquired := s.nextId }
    else s.cluster n := by
  have e : (s.walked false core t).cluster n =
      ((s.onCluster (clusterOf core) (fun c => { c with l1 := c.l1.keep L1Line.tracked })).onCluster (clusterOf core)
        (fun c => { c with acquired := s.nextId })).cluster n := rfl
  rw [e]
  split
  · next h => subst h; simp [State.cluster, State.onCluster, FMap.get]
  · next h => simp [State.cluster, State.onCluster, FMap.get, FMap.find_put_ne _ _ h]

/-- A walk uses its translation, drops leased lines, and takes owned lines of the page tables back (R325, R342). -/
theorem State.walks_walked (s : State) (core i va : Nat) (t : Tlb) :
    s.Walks ((s.recallTables i va).walked false core t) core := by
  have copy : ∀ l, ((s.recallTables i va).walked false core t).copyOf (clusterOf core) l =
      (s.copyOf (clusterOf core) l).filter L1Line.tracked := by
    intro l; simp [State.copyOf, State.cluster_walked]; rfl
  exact {
    rest := rfl
    recalls := ⟨_, rfl, fun d hd => by obtain ⟨n, -, rfl⟩ := List.mem_map.mp hd; rfl⟩
    cores := fun k h => by rw [State.core_walked, if_neg h]; rfl
    here := by rw [State.core_walked, if_pos rfl]; rfl
    clusters := fun n h => by rw [State.cluster_walked, if_neg h]; rfl
    cluster := by rw [State.cluster_walked, if_pos rfl]; rfl
    copies := fun l x h => (Option.filter_eq_some_iff.mp (copy l ▸ h)).1
    tracked := fun l x h ht => by rw [copy]; exact Option.filter_eq_some_iff.mpr ⟨h, ht⟩
    ops := by
      simp only [State.recallTables, State.walked, State.dropLeased, State.cancelLeases, State.cancelWhere]
      simp only [List.map_map]
      apply List.map_congr_left
      intro o _
      simp only [Function.comp]
      split <;> (try split) <;> rfl }

theorem State.walks_refl (s : State) (core : Nat) : s.Walks s core :=
  ⟨rfl, ⟨[], by simp⟩, fun _ _ => rfl, rfl, fun _ _ => rfl, rfl, fun _ _ h => h, fun _ _ h _ => h, rfl⟩

/-- WHAT AN ACCESS NOTES of its translation (R325). -/
theorem State.walks_noteHit (s : State) (v : Viewer) (h : Hit) : s.Walks (s.noteHit v h) v.core := by
  rcases s.noteHit_eq v h with e | ⟨t, e⟩
  · rw [e s (fun _ => rfl)]; exact s.walks_refl _
  · rw [e s (fun _ => rfl)]; exact s.walks_walked ..

theorem State.crew_noteHit (s : State) (v : Viewer) (h : Hit) (k slot : Nat) :
    (s.noteHit v h).crew k slot = s.crew k slot := by
  have w := s.walks_noteHit v h
  by_cases hk : k = v.core
  · subst hk; unfold State.crew; rw [w.here]
  · unfold State.crew; rw [w.cores k hk]

theorem State.thread_noteHit (s : State) (v : Viewer) (h : Hit) (k slot tid : Nat) :
    (s.noteHit v h).thread k slot tid = s.thread k slot tid := by
  simp only [State.thread, s.crew_noteHit]

/-- A state that differs from another in one core's crew's threads. -/
structure State.NearBy (s u : State) (core slot tid : Nat) : Prop where
  rest : u = { s with cores := u.cores, ops := u.ops, nextId := u.nextId }
  cores : ∀ k, k ≠ core → u.core k = s.core k
  here : u.core core = { s.core core with crews := (u.core core).crews }
  slots : ∀ j, j ≠ slot → u.crew core j = s.crew core j
  crew : ∀ w, s.crew core slot = some w → ∃ ts, u.crew core slot = some { w with threads := ts }
  others : ∀ t, t ≠ tid → u.thread core slot t = s.thread core slot t

theorem State.NearBy.refl (s : State) (core slot tid : Nat) : s.NearBy s core slot tid :=
  ⟨rfl, fun _ _ => rfl, rfl, fun _ _ => rfl, fun w h => ⟨w.threads, h⟩, fun _ _ => rfl⟩

theorem State.NearBy.trans {s t u : State} {core slot tid : Nat} (h1 : s.NearBy t core slot tid)
    (h2 : t.NearBy u core slot tid) : s.NearBy u core slot tid where
  rest := by rw [h2.rest, h1.rest]
  cores k h := (h2.cores k h).trans (h1.cores k h)
  here := by rw [h2.here, h1.here]
  slots j h := (h2.slots j h).trans (h1.slots j h)
  crew w h := by
    obtain ⟨ts, e⟩ := h1.crew w h
    obtain ⟨ts', e'⟩ := h2.crew _ e
    exact ⟨ts', e'⟩
  others t h := (h2.others t h).trans (h1.others t h)

theorem State.nearBy_onThread (s : State) (core slot tid : Nat) (f : Thread → Thread) :
    s.NearBy (s.onThread core slot tid f) core slot tid where
  rest := rfl
  cores k h := s.core_onCrew_ne slot _ h
  here := by simp [State.onThread]
  slots j h := s.crew_onThread_ne core slot tid f (.inr h)
  crew w h := ⟨w.threads.modify tid f, by simp [h]⟩
  others t h := s.thread_onThread_ne core slot tid f (.inr (.inr h))

/-- What an access notes after a thread's change is what it notes before it, and the change. -/
theorem State.nearBy_noteHit (s : State) (v : Viewer) (h : Hit) (slot tid : Nat) (f : Thread → Thread) :
    (s.noteHit v h).NearBy ((s.onThread v.core slot tid f).noteHit v h) v.core slot tid ∧
      ((s.onThread v.core slot tid f).noteHit v h).ops = (s.noteHit v h).ops := by
  have hf : ∀ va, (s.onThread v.core slot tid f).tlbFind false v.core va = s.tlbFind false v.core va := by simp
  rcases s.noteHit_eq v h with e | ⟨t, e⟩
  · rw [e s (fun _ => rfl), e _ hf]; exact ⟨s.nearBy_onThread v.core slot tid f, rfl⟩
  · rw [e s (fun _ => rfl), e _ hf, State.isleNo_onThread, State.recallTables_onThread]
    generalize s.recallTables (s.isleNo v.core) h.addr = r
    have n := r.nearBy_onThread v.core slot tid f
    refine ⟨⟨rfl, fun k hk => ?_, ?_, fun j hj => ?_, fun w hw => ?_, fun j hj => ?_⟩, rfl⟩
    · simp only [State.core_walked, hk, if_false]; exact n.cores k hk
    · simp only [State.core_walked, if_true]; rw [n.here]
    · simp only [State.crew, State.core_walked, if_true]; exact n.slots j hj
    · simp only [State.crew, State.core_walked, if_true] at hw ⊢; exact n.crew w hw
    · simp only [State.thread, State.crew, State.core_walked, if_true]; exact n.others j hj

theorem State.nearBy_launch (s : State) (o : MemOp) (a b : Bool) : s.NearBy (s.launch o a b) o.core o.slot o.tid := by
  have h := State.nearBy_onThread { s.fresh.2 with ops := s.fresh.2.ops ++ [{ o with id := s.fresh.1 }] } o.core o.slot o.tid
    (fun t => { t.raiseFlag o.flag with
      waitAll := if a then s.fresh.1 :: t.waitAll.filter (fun k => s.inFlight k) else t.waitAll.filter (fun k => s.inFlight k)
      waitMem := if b then s.fresh.1 :: t.waitMem.filter (fun k => s.inFlight k) else t.waitMem.filter (fun k => s.inFlight k) })
  exact ⟨rfl, h.cores, h.here, h.slots, h.crew, h.others⟩

theorem State.nearBy_closed {s : State} {core slot tid : Nat} {th : Thread} (n : Nat) (old : FMap Thread) (i : Instr)
    (h : s.thread core slot tid = some th) : s.NearBy (s.closed n old core slot [tid] i) core slot tid where
  rest := rfl
  cores k hk := s.core_onCrew_ne slot _ hk
  here := by simp [State.closed]
  slots j hj := s.crew_onCrew_ne core slot _ (.inr hj)
  crew w hw := ⟨_, by simp [State.closed, hw]; rfl⟩
  others t _ := State.thread_closed_one n old i h core slot t

/-! ### Acceptance -/

/-- AN ACCESS OF A THREAD ALONE IN ITS GANG IS ACCEPTED (R148 to R150): from its checks to the operation in flight. -/
theorem accept_one {s : State} {i : Instr} {core slot tid gsize : Nat} {w : Crew} {th : Thread} {want : Want} {a : Opnd}
    {h : Hit} {o : MemOp} {all mem : Bool} {g : Thread → Thread} {body : Body} {s3 : State}
    (solo : s.Solo core slot tid gsize w th) (fits : Fits (s.ctx core slot w gsize tid) i th)
    (reach : s.Reaches (s.ctx core slot w gsize tid) th want (th.form (s.ctx core slot w gsize tid) want a) h)
    (hg : ∀ x : Thread, g x = { x with rsv := (g x).rsv })
    (ho : o.core = core ∧ o.slot = slot ∧ o.tid = tid ∧ o.uid = w.uid ∧ o.pc = th.pcOf ∧ o.value = none ∧ o.reply = none ∧
      o.held = false ∧ o.poisoned = false) (flag : BitVec 4) (hflag : o.flag = flag.toNat)
    (near3 : ((s.onThread core slot tid (fun t => t.openWin s.cycle)).noteHit
      (s.viewer (s.ctx core slot w gsize tid) th) h).NearBy s3 core slot tid)
    (t3 : s3.thread core slot tid = some (g (th.openWin s.cycle))) (id3 : s3.nextId = s.nextId ∧ s3.ops =
      ((s.onThread core slot tid (fun t => t.openWin s.cycle)).noteHit (s.viewer (s.ctx core slot w gsize tid) th) h).ops)
    (hb : body (s.ctx core slot w gsize tid) (s.onThread core slot tid (fun t => t.openWin s.cycle)) =
      .next (s3.launch o all mem, .next)) :
    ∃ s0 u, s.gangFold core slot [tid] gsize i (accessPre want a) body = .next u ∧ s.Walks s0 core ∧
      s0.Accepts u core slot tid w th flag (g (th.openWin s.cycle)).rsv { o with id := s.nextId } := by
  have hpre : accessPre want a s (s.ctx core slot w gsize tid) (th.openWin s.cycle) = none := by
    simp [accessPre, State.viewer_openWin, reach.allowed]
  have hft := fits.firstTrap (pre := accessPre want a s (s.ctx core slot w gsize tid)) hpre
  rw [gangFold_one solo.crew solo.thread solo.ready hft hb rfl]
  obtain ⟨oc, os, ot, ou, op, ov, orp, oh, opo⟩ := ho
  -- the states on the way
  have n12 := s.nearBy_noteHit (s.viewer (s.ctx core slot w gsize tid) th) h slot tid (fun t => t.openWin s.cycle)
  rw [show (s.viewer (s.ctx core slot w gsize tid) th).core = core from rfl] at n12
  have wk : s.Walks (s.noteHit (s.viewer (s.ctx core slot w gsize tid) th) h) core :=
    s.walks_noteHit (s.viewer (s.ctx core slot w gsize tid) th) h
  have crew1 : (s.noteHit (s.viewer (s.ctx core slot w gsize tid) th) h).crew core slot = some w := by
    rw [s.crew_noteHit, solo.crew]
  have nid1 : (s.noteHit (s.viewer (s.ctx core slot w gsize tid) th) h).nextId = s.nextId := by rw [wk.rest]
  generalize (s.onThread core slot tid (fun t => t.openWin s.cycle)).noteHit (s.viewer (s.ctx core slot w gsize tid) th) h = s2
    at near3 n12 id3
  generalize s.noteHit (s.viewer (s.ctx core slot w gsize tid) th) h = s1 at n12 wk crew1 nid1
  have ops3 : s3.ops = s1.ops := id3.2.trans n12.2
  generalize hs4 : s3.launch o all mem = s4
  have n4 : s3.NearBy s4 core slot tid := by have := s3.nearBy_launch o all mem; rw [oc, os, ot, hs4] at this; exact this
  have ops4 : s4.ops = s1.ops ++ [{ o with id := s.nextId }] ∧ s4.nextId = s.nextId + 1 := by
    rw [← hs4]
    exact ⟨by rw [← id3.1, ← ops3]; rfl, by rw [← id3.1]; rfl⟩
  obtain ⟨x4, t4, hx4⟩ : ∃ x, s4.thread core slot tid = some x ∧
      x = { (g (th.openWin s.cycle)).raiseFlag o.flag with waitAll := x.waitAll, waitMem := x.waitMem } := by
    rw [← hs4]
    have : s3.launch o all mem = State.onThread { s3.fresh.2 with ops := s3.fresh.2.ops ++ [{ o with id := s3.fresh.1 }] }
      core slot tid (fun t => { t.raiseFlag o.flag with
        waitAll := if all then s3.fresh.1 :: t.waitAll.filter (fun k => s3.inFlight k) else t.waitAll.filter (fun k => s3.inFlight k)
        waitMem := if mem then s3.fresh.1 :: t.waitMem.filter (fun k => s3.inFlight k) else t.waitMem.filter (fun k => s3.inFlight k) }) := by
      rw [← oc, ← os, ← ot]; rfl
    rw [this, State.thread_onThread]
    have t3' : State.thread { s3.fresh.2 with ops := s3.fresh.2.ops ++ [{ o with id := s3.fresh.1 }] } core slot tid =
      some (g (th.openWin s.cycle)) := t3
    rw [t3']
    exact ⟨_, rfl, rfl⟩
  generalize hs5 : s4.onThread core slot tid
    (fun t => t.settle s.cycle i (s.schedFor (s.ctx core slot w gsize tid) t) .next) = s5
  have n5 : s4.NearBy s5 core slot tid := hs5 ▸ s4.nearBy_onThread ..
  have t5 : s5.thread core slot tid = some (x4.settle s.cycle i (s.schedFor (s.ctx core slot w gsize tid) x4) .next) := by
    rw [← hs5]; simp [t4]
  have ops5 : s5.ops = s4.ops ∧ s5.nextId = s4.nextId := by rw [← hs5]; exact ⟨rfl, rfl⟩
  have n6 := State.nearBy_closed s.cycle w.threads i t5
  have near := (((n12.1.trans near3).trans n4).trans n5).trans n6
  have t6 := State.thread_closed_one s.cycle w.threads i t5 core slot tid
  rw [t5] at t6
  have ops6 : (s5.closed s.cycle w.threads core slot [tid] i).ops = s1.ops ++ [{ o with id := s.nextId }] := ops5.1.trans ops4.1
  have id6 : (s5.closed s.cycle w.threads core slot [tid] i).nextId = s.nextId + 1 := ops5.2.trans ops4.2
  refine ⟨s1, _, rfl, wk, ?_⟩
  refine { ops := ops6, id := nid1.symm, who := ⟨oc, os, ot, ou, op, hflag⟩, new := ⟨ov, orp, oh, opo⟩,
           rest := ?_, cores := near.cores, here := near.here, slots := near.slots, crew := near.crew w crew1,
           others := near.others, thread := ?_ }
  · rw [near.rest, id6, nid1]
  · have hacc := x4.settle_next_accounted s.cycle i (s.schedFor (s.ctx core slot w gsize tid) x4)
    have hx : x4 = { th with flags := (th.raiseFlag flag.toNat).flags, win := (th.openWin s.cycle).win,
                             lvalid := (th.openWin s.cycle).lvalid, rsv := (g (th.openWin s.cycle)).rsv,
                             waitAll := x4.waitAll, waitMem := x4.waitMem } := by
      rw [hx4, hg, th.openWin_eq, hflag]
      unfold Thread.raiseFlag
      split <;> rfl
    have flds : ∀ y : Thread, x4.Accounted y → y.flags = x4.flags ∧ y.rsv = x4.rsv ∧ y.waitAll = x4.waitAll ∧
        y.waitMem = x4.waitMem := by
      intro y hy; rw [hy]; exact ⟨rfl, rfl, rfl, rfl⟩
    obtain ⟨f1, f2, f3, f4⟩ := flds _ hacc
    refine ⟨_, t6, ?_, ?_, ?_, ?_⟩
    · intro hm
      have hm4 : x4.mac = none := by rw [hx]; exact hm
      rw [Thread.settle_next_pc _ _ _ _ hm4, hx]
    · rw [f1, hx]
    · rw [f2, hx]
    · rw [f1, f2, f3, f4]
      unfold Thread.Accounted at hacc ⊢
      rw [hacc, hx]

/-- The state between the checks and the acceptance, where an instruction does nothing there. -/
theorem accept_plain {s : State} {i : Instr} {core slot tid gsize : Nat} {w : Crew} {th : Thread} {want : Want} {a : Opnd}
    {h : Hit} {o : MemOp} {all mem : Bool} {body : Body}
    (solo : s.Solo core slot tid gsize w th) (fits : Fits (s.ctx core slot w gsize tid) i th)
    (reach : s.Reaches (s.ctx core slot w gsize tid) th want (th.form (s.ctx core slot w gsize tid) want a) h)
    (ho : o.core = core ∧ o.slot = slot ∧ o.tid = tid ∧ o.uid = w.uid ∧ o.pc = th.pcOf ∧ o.value = none ∧ o.reply = none ∧
      o.held = false ∧ o.poisoned = false) (flag : BitVec 4) (hflag : o.flag = flag.toNat)
    (hb : body (s.ctx core slot w gsize tid) (s.onThread core slot tid (fun t => t.openWin s.cycle)) =
      .next (((s.onThread core slot tid (fun t => t.openWin s.cycle)).noteHit
        (s.viewer (s.ctx core slot w gsize tid) th) h).launch o all mem, .next)) :
    ∃ s0 u, s.gangFold core slot [tid] gsize i (accessPre want a) body = .next u ∧ s.Walks s0 core ∧
      s0.Accepts u core slot tid w th flag th.rsv { o with id := s.nextId } := by
  have h0 : s.thread core slot tid = some th := by rw [State.thread_of_crew solo.crew, solo.thread]
  have := accept_one (g := fun x => x) solo fits reach (fun x => rfl) ho flag hflag (State.NearBy.refl ..)
    (by rw [State.thread_noteHit, State.thread_onThread, h0]; rfl)
    ⟨by rw [(State.walks_noteHit _ _ _).rest]; rfl, rfl⟩ hb
  rw [show th.rsv = (th.openWin s.cycle).rsv from (th.openWin_fields s.cycle).2.2.2.2.2.2.2.2.2.2.1.symm]
  exact this

/-- The access of a thread alone in its gang goes on with what passed the checks. -/
theorem access_one {s : State} {core slot tid gsize : Nat} {w : Crew} {th : Thread} {want : Want} {a : Opnd} {h : Hit}
    (solo : s.Solo core slot tid gsize w th)
    (reach : s.Reaches (s.ctx core slot w gsize tid) th want (th.form (s.ctx core slot w gsize tid) want a) h)
    (k : Thread → Hit → State → Act1) :
    (s.onThread core slot tid (fun t => t.openWin s.cycle)).access (s.ctx core slot w gsize tid) want a k =
      k (th.openWin s.cycle) h ((s.onThread core slot tid (fun t => t.openWin s.cycle)).noteHit
        (s.viewer (s.ctx core slot w gsize tid) th) h) := by
  have h0 : s.thread core slot tid = some th := by rw [State.thread_of_crew solo.crew, solo.thread]
  have e : (s.onThread core slot tid (fun t => t.openWin s.cycle)).thread core slot tid = some (th.openWin s.cycle) := by
    simp [h0]
  unfold State.access
  rw [show (s.ctx core slot w gsize tid).core = core from rfl, show (s.ctx core slot w gsize tid).slot = slot from rfl,
    show (s.ctx core slot w gsize tid).tid = tid from rfl, e]
  simp only [State.viewer_onThread, State.viewer_openWin, Thread.form_openWin, State.checkFormed_onThread, reach.passed]

end Sys2Proof.Machine
end

