-- ==== Sys2Proof/Laws/Home.lean ====
section
/-! SUPPORT. Laws of reads and writes performed at a home (R309, R313 to R315, R318, R320): recalls, invalidations, evictions and
sweeps change no byte; a write changes exactly the bytes stored; memory keeps its canonical form. -/

set_option Elab.async false

namespace Sys2Proof.Machine

/-- One byte as it stands now: in its owner's copy, else in memory (R313). -/
def State.byteAt (s : State) (a : Nat) : Nat := s.peekNat a 1

/-- Two states in which every byte of memory is the same. -/
def State.SameBytes (s t : State) : Prop := ∀ a, t.byteAt a = s.byteAt a

theorem State.SameBytes.refl (s : State) : s.SameBytes s := fun _ => rfl

theorem State.SameBytes.trans {s t u : State} (h1 : s.SameBytes t) (h2 : t.SameBytes u) : s.SameBytes u :=
  fun a => (h2 a).trans (h1 a)

/-! ### What a byte depends on -/

/-- The byte of an address depends on its line's owner and, without one, on memory. -/
theorem State.byteAt_congr {s t : State} {a : Nat} (ho : t.ownerCopy (lineOf a) = s.ownerCopy (lineOf a))
    (hm : s.ownerCopy (lineOf a) = none → t.mem.read a = s.mem.read a) : t.byteAt a = s.byteAt a := by
  unfold State.byteAt State.peekNat
  rw [ho]
  split
  · rfl
  · next h => simp [Memory.readNat, Memory.readBytes, hm h]

theorem State.ownerCopy_congr {s t : State} {line : Nat} (hl : t.lines.find line = s.lines.find line)
    (hc : ∀ a, t.copyOf a line = s.copyOf a line) : t.ownerCopy line = s.ownerCopy line := by
  simp [State.ownerCopy, hl, hc]

/-- States with the same home lines, clusters and memory hold the same bytes. -/
theorem State.sameBytes_of {s t : State} (hl : t.lines = s.lines) (hc : t.clusters = s.clusters) (hm : t.mem = s.mem) :
    s.SameBytes t := fun a =>
  State.byteAt_congr (State.ownerCopy_congr (by rw [hl]) (fun c => by simp [State.copyOf, State.cluster, hc])) (fun _ => by rw [hm])

/-! ### Copies -/

@[simp] theorem State.lines_setCopy (s : State) (cl line : Nat) (x : Option L1Line) : (s.setCopy cl line x).lines = s.lines := rfl
@[simp] theorem State.mem_setCopy (s : State) (cl line : Nat) (x : Option L1Line) : (s.setCopy cl line x).mem = s.mem := rfl
@[simp] theorem State.lines_refilterLine (s : State) (cl line : Nat) : (s.refilterLine cl line).lines = s.lines := rfl
@[simp] theorem State.mem_refilterLine (s : State) (cl line : Nat) : (s.refilterLine cl line).mem = s.mem := rfl
@[simp] theorem State.copyOf_refilterLine (s : State) (cl line a l : Nat) :
    (s.refilterLine cl line).copyOf a l = s.copyOf a l := rfl
@[simp] theorem State.lines_endClusterRsv (s : State) (cl line : Nat) : (s.endClusterRsv cl line).lines = s.lines := rfl
@[simp] theorem State.mem_endClusterRsv (s : State) (cl line : Nat) : (s.endClusterRsv cl line).mem = s.mem := rfl
@[simp] theorem State.copyOf_endClusterRsv (s : State) (cl line a l : Nat) :
    (s.endClusterRsv cl line).copyOf a l = s.copyOf a l := rfl
@[simp] theorem State.lines_cancelReplies (s : State) (line : Nat) (k : List Nat) : (s.cancelReplies line k).lines = s.lines := rfl
@[simp] theorem State.mem_cancelReplies (s : State) (line : Nat) (k : List Nat) : (s.cancelReplies line k).mem = s.mem := rfl
@[simp] theorem State.copyOf_cancelReplies (s : State) (line : Nat) (k : List Nat) (a l : Nat) :
    (s.cancelReplies line k).copyOf a l = s.copyOf a l := rfl
@[simp] theorem State.mem_onHome' (s : State) (line : Nat) (f : HomeLine → HomeLine) : (s.onHome line f).mem = s.mem := rfl
@[simp] theorem State.copyOf_onHome (s : State) (line : Nat) (f : HomeLine → HomeLine) (a l : Nat) :
    (s.onHome line f).copyOf a l = s.copyOf a l := rfl
@[simp] theorem State.copyOf_setLineData (s : State) (line v a l : Nat) : (s.setLineData line v).copyOf a l = s.copyOf a l := rfl
@[simp] theorem State.lines_setLineData (s : State) (line v : Nat) : (s.setLineData line v).lines = s.lines := rfl
@[simp] theorem State.copyOf_setLinePoison (s : State) (line v a l : Nat) : (s.setLinePoison line v).copyOf a l = s.copyOf a l := rfl
@[simp] theorem State.lines_setLinePoison (s : State) (line v : Nat) : (s.setLinePoison line v).lines = s.lines := rfl
@[simp] theorem State.mem_setLineData (s : State) (line v : Nat) :
    (s.setLineData line v).mem = s.mem.writeNat (128 * line) 128 v := by
  unfold State.setLineData
  exact Eq.refl _
@[simp] theorem State.mem_setLinePoison (s : State) (line v : Nat) : (s.setLinePoison line v).mem = s.mem := rfl

theorem State.copyOf_setCopy (s : State) (cl line : Nat) (x : Option L1Line) : (s.setCopy cl line x).copyOf cl line = x := by
  unfold State.setCopy State.copyOf
  rw [State.cluster_onCluster]
  cases x <;> simp

theorem State.copyOf_setCopy_ne (s : State) (cl line : Nat) (x : Option L1Line) {a l : Nat} (h : a ≠ cl ∨ l ≠ line) :
    (s.setCopy cl line x).copyOf a l = s.copyOf a l := by
  unfold State.setCopy State.copyOf
  by_cases ha : a = cl
  · subst ha
    have hl : l ≠ line := h.resolve_left (fun x => x rfl)
    rw [State.cluster_onCluster]
    cases x
    · exact FMap.find_del_ne _ hl
    · exact FMap.find_put_ne _ _ hl
  · rw [State.cluster_onCluster_ne _ _ ha]

/-- The home line of another line stays. -/
theorem State.find_onHome_ne (s : State) {line l : Nat} (f : HomeLine → HomeLine) (h : l ≠ line) :
    (s.onHome line f).lines.find l = s.lines.find l := by
  simp [State.onHome, FMap.find_modify_ne _ _ h]

@[simp] theorem State.find_onHome (s : State) (line : Nat) (f : HomeLine → HomeLine) :
    (s.onHome line f).lines.find line = (s.lines.find line).map f := by
  simp [State.onHome]

/-- The owner of a line whose home line changes in something else. -/
theorem State.ownerCopy_onHome {s : State} {line l : Nat} {f : HomeLine → HomeLine} (hf : ∀ h, (f h).owner = h.owner) :
    (s.onHome line f).ownerCopy l = s.ownerCopy l := by
  unfold State.ownerCopy
  simp only [State.copyOf_onHome]
  by_cases h : l = line
  · subst h
    simp only [State.find_onHome]
    cases s.lines.find l with
    | none => rfl
    | some x => simp [hf]
  · rw [s.find_onHome_ne f h]

theorem State.sameBytes_onHome {s : State} {line : Nat} {f : HomeLine → HomeLine} (hf : ∀ h, (f h).owner = h.owner) :
    s.SameBytes (s.onHome line f) := fun _ => State.byteAt_congr (State.ownerCopy_onHome hf) (fun _ => rfl)

/-! ### Recall -/

/-- A line's 128 bytes written are read back byte by byte. -/
theorem read_lineWrite (m : Memory) (line v a : Nat) (h : lineOf a = line) :
    (m.writeNat (128 * line) 128 v).read a = BitVec.ofNat 8 (getData v (a % 128) 1) := by
  have ha : a = 128 * line + a % 128 := by unfold lineOf at h; omega
  have hlt : a % 128 < 128 := Nat.mod_lt _ (by omega)
  conv => lhs; rw [ha]
  rw [Memory.read_writeNat_in _ _ _ hlt]
  apply BitVec.eq_of_toNat_eq
  simp only [BitVec.toNat_ofNat, getData, Nat.shiftRight_eq_div_pow, Nat.mul_one, Nat.mod_mod]
  rw [show (256 : Nat) = 2 ^ 8 from rfl, ← Nat.pow_mul]

theorem read_lineWrite_ne (m : Memory) (line v a : Nat) (h : lineOf a ≠ line) :
    (m.writeNat (128 * line) 128 v).read a = m.read a :=
  Memory.read_writeNat_out _ _ _ (by unfold lineOf at h; omega)

/-- A home line whose owner is taken away has none. -/
theorem State.ownerCopy_onHome_none {s : State} {line : Nat} {f : HomeLine → HomeLine} (hf : ∀ h, (f h).owner = none) :
    (s.onHome line f).ownerCopy line = none := by
  unfold State.ownerCopy
  rw [State.find_onHome]
  cases s.lines.find line with
  | none => rfl
  | some x => simp [hf]

/-- After a line's owner has been flushed it has none (R314, R315). -/
theorem State.ownerCopy_flushOwner (s : State) (line : Nat) (keep : Bool) : (s.flushOwner line keep).ownerCopy line = none := by
  unfold State.flushOwner
  split
  · exact State.ownerCopy_onHome_none (fun _ => rfl)
  · next h =>
    split
    · split
      · exact State.ownerCopy_onHome_none (fun _ => rfl)
      · exact h
    · exact h

/-- A conditional change of a home line that leaves its owner. -/
theorem ite_owner (c : Bool) (y z : HomeLine) (h : z.owner = y.owner) : (if c then z else y).owner = y.owner := by
  cases c <;> simp [h]

/-- Memory after a line's owner has been flushed: the owner's data at the line (R314, R315). -/
theorem State.mem_flushOwner (s : State) (line : Nat) (keep : Bool) :
    (s.flushOwner line keep).mem = ((s.ownerCopy line).map (fun p => s.mem.writeNat (128 * line) 128 p.2.data)).getD s.mem := by
  unfold State.flushOwner
  cases s.ownerCopy line with
  | some p => cases keep <;> simp
  | none => simp only; split <;> (try split) <;> simp

theorem State.find_flushOwner_ne (s : State) {line l : Nat} (keep : Bool) (h : l ≠ line) :
    (s.flushOwner line keep).lines.find l = s.lines.find l := by
  unfold State.flushOwner
  split
  · rw [State.find_onHome_ne _ _ h]; cases keep <;> simp
  · split
    · split
      · rw [State.find_onHome_ne _ _ h, State.lines_cancelReplies]
      · rfl
    · rfl

theorem State.copyOf_flushOwner_ne (s : State) {line l : Nat} (keep : Bool) (c : Nat) (h : l ≠ line) :
    (s.flushOwner line keep).copyOf c l = s.copyOf c l := by
  unfold State.flushOwner
  split
  · rw [State.copyOf_onHome]; cases keep <;> simp [State.copyOf_setCopy_ne _ _ _ _ (.inr h)]
  · split
    · split
      · rw [State.copyOf_onHome, State.copyOf_cancelReplies]
      · rfl
    · rfl

theorem State.sameBytes_flushOwner (s : State) (line : Nat) (keep : Bool) : s.SameBytes (s.flushOwner line keep) := by
  intro a
  by_cases hl : lineOf a = line
  · -- the line itself: the owner's bytes are now memory's
    have hn := s.ownerCopy_flushOwner line keep
    unfold State.byteAt State.peekNat
    rw [hl, hn]
    simp only [Memory.readNat, Memory.readBytes, s.mem_flushOwner]
    cases ho : s.ownerCopy line with
    | some p => simp [read_lineWrite _ _ _ _ hl, leNat, getData]
    | none => simp
  · -- another line
    refine State.byteAt_congr (State.ownerCopy_congr (s.find_flushOwner_ne keep hl) (fun c => s.copyOf_flushOwner_ne keep c hl))
      (fun _ => ?_)
    rw [s.mem_flushOwner]
    cases s.ownerCopy line with
    | some p => exact read_lineWrite_ne _ _ _ _ hl
    | none => rfl

/-! ### Invalidation -/

/-- Dropping copies of a line keeps every other line's owner, and gives the line no owner. -/
theorem State.ownerCopy_dropAll (line : Nat) (l : List Nat) : ∀ s : State,
    (∀ k, k ≠ line → (l.foldl (fun t a => ((t.setCopy a line none).refilterLine a line).endClusterRsv a line) s).ownerCopy k = s.ownerCopy k) ∧
    (s.ownerCopy line = none → (l.foldl (fun t a => ((t.setCopy a line none).refilterLine a line).endClusterRsv a line) s).ownerCopy line = none) ∧
    (l.foldl (fun t a => ((t.setCopy a line none).refilterLine a line).endClusterRsv a line) s).mem = s.mem := by
  induction l with
  | nil => exact fun s => ⟨fun _ _ => rfl, id, rfl⟩
  | cons a l ih =>
    intro s
    obtain ⟨h1, h2, h3⟩ := ih (((s.setCopy a line none).refilterLine a line).endClusterRsv a line)
    refine ⟨fun k hk => ?_, fun hn => h2 ?_, h3⟩
    · rw [List.foldl_cons, h1 k hk]
      exact State.ownerCopy_congr rfl (fun c => by rw [State.copyOf_endClusterRsv, State.copyOf_refilterLine, State.copyOf_setCopy_ne _ _ _ _ (.inr hk)])
    · revert hn
      unfold State.ownerCopy
      simp only [State.copyOf_endClusterRsv, State.copyOf_refilterLine, State.lines_endClusterRsv, State.lines_refilterLine,
        State.lines_setCopy]
      split
      · next o ho =>
        by_cases hoa : o = a
        · subst hoa; rw [State.copyOf_setCopy]; exact fun _ => rfl
        · rw [State.copyOf_setCopy_ne _ _ _ _ (.inl hoa)]; exact id
      · exact id

theorem State.ownerCopy_dropShared {s : State} {line : Nat} (keep : List Nat) (h : s.ownerCopy line = none) :
    (s.dropShared line keep).ownerCopy line = none :=
  (State.ownerCopy_dropAll line _ (s.cancelReplies line keep)).2.1 h

theorem State.mem_dropShared (s : State) (line : Nat) (keep : List Nat) : (s.dropShared line keep).mem = s.mem :=
  (State.ownerCopy_dropAll line _ (s.cancelReplies line keep)).2.2

theorem State.sameBytes_dropShared {s : State} {line : Nat} (keep : List Nat) (h : s.ownerCopy line = none) :
    s.SameBytes (s.dropShared line keep) := by
  intro a
  refine State.byteAt_congr ?_ (fun _ => by rw [s.mem_dropShared])
  by_cases hl : lineOf a = line
  · rw [hl, State.ownerCopy_dropShared keep h, h]
  · exact (State.ownerCopy_dropAll line _ (s.cancelReplies line keep)).1 _ hl

/-! ### Filling and evicting -/

theorem State.sameBytes_evictHome (s : State) (line : Nat) : s.SameBytes (s.evictHome line) := by
  unfold State.evictHome
  split
  · exact State.SameBytes.refl s
  · next h hh =>
    have f := s.sameBytes_flushOwner line false
    have d := State.sameBytes_dropShared [] (s.ownerCopy_flushOwner line false)
    have n := State.ownerCopy_dropShared [] (s.ownerCopy_flushOwner line false)
    generalize (s.flushOwner line false).dropShared line [] = t at d n
    refine (f.trans d).trans ?_
    have last : ∀ t2 : State, t2.lines = t.lines → t2.clusters = t.clusters → t2.mem = t.mem →
        t.SameBytes { t2 with lines := t2.lines.del line } := by
      intro t2 e1 e2 e3 a
      refine State.byteAt_congr ?_ (fun _ => by show t2.mem.read a = _; rw [e3])
      by_cases hl : lineOf a = line
      · rw [hl, n]
        simp [State.ownerCopy]
      · exact State.ownerCopy_congr (by show (t2.lines.del line).find _ = _; rw [FMap.find_del_ne _ hl, e1])
          (fun c => by simp [State.copyOf, State.cluster, e2])
    simp only
    split
    · exact last _ rfl rfl rfl
    · exact last _ rfl rfl rfl

theorem State.sameBytes_makeRoom (s : State) (line : Nat) : s.SameBytes (s.makeRoom line) := by
  unfold State.makeRoom
  simp only
  split
  · exact State.SameBytes.refl s
  · exact s.sameBytes_evictHome _

/-- Filling a line that is not in the L2 (R308). -/
theorem State.sameBytes_fill (s : State) (line : Nat) (x : HomeLine) (h : s.ownerCopy line = none) (hx : x.owner = none) :
    s.SameBytes { s with lines := s.lines.put line x } := by
  intro a
  refine State.byteAt_congr ?_ (fun _ => rfl)
  by_cases hl : lineOf a = line
  · rw [hl, h]
    simp [State.ownerCopy, hx]
  · exact State.ownerCopy_congr (FMap.find_put_ne _ _ hl) (fun c => rfl)

/-- Room made for a line does not give it an owner. -/
theorem State.find_evictHome (s : State) (v : Nat) {line : Nat} (h : s.lines.find line = none) :
    (s.evictHome v).lines.find line = none := by
  unfold State.evictHome
  split
  · exact h
  · next x hx =>
    have hne : line ≠ v := by intro e; subst e; rw [h] at hx; cases hx
    have fl : ∀ l : List Nat, ∀ t : State, (l.foldl (fun t a => ((t.setCopy a v none).refilterLine a v).endClusterRsv a v) t).lines = t.lines := by
      intro l
      induction l with
      | nil => exact fun _ => rfl
      | cons a l ih => intro t; rw [List.foldl_cons, ih]; simp
    have hfl : (s.flushOwner v false).lines.find line = none := by rw [s.find_flushOwner_ne false hne]; exact h
    have hd : ((s.flushOwner v false).dropShared v []).lines.find line = none := by
      unfold State.dropShared
      rw [fl, State.lines_cancelReplies]; exact hfl
    simp only
    split
    · show ((State.lines _).del v).find line = none
      rw [FMap.find_del_ne _ hne]; exact hd
    · show ((State.lines _).del v).find line = none
      rw [FMap.find_del_ne _ hne]; exact hd

theorem State.sameBytes_demoteLine (s : State) (line : Nat) : s.SameBytes (s.demoteLine line) :=
  ((s.sameBytes_flushOwner line false).trans (State.sameBytes_dropShared [] (s.ownerCopy_flushOwner line false))).trans
    (State.sameBytes_onHome (fun _ => rfl))

theorem State.sameBytes_touchHome (s : State) (line : Nat) (m : CMode) : s.SameBytes (s.touchHome line m) := by
  unfold State.touchHome
  split
  · next h =>
    have hr := s.sameBytes_makeRoom line
    have hf : (s.makeRoom line).lines.find line = none := by
      unfold State.makeRoom
      simp only
      split
      · exact h
      · exact s.find_evictHome _ h
    split
    · refine hr.trans (State.sameBytes_fill _ _ _ ?_ rfl)
      simp [State.ownerCopy, hf]
    · exact State.SameBytes.refl s
  · next x hx =>
    have h1 : s.SameBytes (if x.mode ≠ m && !x.demote then s.demoteLine line else s) := by
      split
      · exact s.sameBytes_demoteLine line
      · exact State.SameBytes.refl s
    generalize (if x.mode ≠ m && !x.demote then s.demoteLine line else s) = u at h1
    simp only
    split
    · exact h1.trans (State.sameBytes_onHome (fun y => ite_owner _ _ _ rfl))
    · exact h1

/-! ### Sweeps and timestamps -/

theorem State.sameBytes_advance (s : State) (core : Nat) (t : Time) : s.SameBytes (s.advance core t) :=
  State.sameBytes_of rfl rfl rfl

/-- A leased copy is nobody's own. -/
theorem L1Line.owned_untracked {x : L1Line} (h : ¬x.tracked = true) : x.owned = false := by
  obtain ⟨st⟩ := x
  cases st <;> simp_all [L1Line.tracked, L1Line.owned]

/-- Leased copies dropped: an owner's copy is no leased one. -/
theorem State.ownerCopy_dropLeased (s : State) (cl l : Nat) : (s.dropLeased cl).ownerCopy l = s.ownerCopy l := by
  unfold State.ownerCopy
  have hc (o : Nat) : (s.dropLeased cl).copyOf o l =
      if o = cl then (s.copyOf o l).filter L1Line.tracked else s.copyOf o l := by
    have e : (s.dropLeased cl).copyOf o l = ((s.onCluster cl (fun c => { c with l1 := c.l1.keep L1Line.tracked })).onCluster cl
      (fun c => { c with acquired := s.nextId })).copyOf o l := rfl
    rw [e]
    unfold State.copyOf
    by_cases h : o = cl
    · subst h; simp
    · rw [State.cluster_onCluster_ne _ _ h, State.cluster_onCluster_ne _ _ h, if_neg h]
  rw [show (s.dropLeased cl).lines = s.lines from rfl]
  cases (s.lines.find l).bind (fun h => h.owner) with
  | none => rfl
  | some o =>
    simp only [hc]
    by_cases ho : o = cl
    · rw [if_pos ho]
      cases hx : s.copyOf o l with
      | none => rfl
      | some x => by_cases ht : x.tracked <;> simp [Option.filter, ht, L1Line.owned_untracked]
    · rw [if_neg ho]

theorem State.sameBytes_dropLeased (s : State) (cl : Nat) : s.SameBytes (s.dropLeased cl) :=
  fun _ => State.byteAt_congr (s.ownerCopy_dropLeased cl _) (fun _ => rfl)

theorem State.sameBytes_foldl {α : Type} (f : State → α → State) (h : ∀ (s : State) a, s.SameBytes (f s a)) (l : List α) :
    ∀ s : State, s.SameBytes (l.foldl f s) := by
  induction l with
  | nil => exact State.SameBytes.refl
  | cons a l ih => exact fun s => (h s a).trans (ih (f s a))

theorem State.sameBytes_sweepCluster (s : State) (cl : Nat) (t : Time) : s.SameBytes (s.sweepCluster cl t) :=
  (s.sameBytes_dropLeased cl).trans (State.sameBytes_foldl _ (fun (u : State) k => u.sameBytes_advance k _) _ _)

theorem State.sameBytes_stampWrite (s : State) (core line : Nat) (t : Time) : s.SameBytes (s.stampWrite core line t) :=
  State.SameBytes.trans (State.sameBytes_onHome (f := fun h => { h with wts := t, rts := t }) (fun _ => rfl)) (State.sameBytes_advance _ core t)

theorem State.sameBytes_stampRead (s : State) (core line lease : Nat) : s.SameBytes (s.stampRead core line lease) := by
  unfold State.stampRead
  split
  · next h _ =>
    exact State.SameBytes.trans (State.sameBytes_onHome
      (f := fun x => { x with rts := if h.demote = true then h.rts else Time.max h.rts (Time.max h.wts (s.core core).pts + BitVec.ofNat 24 lease) }) (fun _ => rfl))
      (State.sameBytes_advance _ core _)
  · exact State.SameBytes.refl s

theorem State.ownerCopy_sweepCluster (s : State) (cl l : Nat) (t : Time) :
    (s.sweepCluster cl t).ownerCopy l = s.ownerCopy l := by
  have : ∀ (ks : List Nat) (u : State),
      (ks.foldl (fun (u : State) k => u.advance k (t - BitVec.ofNat 24 (2 ^ 21))) u).ownerCopy l = u.ownerCopy l := by
    intro ks
    induction ks with
    | nil => exact fun _ => rfl
    | cons a ks ih => exact fun u => (ih _).trans rfl
  exact (this _ _).trans (s.ownerCopy_dropLeased cl l)

theorem State.ownerCopy_sweeps (cls : List Nat) (l : Nat) (t : Time) : ∀ s : State,
    (cls.foldl (fun (u : State) cl => u.sweepCluster cl t) s).ownerCopy l = s.ownerCopy l := by
  induction cls with
  | nil => exact fun _ => rfl
  | cons a cls ih => intro s; rw [List.foldl_cons, ih, State.ownerCopy_sweepCluster]

/-! ### A write and a read at the home -/

/-- Whether a copy is its cluster's own depends on its state alone. -/
theorem L1Line.owned_congr {x y : L1Line} (h : y.st = x.st) : y.owned = x.owned := by simp [L1Line.owned, h]

/-- A copy refreshed stays tracked or not. -/
theorem State.ownerCopy_refreshCopy {s : State} (cl line : Nat) {l : Nat} (h : s.ownerCopy l = none) :
    (s.refreshCopy cl line).ownerCopy l = none := by
  unfold State.refreshCopy
  split
  · next x hx =>
    by_cases hl : l = line
    · subst hl
      unfold State.ownerCopy at h ⊢
      rw [State.lines_setCopy]
      cases ho : (s.lines.find l).bind (fun h => h.owner) with
      | none => rfl
      | some o =>
        rw [ho] at h
        by_cases hc : o = cl
        · subst hc
          simp only [hx, State.copyOf_setCopy] at h ⊢
          have ht : ¬ x.owned = true := by simpa using h
          exact if_neg (by rw [L1Line.owned_congr (x := x) (by rfl)]; exact ht)
        · simpa only [State.copyOf_setCopy_ne _ _ _ _ (.inl hc)] using h
    · refine Eq.trans (State.ownerCopy_congr (s := s) rfl (fun c => ?_)) h
      exact State.copyOf_setCopy_ne s _ _ _ (.inr hl)
  · exact h

theorem State.sameBytes_refreshCopy {s : State} (cl line : Nat) (h : s.ownerCopy line = none) :
    s.SameBytes (s.refreshCopy cl line) := by
  intro a
  refine State.byteAt_congr ?_ (fun _ => by unfold State.refreshCopy; split <;> rfl)
  by_cases hl : lineOf a = line
  · rw [hl, h, s.ownerCopy_refreshCopy cl line h]
  · unfold State.refreshCopy
    split
    · exact State.ownerCopy_congr rfl (fun c => State.copyOf_setCopy_ne _ _ _ _ (.inr hl))
    · rfl

theorem State.sameBytes_refreshes (line : Nat) (cls : List Nat) : ∀ s : State, s.ownerCopy line = none →
    s.SameBytes (cls.foldl (fun (u : State) cl => u.refreshCopy cl line) s) := by
  induction cls with
  | nil => exact fun s _ => State.SameBytes.refl s
  | cons a cls ih =>
    exact fun s h => (s.sameBytes_refreshCopy a line h).trans (ih _ (s.ownerCopy_refreshCopy a line h))

@[simp] theorem State.lines_cancelLeases (s : State) (cl : Nat) (l : Option Nat) : (s.cancelLeases cl l).lines = s.lines := rfl
@[simp] theorem State.mem_cancelLeases (s : State) (cl : Nat) (l : Option Nat) : (s.cancelLeases cl l).mem = s.mem := rfl
@[simp] theorem State.ownerCopy_cancelLeases (s : State) (cl : Nat) (l : Option Nat) (n : Nat) :
    (s.cancelLeases cl l).ownerCopy n = s.ownerCopy n := rfl

/-- A leased copy renewed with the home's bytes (R317): bytes stay where the line has no owner. -/
theorem State.sameBytes_renewCopy {s : State} (cl line : Nat) (h : s.ownerCopy line = none) :
    s.SameBytes (s.renewCopy cl line) := by
  unfold State.renewCopy
  split
  · next x y hx hy =>
    intro a
    refine State.byteAt_congr ?_ (fun _ => rfl)
    rw [State.ownerCopy_cancelLeases]
    by_cases hl : lineOf a = line
    · rw [hl, h]
      unfold State.ownerCopy at h ⊢
      rw [State.lines_setCopy]
      cases ho : (s.lines.find line).bind (fun h => h.owner) with
      | none => rfl
      | some o =>
        rw [ho] at h
        by_cases hc : o = cl
        · subst hc
          simp only [hx, State.copyOf_setCopy] at h ⊢
          have ht : ¬ x.owned = true := by simpa using h
          exact if_neg (by rw [L1Line.owned_congr (x := x) (by rfl)]; exact ht)
        · simpa only [State.copyOf_setCopy_ne _ _ _ _ (.inl hc)] using h
    · exact State.ownerCopy_congr rfl (fun c => State.copyOf_setCopy_ne _ _ _ _ (.inr hl))
  · exact State.sameBytes_of rfl rfl rfl

/-- A copy that leaves a line without an owner: the line stays without. -/
theorem State.ownerCopy_setCopy_none {s : State} (cl line : Nat) {l : Nat} (h : s.ownerCopy l = none) :
    (s.setCopy cl line none).ownerCopy l = none := by
  unfold State.ownerCopy at h ⊢
  rw [State.lines_setCopy]
  cases ho : (s.lines.find l).bind (fun h => h.owner) with
  | none => rfl
  | some o =>
    rw [ho] at h
    by_cases hc : o = cl ∧ l = line
    · obtain ⟨rfl, rfl⟩ := hc
      simp only [State.copyOf_setCopy]
    · simpa only [State.copyOf_setCopy_ne _ _ _ _ (Decidable.not_and_iff_not_or_not.mp hc)] using h

theorem State.sameBytes_setCopy_none {s : State} (cl line : Nat) (h : s.ownerCopy line = none) :
    s.SameBytes (s.setCopy cl line none) := by
  intro a
  refine State.byteAt_congr ?_ (fun _ => rfl)
  by_cases hl : lineOf a = line
  · rw [hl, h, State.ownerCopy_setCopy_none cl line h]
  · exact State.ownerCopy_congr rfl (fun c => State.copyOf_setCopy_ne _ _ _ _ (.inr hl))

/-- The writer's copy after a write of a leased line (R317): bytes stay where the line has no owner. -/
theorem State.sameBytes_renewFor {s : State} (core line : Nat) (p : Time) (plain : Bool) (h : s.ownerCopy line = none) :
    s.SameBytes (s.renewFor core line p plain) := by
  unfold State.renewFor
  simp only
  split
  · split
    · exact State.sameBytes_renewCopy _ line h
    · split
      · exact (State.sameBytes_setCopy_none (clusterOf core) line h).trans (State.sameBytes_of rfl rfl rfl)
      · exact State.sameBytes_of rfl rfl rfl
  · exact State.sameBytes_of rfl rfl rfl

theorem State.ownerCopy_mergeHome (s : State) (pa n v bad l : Nat) : (s.mergeHome pa n v bad).ownerCopy l = s.ownerCopy l := rfl

theorem State.ownerCopy_stampWrite (s : State) (core line : Nat) (t : Time) (l : Nat) :
    (s.stampWrite core line t).ownerCopy l = s.ownerCopy l := by
  unfold State.stampWrite
  exact State.ownerCopy_onHome (f := fun h => { h with wts := t, rts := t }) (fun _ => rfl)

/-- Bytes stored in memory at a line that has no owner. -/
theorem State.byteAt_mergeHome {s : State} {pa n : Nat} (v bad : Nat) (hn : pa % 128 + n ≤ 128)
    (h : s.ownerCopy (lineOf pa) = none) (a : Nat) :
    (s.mergeHome pa n v bad).byteAt a = if pa ≤ a ∧ a < pa + n then bits v (8 * (a - pa) + 7) (8 * (a - pa)) else s.byteAt a := by
  have hm : (s.mergeHome pa n v bad).mem = s.mem.writeNat pa n v := rfl
  have ho := s.ownerCopy_mergeHome pa n v bad
  by_cases hin : pa ≤ a ∧ a < pa + n
  · rw [if_pos hin]
    have hl : lineOf a = lineOf pa := by unfold lineOf; omega
    unfold State.byteAt State.peekNat
    rw [ho, hl, h]
    simp only [Memory.readNat, Memory.readBytes, hm, leNat]
    obtain ⟨k, rfl⟩ : ∃ k, a = pa + k := ⟨a - pa, by omega⟩
    rw [Memory.read_writeNat_in _ _ _ (by omega)]
    simp only [BitVec.toNat_ofNat, bits, Nat.shiftRight_eq_div_pow, Nat.add_sub_cancel_left]
    rw [show (256 : Nat) = 2 ^ 8 from rfl, ← Nat.pow_mul, show 8 * k + 7 + 1 - 8 * k = 8 by omega]
    simp
  · rw [if_neg hin]
    exact State.byteAt_congr (ho _) (fun _ => by rw [hm, Memory.read_writeNat_out _ _ _ (by omega)])

/-- A write performed at the home changes exactly the bytes stored (R309, R313, R315, R317, R318, R320). -/
theorem State.byteAt_writeHomeAs (s : State) (plain : Bool) (core : Nat) (m : CMode) {pa n : Nat} (v bad : Nat) (keep : List Nat)
    (hn : pa % 128 + n ≤ 128) (a : Nat) :
    (s.writeHomeAs plain core m pa n v bad keep).byteAt a =
      if pa ≤ a ∧ a < pa + n then bits v (8 * (a - pa) + 7) (8 * (a - pa)) else s.byteAt a := by
  unfold State.writeHomeAs
  simp only
  generalize hs : ((s.touchHome (lineOf pa) m).flushOwner (lineOf pa) false).dropShared (lineOf pa) keep = s1
  have ho : s1.ownerCopy (lineOf pa) = none := hs ▸ State.ownerCopy_dropShared keep (State.ownerCopy_flushOwner _ _ _)
  have hb : s.SameBytes s1 := hs ▸ ((s.sameBytes_touchHome _ _).trans (State.sameBytes_flushOwner _ _ _)).trans
    (State.sameBytes_dropShared keep (State.ownerCopy_flushOwner _ _ _))
  generalize s1.timeAfter (s.raises (lineOf pa)) core (lineOf pa) = t
  have key (u : State) (hu : s.SameBytes u) (hou : u.ownerCopy (lineOf pa) = none) :
      (u.mergeHome pa n v bad).byteAt a =
        if pa ≤ a ∧ a < pa + n then bits v (8 * (a - pa) + 7) (8 * (a - pa)) else s.byteAt a := by
    rw [State.byteAt_mergeHome v bad hn hou, hu a]
  have timed (u : State) (hu : s.SameBytes u) (hou : u.ownerCopy (lineOf pa) = none) :
      (((u.mergeHome pa n v bad).stampWrite core (lineOf pa) t).renewFor core (lineOf pa) (s1.core core).pts plain).byteAt a =
        if pa ≤ a ∧ a < pa + n then bits v (8 * (a - pa) + 7) (8 * (a - pa)) else s.byteAt a := by
    have hst : ((u.mergeHome pa n v bad).stampWrite core (lineOf pa) t).ownerCopy (lineOf pa) = none := by
      rw [State.ownerCopy_stampWrite, State.ownerCopy_mergeHome, hou]
    rw [State.sameBytes_renewFor core (lineOf pa) _ plain hst a, State.sameBytes_stampWrite _ core _ _ a]
    exact key u hu hou
  split
  · split
    · split
      · exact timed _ (hb.trans (State.sameBytes_foldl _ (fun u cl => u.sameBytes_sweepCluster cl _) _ _))
          ((State.ownerCopy_sweeps _ _ _ _).trans ho)
      · exact timed _ hb ho
    · exact timed _ hb ho
  · rw [State.sameBytes_refreshes (lineOf pa) keep (s1.mergeHome pa n v bad) (by rw [State.ownerCopy_mergeHome, ho]) a]
    exact key _ hb ho

theorem State.byteAt_writeHome (s : State) (core : Nat) (m : CMode) {pa n : Nat} (v bad : Nat) (keep : List Nat)
    (hn : pa % 128 + n ≤ 128) (a : Nat) :
    (s.writeHome core m pa n v bad keep).byteAt a =
      if pa ≤ a ∧ a < pa + n then bits v (8 * (a - pa) + 7) (8 * (a - pa)) else s.byteAt a :=
  s.byteAt_writeHomeAs true core m v bad keep hn a

/-- A read performed at the home changes no byte (R309, R313, R318). -/
theorem State.sameBytes_readHome (s : State) (core : Nat) (m : CMode) (lease pa n : Nat) :
    s.SameBytes (s.readHome core m lease pa n).1 := by
  unfold State.readHome
  have h := (s.sameBytes_touchHome (lineOf pa) m).trans (State.sameBytes_flushOwner _ (lineOf pa) true)
  simp only
  split
  · exact h.trans (State.sameBytes_stampRead _ _ _ _)
  · exact h

end Sys2Proof.Machine
end

