-- ==== Sys2Proof/Laws/Duties.lean ====
section
/-! SUPPORT. What an access that the N4 makes itself comes to, and how far a segment of an allocation reaches. -/

namespace Sys2Proof.Machine

set_option Elab.async false

/-! ### Accesses of the N4 itself (R315) -/

/-- Bytes put where the home is free are written there. -/
theorem State.putLine_now {s : State} {core : Nat} {m : CMode} {pa n v : Nat} (h : s.await (lineOf pa) m true = none) :
    s.putLine core m pa n v = s.writeHome core m pa n v 0 [] := by
  simp only [State.putLine, h]

/-- Else they wait behind the others. -/
theorem State.putLine_later {s s1 : State} {core : Nat} {m : CMode} {pa n v : Nat} (h : s.await (lineOf pa) m true = some s1) :
    s.putLine core m pa n v = { s1 with duties := s1.duties ++ [.put core m pa n v] } := by
  simp only [State.putLine, h]

theorem State.request_now {s : State} {d : Duty} (h : s.await d.line (s.dutyMode d) (!d.recalls) = none) :
    s.request d = s.perform d := by
  simp only [State.request, h]

theorem State.request_later {s s1 : State} {d : Duty} (h : s.await d.line (s.dutyMode d) (!d.recalls) = some s1) :
    s.request d = ({ s1 with duties := s1.duties ++ [d] }, []) := by
  simp only [State.request, h]

/-- Bytes put at once are exactly those stored. -/
theorem State.byteAt_putLine {s : State} {core : Nat} {m : CMode} {pa n v : Nat} (hn : pa % 128 + n ≤ 128)
    (h : s.await (lineOf pa) m true = none) (a : Nat) :
    (s.putLine core m pa n v).byteAt a =
      if pa ≤ a ∧ a < pa + n then bits v (8 * (a - pa) + 7) (8 * (a - pa)) else s.byteAt a := by
  rw [State.putLine_now h]
  exact s.byteAt_writeHome core m v 0 [] hn a

/-- A recall for a walk changes no byte and asks for no work on tasks. -/
theorem State.perform_recall (s : State) (pa : Nat) :
    s.SameBytes (s.perform (.recall pa)).1 ∧ (s.perform (.recall pa)).2 = [] :=
  ⟨State.sameBytes_flushOwner _ _ _, rfl⟩

/-! ### Segments of an allocation (R26) -/

theorem segLimit_setLimit (g : BitVec 128) {n : Nat} (h : n < 2 ^ 48) : segLimit (setLimit g n) = n := by
  have hg := g.isLt
  unfold segLimit setLimit putBits bits
  simp only [BitVec.toNat_ofNat, Nat.shiftRight_eq_div_pow]
  omega

theorem segLimit_lt (g : BitVec 128) : segLimit g < 2 ^ 48 := Nat.mod_lt _ (by decide)

/-- An allocation's segment has no byte where it begins before the allocation, and never reaches beyond its end. -/
theorem clipSeg_within (lo n : Nat) (g : BitVec 128) :
    (segBase g < lo → segLimit (clipSeg lo n g) = 0) ∧
    (lo ≤ segBase g → segLimit (clipSeg lo n g) = min (segLimit g) (lo + n - segBase g)) := by
  have hl := segLimit_lt g
  refine ⟨fun h => ?_, fun h => ?_⟩
  · rw [show clipSeg lo n g = setLimit g 0 from if_pos h]
    exact segLimit_setLimit g (by decide)
  · rw [show clipSeg lo n g = setLimit g (min (segLimit g) (lo + n - segBase g)) from if_neg (Nat.not_lt.mpr h)]
    exact segLimit_setLimit g (Nat.lt_of_le_of_lt (Nat.min_le_left _ _) hl)

end Sys2Proof.Machine
end

