-- ==== Sys2Proof/Laws/Encoding.lean ====
section
/-! SUPPORT. Laws of the instruction word: the fields of a word that is put together from them, and what the decoder
makes of an encoded instruction (R38 to R68). -/

set_option Elab.async false

namespace Sys2Proof

/-- A field that lies in the lower part of a word. -/
theorem fieldOf_append_low {m n : Nat} (x : BitVec m) (y : BitVec n) (lo k : Nat) (h : lo + k ≤ n) :
    fieldOf (x ++ y) lo k = fieldOf y lo k := by
  ext i hi
  simp only [BitVec.getElem_extractLsb', BitVec.getLsbD_append]
  rw [if_pos (by omega)]

/-- A field that lies in the upper part of a word. -/
theorem fieldOf_append_high {m n : Nat} (x : BitVec m) (y : BitVec n) (lo k : Nat) (h : n ≤ lo) :
    fieldOf (x ++ y) lo k = fieldOf x (lo - n) k := by
  ext i hi
  simp only [BitVec.getElem_extractLsb', BitVec.getLsbD_append]
  rw [if_neg (by omega)]
  congr 1
  omega

/-- The field that is all of a word. -/
theorem fieldOf_self {n : Nat} (x : BitVec n) : fieldOf x 0 n = x := by
  ext i hi
  simp

/-- A bit that holds a flag. -/
theorem decide_ofBool (b : Bool) : decide (BitVec.ofBool b = 1#1) = b := by
  cases b <;> rfl

/-- The mask of a waitf from the two fields that hold it (R188). -/
theorem waitf_mask (m : BitVec 12) : (fieldOf m 5 7 ++ fieldOf m 0 5 : BitVec 12) = m := by
  apply BitVec.eq_of_getLsbD_eq
  intro i hi
  rw [BitVec.getLsbD_append, BitVec.getLsbD_extractLsb', BitVec.getLsbD_extractLsb']
  split <;> simp <;> intros <;> first | omega | (congr 1; omega) | skip
  rw [Nat.add_sub_cancel' (by omega)] ; simp; intro; omega

/-! ### Class by class -/

theorem rawDecode_encR (f : BitVec 7) (nw : Bool) (d a b : Opnd) : rawDecode (encR f nw d a b) = rawR f nw d a b := by
  simp (disch := decide) only
    [encR, rawDecode, fieldOf_append_low, fieldOf_append_high, fieldOf_self, decide_ofBool, Nat.reduceSub, BitVec.toNat_ofNat,
      Nat.reduceMod, Nat.reducePow]

theorem rawDecode_encF (f : BitVec 7) (nw : Bool) (d a b : Opnd) : rawDecode (encF f nw d a b) = rawF f nw d a b := by
  simp (disch := decide) only
    [encF, rawDecode, fieldOf_append_low, fieldOf_append_high, fieldOf_self, decide_ofBool, Nat.reduceSub, BitVec.toNat_ofNat,
      Nat.reduceMod, Nat.reducePow]

theorem rawDecode_encI (f : BitVec 4) (nw : Bool) (d a : Opnd) (imm : BitVec 10) :
    rawDecode (encI f nw d a imm) = rawI f nw d a imm := by
  simp (disch := decide) only
    [encI, rawDecode, fieldOf_append_low, fieldOf_append_high, fieldOf_self, decide_ofBool, Nat.reduceSub, BitVec.toNat_ofNat,
      Nat.reduceMod, Nat.reducePow]

theorem rawDecode_encM (op : BitVec 5) (seg : BitVec 3) (flag : BitVec 4) (d a : Opnd) (size : BitVec 3) :
    rawDecode (encM op seg flag d a size) = rawM op seg flag d a size := by
  simp (disch := decide) only
    [encM, rawDecode, fieldOf_append_low, fieldOf_append_high, fieldOf_self, Nat.reduceSub, BitVec.toNat_ofNat, Nat.reduceMod,
      Nat.reducePow]

theorem rawDecode_encX (op : BitVec 6) (flag : BitVec 4) (p q : Opnd) (k : BitVec 5) :
    rawDecode (encX op flag p q k) = rawX op flag p q k := by
  simp (disch := decide) only
    [encX, rawDecode, fieldOf_append_low, fieldOf_append_high, fieldOf_self, Nat.reduceSub, BitVec.toNat_ofNat, Nat.reduceMod,
      Nat.reducePow]

theorem rawDecode_encB (op : BitVec 4) (off : BitVec 25) : rawDecode (encB op off) = rawB op off := by
  simp (disch := decide) only
    [encB, rawDecode, fieldOf_append_low, fieldOf_append_high, fieldOf_self, Nat.reduceSub, BitVec.toNat_ofNat, Nat.reduceMod,
      Nat.reducePow]

theorem rawDecode_encS (op : BitVec 6) (d a : Opnd) (imm : BitVec 9) : rawDecode (encS op d a imm) = rawS op d a imm := by
  simp (disch := decide) only
    [encS, rawDecode, fieldOf_append_low, fieldOf_append_high, fieldOf_self, Nat.reduceSub, BitVec.toNat_ofNat, Nat.reduceMod,
      Nat.reducePow]

theorem rawDecode_encH (kind : BitVec 3) (x : BitVec 26) : rawDecode (encH kind x) = rawH kind x := by
  simp (disch := decide) only
    [encH, rawDecode, fieldOf_append_low, fieldOf_append_high, fieldOf_self, Nat.reduceSub, BitVec.toNat_ofNat, Nat.reduceMod,
      Nat.reducePow]

end Sys2Proof
end

