-- ==== Sys2Proof/Laws/PerInstr.lean ====
section
/-! SUPPORT. Per instruction: the word of an instruction decodes to it again, with every operand (R38 to R68). -/

set_option Elab.async false

set_option linter.unusedSimpArgs false

namespace Sys2Proof.Laws.RoundTrip

/-- An instruction with a word is what its word decodes to, before the operand checks of a thread or a lane. -/
def Statement (i : Instr) : Prop := i.hasWord = true → rawDecode (encode i) = some i

theorem add (nw : Bool) (d : Opnd) (a : Opnd) (b : Opnd) : Statement (.add nw d a b) := fun _ => rawDecode_encR ..
theorem sub (nw : Bool) (d : Opnd) (a : Opnd) (b : Opnd) : Statement (.sub nw d a b) := fun _ => rawDecode_encR ..
theorem add64 (nw : Bool) (d : Opnd) (a : Opnd) (b : Opnd) : Statement (.add64 nw d a b) := fun _ => rawDecode_encR ..
theorem sub64 (nw : Bool) (d : Opnd) (a : Opnd) (b : Opnd) : Statement (.sub64 nw d a b) := fun _ => rawDecode_encR ..
theorem mul (nw : Bool) (d : Opnd) (a : Opnd) (b : Opnd) : Statement (.mul nw d a b) := fun _ => rawDecode_encR ..
theorem mulhiS (nw : Bool) (d : Opnd) (a : Opnd) (b : Opnd) : Statement (.mulhiS nw d a b) := fun _ => rawDecode_encR ..
theorem mulhiU (nw : Bool) (d : Opnd) (a : Opnd) (b : Opnd) : Statement (.mulhiU nw d a b) := fun _ => rawDecode_encR ..
theorem mad (nw : Bool) (d : Opnd) (a : Opnd) (b : Opnd) : Statement (.mad nw d a b) := fun _ => rawDecode_encR ..
theorem mad64 (nw : Bool) (d : Opnd) (a : Opnd) (b : Opnd) : Statement (.mad64 nw d a b) := fun _ => rawDecode_encR ..
theorem divu (nw : Bool) (d : Opnd) (a : Opnd) (b : Opnd) : Statement (.divu nw d a b) := fun _ => rawDecode_encR ..
theorem divs (nw : Bool) (d : Opnd) (a : Opnd) (b : Opnd) : Statement (.divs nw d a b) := fun _ => rawDecode_encR ..
theorem remu (nw : Bool) (d : Opnd) (a : Opnd) (b : Opnd) : Statement (.remu nw d a b) := fun _ => rawDecode_encR ..
theorem rems (nw : Bool) (d : Opnd) (a : Opnd) (b : Opnd) : Statement (.rems nw d a b) := fun _ => rawDecode_encR ..
theorem shl (nw : Bool) (d : Opnd) (a : Opnd) (b : Opnd) : Statement (.shl nw d a b) := fun _ => rawDecode_encR ..
theorem shr (nw : Bool) (d : Opnd) (a : Opnd) (b : Opnd) : Statement (.shr nw d a b) := fun _ => rawDecode_encR ..
theorem sra (nw : Bool) (d : Opnd) (a : Opnd) (b : Opnd) : Statement (.sra nw d a b) := fun _ => rawDecode_encR ..
theorem rotl (nw : Bool) (d : Opnd) (a : Opnd) (b : Opnd) : Statement (.rotl nw d a b) := fun _ => rawDecode_encR ..
theorem shl64 (nw : Bool) (d : Opnd) (a : Opnd) (b : Opnd) : Statement (.shl64 nw d a b) := fun _ => rawDecode_encR ..
theorem shr64 (nw : Bool) (d : Opnd) (a : Opnd) (b : Opnd) : Statement (.shr64 nw d a b) := fun _ => rawDecode_encR ..
theorem sra64 (nw : Bool) (d : Opnd) (a : Opnd) (b : Opnd) : Statement (.sra64 nw d a b) := fun _ => rawDecode_encR ..
theorem and (nw : Bool) (d : Opnd) (a : Opnd) (b : Opnd) : Statement (.and nw d a b) := fun _ => rawDecode_encR ..
theorem or (nw : Bool) (d : Opnd) (a : Opnd) (b : Opnd) : Statement (.or nw d a b) := fun _ => rawDecode_encR ..
theorem xor (nw : Bool) (d : Opnd) (a : Opnd) (b : Opnd) : Statement (.xor nw d a b) := fun _ => rawDecode_encR ..
theorem andn (nw : Bool) (d : Opnd) (a : Opnd) (b : Opnd) : Statement (.andn nw d a b) := fun _ => rawDecode_encR ..
theorem orn (nw : Bool) (d : Opnd) (a : Opnd) (b : Opnd) : Statement (.orn nw d a b) := fun _ => rawDecode_encR ..
theorem minS (nw : Bool) (d : Opnd) (a : Opnd) (b : Opnd) : Statement (.minS nw d a b) := fun _ => rawDecode_encR ..
theorem minU (nw : Bool) (d : Opnd) (a : Opnd) (b : Opnd) : Statement (.minU nw d a b) := fun _ => rawDecode_encR ..
theorem maxS (nw : Bool) (d : Opnd) (a : Opnd) (b : Opnd) : Statement (.maxS nw d a b) := fun _ => rawDecode_encR ..
theorem maxU (nw : Bool) (d : Opnd) (a : Opnd) (b : Opnd) : Statement (.maxU nw d a b) := fun _ => rawDecode_encR ..
theorem abs (nw : Bool) (d : Opnd) (a : Opnd) : Statement (.abs nw d a) := fun _ => rawDecode_encR ..
theorem clz (nw : Bool) (d : Opnd) (a : Opnd) : Statement (.clz nw d a) := fun _ => rawDecode_encR ..
theorem ctz (nw : Bool) (d : Opnd) (a : Opnd) : Statement (.ctz nw d a) := fun _ => rawDecode_encR ..
theorem popc (nw : Bool) (d : Opnd) (a : Opnd) : Statement (.popc nw d a) := fun _ => rawDecode_encR ..
theorem brev (nw : Bool) (d : Opnd) (a : Opnd) : Statement (.brev nw d a) := fun _ => rawDecode_encR ..
theorem bfx (nw : Bool) (d : Opnd) (a : Opnd) (b : Opnd) : Statement (.bfx nw d a b) := fun _ => rawDecode_encR ..
theorem bfi (nw : Bool) (d : Opnd) (a : Opnd) (b : Opnd) : Statement (.bfi nw d a b) := fun _ => rawDecode_encR ..
theorem bmix (nw : Bool) (d : Opnd) (a : Opnd) (b : Opnd) : Statement (.bmix nw d a b) := fun _ => rawDecode_encR ..
theorem sel (nw : Bool) (d : Opnd) (a : Opnd) (b : Opnd) : Statement (.sel nw d a b) := fun _ => rawDecode_encR ..
theorem cmpEqS (nw : Bool) (d : Opnd) (a : Opnd) (b : Opnd) : Statement (.cmpEqS nw d a b) := fun _ => rawDecode_encR ..
theorem cmpNeS (nw : Bool) (d : Opnd) (a : Opnd) (b : Opnd) : Statement (.cmpNeS nw d a b) := fun _ => rawDecode_encR ..
theorem cmpLtS (nw : Bool) (d : Opnd) (a : Opnd) (b : Opnd) : Statement (.cmpLtS nw d a b) := fun _ => rawDecode_encR ..
theorem cmpLeS (nw : Bool) (d : Opnd) (a : Opnd) (b : Opnd) : Statement (.cmpLeS nw d a b) := fun _ => rawDecode_encR ..
theorem cmpGtS (nw : Bool) (d : Opnd) (a : Opnd) (b : Opnd) : Statement (.cmpGtS nw d a b) := fun _ => rawDecode_encR ..
theorem cmpGeS (nw : Bool) (d : Opnd) (a : Opnd) (b : Opnd) : Statement (.cmpGeS nw d a b) := fun _ => rawDecode_encR ..
theorem cmpEqU (nw : Bool) (d : Opnd) (a : Opnd) (b : Opnd) : Statement (.cmpEqU nw d a b) := fun _ => rawDecode_encR ..
theorem cmpNeU (nw : Bool) (d : Opnd) (a : Opnd) (b : Opnd) : Statement (.cmpNeU nw d a b) := fun _ => rawDecode_encR ..
theorem cmpLtU (nw : Bool) (d : Opnd) (a : Opnd) (b : Opnd) : Statement (.cmpLtU nw d a b) := fun _ => rawDecode_encR ..
theorem cmpLeU (nw : Bool) (d : Opnd) (a : Opnd) (b : Opnd) : Statement (.cmpLeU nw d a b) := fun _ => rawDecode_encR ..
theorem cmpGtU (nw : Bool) (d : Opnd) (a : Opnd) (b : Opnd) : Statement (.cmpGtU nw d a b) := fun _ => rawDecode_encR ..
theorem cmpGeU (nw : Bool) (d : Opnd) (a : Opnd) (b : Opnd) : Statement (.cmpGeU nw d a b) := fun _ => rawDecode_encR ..
theorem fadd (nw : Bool) (d : Opnd) (a : Opnd) (b : Opnd) : Statement (.fadd nw d a b) := fun _ => rawDecode_encF ..
theorem fsub (nw : Bool) (d : Opnd) (a : Opnd) (b : Opnd) : Statement (.fsub nw d a b) := fun _ => rawDecode_encF ..
theorem fmul (nw : Bool) (d : Opnd) (a : Opnd) (b : Opnd) : Statement (.fmul nw d a b) := fun _ => rawDecode_encF ..
theorem ffma (nw : Bool) (d : Opnd) (a : Opnd) (b : Opnd) : Statement (.ffma nw d a b) := fun _ => rawDecode_encF ..
theorem fmin (nw : Bool) (d : Opnd) (a : Opnd) (b : Opnd) : Statement (.fmin nw d a b) := fun _ => rawDecode_encF ..
theorem fmax (nw : Bool) (d : Opnd) (a : Opnd) (b : Opnd) : Statement (.fmax nw d a b) := fun _ => rawDecode_encF ..
theorem fneg (nw : Bool) (d : Opnd) (a : Opnd) : Statement (.fneg nw d a) := fun _ => rawDecode_encF ..
theorem fclass (nw : Bool) (d : Opnd) (a : Opnd) : Statement (.fclass nw d a) := fun _ => rawDecode_encF ..
theorem fcmpEq (nw : Bool) (d : Opnd) (a : Opnd) (b : Opnd) : Statement (.fcmpEq nw d a b) := fun _ => rawDecode_encF ..
theorem fcmpNe (nw : Bool) (d : Opnd) (a : Opnd) (b : Opnd) : Statement (.fcmpNe nw d a b) := fun _ => rawDecode_encF ..
theorem fcmpLt (nw : Bool) (d : Opnd) (a : Opnd) (b : Opnd) : Statement (.fcmpLt nw d a b) := fun _ => rawDecode_encF ..
theorem fcmpLe (nw : Bool) (d : Opnd) (a : Opnd) (b : Opnd) : Statement (.fcmpLe nw d a b) := fun _ => rawDecode_encF ..
theorem fcmpUnord (nw : Bool) (d : Opnd) (a : Opnd) (b : Opnd) : Statement (.fcmpUnord nw d a b) := fun _ => rawDecode_encF ..
theorem frcp (nw : Bool) (d : Opnd) (a : Opnd) : Statement (.frcp nw d a) := fun _ => rawDecode_encF ..
theorem frsq (nw : Bool) (d : Opnd) (a : Opnd) : Statement (.frsq nw d a) := fun _ => rawDecode_encF ..
theorem fsqrt (nw : Bool) (d : Opnd) (a : Opnd) : Statement (.fsqrt nw d a) := fun _ => rawDecode_encF ..
theorem fexp2 (nw : Bool) (d : Opnd) (a : Opnd) : Statement (.fexp2 nw d a) := fun _ => rawDecode_encF ..
theorem flog2 (nw : Bool) (d : Opnd) (a : Opnd) : Statement (.flog2 nw d a) := fun _ => rawDecode_encF ..
theorem fsin (nw : Bool) (d : Opnd) (a : Opnd) : Statement (.fsin nw d a) := fun _ => rawDecode_encF ..
theorem fcos (nw : Bool) (d : Opnd) (a : Opnd) : Statement (.fcos nw d a) := fun _ => rawDecode_encF ..
theorem fintFloor (nw : Bool) (d : Opnd) (a : Opnd) : Statement (.fintFloor nw d a) := fun _ => rawDecode_encF ..
theorem fintCeil (nw : Bool) (d : Opnd) (a : Opnd) : Statement (.fintCeil nw d a) := fun _ => rawDecode_encF ..
theorem fintTrunc (nw : Bool) (d : Opnd) (a : Opnd) : Statement (.fintTrunc nw d a) := fun _ => rawDecode_encF ..
theorem fintRound (nw : Bool) (d : Opnd) (a : Opnd) : Statement (.fintRound nw d a) := fun _ => rawDecode_encF ..
theorem paddBf (nw : Bool) (d : Opnd) (a : Opnd) (b : Opnd) : Statement (.paddBf nw d a b) := fun _ => rawDecode_encF ..
theorem pmulBf (nw : Bool) (d : Opnd) (a : Opnd) (b : Opnd) : Statement (.pmulBf nw d a b) := fun _ => rawDecode_encF ..
theorem pfmaBf (nw : Bool) (d : Opnd) (a : Opnd) (b : Opnd) : Statement (.pfmaBf nw d a b) := fun _ => rawDecode_encF ..
theorem paddH (nw : Bool) (d : Opnd) (a : Opnd) (b : Opnd) : Statement (.paddH nw d a b) := fun _ => rawDecode_encF ..
theorem pmulH (nw : Bool) (d : Opnd) (a : Opnd) (b : Opnd) : Statement (.pmulH nw d a b) := fun _ => rawDecode_encF ..
theorem pfmaH (nw : Bool) (d : Opnd) (a : Opnd) (b : Opnd) : Statement (.pfmaH nw d a b) := fun _ => rawDecode_encF ..
theorem dp4 (nw : Bool) (d : Opnd) (a : Opnd) (b : Opnd) : Statement (.dp4 nw d a b) := fun _ => rawDecode_encF ..
theorem f8dot4E4 (nw : Bool) (d : Opnd) (a : Opnd) (b : Opnd) : Statement (.f8dot4E4 nw d a b) := fun _ => rawDecode_encF ..
theorem f8dot4E5 (nw : Bool) (d : Opnd) (a : Opnd) (b : Opnd) : Statement (.f8dot4E5 nw d a b) := fun _ => rawDecode_encF ..
theorem qpack (nw : Bool) (d : Opnd) (a : Opnd) (b : Opnd) : Statement (.qpack nw d a b) := fun _ => rawDecode_encF ..
theorem qunpack (nw : Bool) (d : Opnd) (a : Opnd) (b : Opnd) : Statement (.qunpack nw d a b) := fun _ => rawDecode_encF ..
theorem cvt (nw : Bool) (t : Fmt) (f : Fmt) (d : Opnd) (a : Opnd) : Statement (.cvt nw t f d a) := by
  intro _; rw [encode, rawDecode_encF]; cases t <;> cases f <;> rfl
theorem movi (nw : Bool) (d : Opnd) (imm : BitVec 10) : Statement (.movi nw d imm) := fun _ => rawDecode_encI ..
theorem addi (nw : Bool) (d : Opnd) (a : Opnd) (imm : BitVec 10) : Statement (.addi nw d a imm) := fun _ => rawDecode_encI ..
theorem muli (nw : Bool) (d : Opnd) (a : Opnd) (imm : BitVec 10) : Statement (.muli nw d a imm) := fun _ => rawDecode_encI ..
theorem andi (nw : Bool) (d : Opnd) (a : Opnd) (imm : BitVec 10) : Statement (.andi nw d a imm) := fun _ => rawDecode_encI ..
theorem ori (nw : Bool) (d : Opnd) (a : Opnd) (imm : BitVec 10) : Statement (.ori nw d a imm) := fun _ => rawDecode_encI ..
theorem xori (nw : Bool) (d : Opnd) (a : Opnd) (imm : BitVec 10) : Statement (.xori nw d a imm) := fun _ => rawDecode_encI ..
theorem shli (nw : Bool) (d : Opnd) (a : Opnd) (amt : BitVec 5) : Statement (.shli nw d a amt) := by
  intro _; rw [encode, rawDecode_encI]
  simp (disch := decide) only [rawI, fieldOf_append_low, fieldOf_append_high, fieldOf_self, decide_ofBool,
    Nat.reduceSub, BitVec.toNat_ofNat, Nat.reduceMod, Nat.reducePow]
  rfl
theorem shri (nw : Bool) (d : Opnd) (a : Opnd) (amt : BitVec 5) : Statement (.shri nw d a amt) := by
  intro _; rw [encode, rawDecode_encI]
  simp (disch := decide) only [rawI, fieldOf_append_low, fieldOf_append_high, fieldOf_self, decide_ofBool,
    Nat.reduceSub, BitVec.toNat_ofNat, Nat.reduceMod, Nat.reducePow]
  rfl
theorem srai (nw : Bool) (d : Opnd) (a : Opnd) (amt : BitVec 5) : Statement (.srai nw d a amt) := by
  intro _; rw [encode, rawDecode_encI]
  simp (disch := decide) only [rawI, fieldOf_append_low, fieldOf_append_high, fieldOf_self, decide_ofBool,
    Nat.reduceSub, BitVec.toNat_ofNat, Nat.reduceMod, Nat.reducePow]
  rfl
theorem cmpeqi (nw : Bool) (d : Opnd) (a : Opnd) (imm : BitVec 10) : Statement (.cmpeqi nw d a imm) := fun _ => rawDecode_encI ..
theorem cmpnei (nw : Bool) (d : Opnd) (a : Opnd) (imm : BitVec 10) : Statement (.cmpnei nw d a imm) := fun _ => rawDecode_encI ..
theorem cmplti (nw : Bool) (d : Opnd) (a : Opnd) (imm : BitVec 10) : Statement (.cmplti nw d a imm) := fun _ => rawDecode_encI ..
theorem cmpltui (nw : Bool) (d : Opnd) (a : Opnd) (imm : BitVec 10) : Statement (.cmpltui nw d a imm) := fun _ => rawDecode_encI ..
theorem cmpgei (nw : Bool) (d : Opnd) (a : Opnd) (imm : BitVec 10) : Statement (.cmpgei nw d a imm) := fun _ => rawDecode_encI ..
theorem cmpgeui (nw : Bool) (d : Opnd) (a : Opnd) (imm : BitVec 10) : Statement (.cmpgeui nw d a imm) := fun _ => rawDecode_encI ..
theorem ld (seg : BitVec 3) (flag : BitVec 4) (d : Opnd) (a : Opnd) (size : LdSize) : Statement (.ld seg flag d a size) := by
  intro _; rw [encode, rawDecode_encM]; cases size <;> rfl
theorem st (seg : BitVec 3) (flag : BitVec 4) (d : Opnd) (a : Opnd) (size : StSize) : Statement (.st seg flag d a size) := by
  intro _; rw [encode, rawDecode_encM]; cases size <;> rfl
theorem ldx (seg : BitVec 3) (flag : BitVec 4) (d : Opnd) (a : Opnd) (size : XSize) : Statement (.ldx seg flag d a size) := by
  intro _; rw [encode, rawDecode_encM]; cases size <;> rfl
theorem stx (seg : BitVec 3) (flag : BitVec 4) (d : Opnd) (a : Opnd) (size : XSize) : Statement (.stx seg flag d a size) := by
  intro _; rw [encode, rawDecode_encM]; cases size <;> rfl
theorem pf (seg : BitVec 3) (a : Opnd) : Statement (.pf seg a) := fun _ => rawDecode_encM ..
theorem lea (seg : BitVec 3) (d : Opnd) (a : Opnd) : Statement (.lea seg d a) := fun _ => rawDecode_encM ..
theorem segq (seg : BitVec 3) (d : Opnd) (w : BitVec 2) : Statement (.segq seg d w) := by
  intro _; rw [encode, rawDecode_encM]
  simp (disch := decide) only [rawM, fieldOf_append_low, fieldOf_append_high, fieldOf_self, decide_ofBool,
    Nat.reduceSub, BitVec.toNat_ofNat, Nat.reduceMod, Nat.reducePow]
  rfl
theorem segld (seg : BitVec 3) (d : Opnd) : Statement (.segld seg d) := fun _ => rawDecode_encM ..
theorem br (off : BitVec 25) : Statement (.br off) := fun _ => rawDecode_encB ..
theorem bz (a : Opnd) (off : BitVec 18) : Statement (.bz a off) := by
  intro _; rw [encode, rawDecode_encB]
  simp (disch := decide) only [rawB, fieldOf_append_low, fieldOf_append_high, fieldOf_self, decide_ofBool,
    Nat.reduceSub, BitVec.toNat_ofNat, Nat.reduceMod, Nat.reducePow]
theorem bnz (a : Opnd) (off : BitVec 18) : Statement (.bnz a off) := by
  intro _; rw [encode, rawDecode_encB]
  simp (disch := decide) only [rawB, fieldOf_append_low, fieldOf_append_high, fieldOf_self, decide_ofBool,
    Nat.reduceSub, BitVec.toNat_ofNat, Nat.reduceMod, Nat.reducePow]
theorem jmp (a : Opnd) : Statement (.jmp a) := by
  intro _; rw [encode, rawDecode_encB]
  simp (disch := decide) only [rawB, fieldOf_append_low, fieldOf_append_high, fieldOf_self, decide_ofBool,
    Nat.reduceSub, BitVec.toNat_ofNat, Nat.reduceMod, Nat.reducePow]
  rfl
theorem call (off : BitVec 25) : Statement (.call off) := fun _ => rawDecode_encB ..
theorem callr (a : Opnd) : Statement (.callr a) := by
  intro _; rw [encode, rawDecode_encB]
  simp (disch := decide) only [rawB, fieldOf_append_low, fieldOf_append_high, fieldOf_self, decide_ofBool,
    Nat.reduceSub, BitVec.toNat_ofNat, Nat.reduceMod, Nat.reducePow]
  rfl
theorem ret : Statement (.ret) := fun _ => rawDecode_encB ..
theorem exit : Statement (.exit) := fun _ => rawDecode_encB ..
theorem yield : Statement (.yield) := fun _ => rawDecode_encB ..
theorem brk (code : BitVec 18) : Statement (.brk code) := by
  intro _; rw [encode, rawDecode_encB]
  simp (disch := decide) only [rawB, fieldOf_append_low, fieldOf_append_high, fieldOf_self, decide_ofBool,
    Nat.reduceSub, BitVec.toNat_ofNat, Nat.reduceMod, Nat.reducePow]
  rfl
theorem mcall (p0 : Opnd) (p1 : Opnd) (entry : BitVec 7) : Statement (.mcall p0 p1 entry) := by
  intro _; rw [encode, rawDecode_encB]
  simp (disch := decide) only [rawB, fieldOf_append_low, fieldOf_append_high, fieldOf_self, decide_ofBool,
    Nat.reduceSub, BitVec.toNat_ofNat, Nat.reduceMod, Nat.reducePow]
  rfl
theorem mma (flag : BitVec 4) (p : Opnd) (cv : BitVec 4) : Statement (.mma flag p cv) := by
  intro _; rw [encode, rawDecode_encX]
  simp (disch := decide) only [rawX, fieldOf_append_low, fieldOf_append_high, fieldOf_self, decide_ofBool,
    Nat.reduceSub, BitVec.toNat_ofNat, Nat.reduceMod, Nat.reducePow]
  rfl
theorem mmz (flag : BitVec 4) (p : Opnd) : Statement (.mmz flag p) := fun _ => rawDecode_encX ..
theorem accld (flag : BitVec 4) (p : Opnd) (q : Opnd) : Statement (.accld flag p q) := fun _ => rawDecode_encX ..
theorem accst (flag : BitVec 4) (p : Opnd) (q : Opnd) : Statement (.accst flag p q) := fun _ => rawDecode_encX ..
theorem thdl (p : Opnd) (h : BitVec 5) : Statement (.thdl p h) := fun _ => rawDecode_encX ..
theorem thfree (h : BitVec 5) : Statement (.thfree h) := fun _ => rawDecode_encX ..
theorem waitf (mask : BitVec 12) : Statement (.waitf mask) := by
  intro _; rw [encode, rawDecode_encX]; simp only [rawX, BitVec.toNat_ofNat, Nat.reduceMod, Nat.reducePow]
  simp only [waitf_mask]
  rfl
theorem pstWGroup (flag : BitVec 4) (p : Opnd) (q : Opnd) (k : BitVec 5) : Statement (.pstWGroup flag p q k) := fun _ => rawDecode_encX ..
theorem pstDGroup (flag : BitVec 4) (p : Opnd) (q : Opnd) (k : BitVec 5) : Statement (.pstDGroup flag p q k) := fun _ => rawDecode_encX ..
theorem pstQGroup (flag : BitVec 4) (p : Opnd) (q : Opnd) (k : BitVec 5) : Statement (.pstQGroup flag p q k) := fun _ => rawDecode_encX ..
theorem ppushGroup (flag : BitVec 4) (q : Opnd) (k : BitVec 5) : Statement (.ppushGroup flag q k) := fun _ => rawDecode_encX ..
theorem pstWCore (flag : BitVec 4) (p : Opnd) (q : Opnd) (k : BitVec 5) : Statement (.pstWCore flag p q k) := fun _ => rawDecode_encX ..
theorem pstDCore (flag : BitVec 4) (p : Opnd) (q : Opnd) (k : BitVec 5) : Statement (.pstDCore flag p q k) := fun _ => rawDecode_encX ..
theorem pstQCore (flag : BitVec 4) (p : Opnd) (q : Opnd) (k : BitVec 5) : Statement (.pstQCore flag p q k) := fun _ => rawDecode_encX ..
theorem ppushCore (flag : BitVec 4) (q : Opnd) (k : BitVec 5) : Statement (.ppushCore flag q k) := fun _ => rawDecode_encX ..
theorem tcopy (flag : BitVec 4) (p : Opnd) (q : Opnd) : Statement (.tcopy flag p q) := fun _ => rawDecode_encX ..
theorem tseal (p : Opnd) : Statement (.tseal p) := fun _ => rawDecode_encX ..
theorem twait (p : Opnd) : Statement (.twait p) := fun _ => rawDecode_encX ..
theorem cwait (p : Opnd) (q : Opnd) (k : BitVec 5) : Statement (.cwait p q k) := fun _ => rawDecode_encX ..
theorem permitArm (p : Opnd) (k : BitVec 5) : Statement (.permitArm p k) := fun _ => rawDecode_encX ..
theorem permitDrop (k : BitVec 5) : Statement (.permitDrop k) := fun _ => rawDecode_encX ..
theorem fabPut (flag : BitVec 4) (p : Opnd) (q : Opnd) : Statement (.fabPut flag p q) := fun _ => rawDecode_encX ..
theorem fabGet (flag : BitVec 4) (p : Opnd) (q : Opnd) : Statement (.fabGet flag p q) := fun _ => rawDecode_encX ..
theorem fabAtom (flag : BitVec 4) (p : Opnd) (q : Opnd) : Statement (.fabAtom flag p q) := fun _ => rawDecode_encX ..
theorem fabRed (flag : BitVec 4) (p : Opnd) (q : Opnd) : Statement (.fabRed flag p q) := fun _ => rawDecode_encX ..
theorem fabMcast (flag : BitVec 4) (p : Opnd) (q : Opnd) : Statement (.fabMcast flag p q) := fun _ => rawDecode_encX ..
theorem ldAcq (flag : BitVec 4) (p : Opnd) (dbl : Bool) (pair : BitVec 5) (k : BitVec 5) : Statement (.ldAcq flag p dbl pair k) := by
  intro _; rw [encode, rawDecode_encX]
  simp (disch := decide) only [rawX, fieldOf_append_low, fieldOf_append_high, fieldOf_self, decide_ofBool,
    Nat.reduceSub, BitVec.toNat_ofNat, Nat.reduceMod, Nat.reducePow]
  rfl
theorem stRel (flag : BitVec 4) (p : Opnd) (dbl : Bool) (pair : BitVec 5) (k : BitVec 5) : Statement (.stRel flag p dbl pair k) := by
  intro _; rw [encode, rawDecode_encX]
  simp (disch := decide) only [rawX, fieldOf_append_low, fieldOf_append_high, fieldOf_self, decide_ofBool,
    Nat.reduceSub, BitVec.toNat_ofNat, Nat.reduceMod, Nat.reducePow]
  rfl
theorem atomAdd (flag : BitVec 4) (p : Opnd) (ord : AtomOrd) (pair : BitVec 5) (k : BitVec 5) : Statement (.atomAdd flag p ord pair k) := by
  intro _; rw [encode, rawDecode_encX]
  simp (disch := decide) only [rawX, fieldOf_append_low, fieldOf_append_high, fieldOf_self, decide_ofBool,
    Nat.reduceSub, BitVec.toNat_ofNat, Nat.reduceMod, Nat.reducePow]
  cases ord <;> rfl
theorem atomSub (flag : BitVec 4) (p : Opnd) (ord : AtomOrd) (pair : BitVec 5) (k : BitVec 5) : Statement (.atomSub flag p ord pair k) := by
  intro _; rw [encode, rawDecode_encX]
  simp (disch := decide) only [rawX, fieldOf_append_low, fieldOf_append_high, fieldOf_self, decide_ofBool,
    Nat.reduceSub, BitVec.toNat_ofNat, Nat.reduceMod, Nat.reducePow]
  cases ord <;> rfl
theorem atomMin (flag : BitVec 4) (p : Opnd) (ord : AtomOrd) (pair : BitVec 5) (k : BitVec 5) : Statement (.atomMin flag p ord pair k) := by
  intro _; rw [encode, rawDecode_encX]
  simp (disch := decide) only [rawX, fieldOf_append_low, fieldOf_append_high, fieldOf_self, decide_ofBool,
    Nat.reduceSub, BitVec.toNat_ofNat, Nat.reduceMod, Nat.reducePow]
  cases ord <;> rfl
theorem atomMax (flag : BitVec 4) (p : Opnd) (ord : AtomOrd) (pair : BitVec 5) (k : BitVec 5) : Statement (.atomMax flag p ord pair k) := by
  intro _; rw [encode, rawDecode_encX]
  simp (disch := decide) only [rawX, fieldOf_append_low, fieldOf_append_high, fieldOf_self, decide_ofBool,
    Nat.reduceSub, BitVec.toNat_ofNat, Nat.reduceMod, Nat.reducePow]
  cases ord <;> rfl
theorem atomAnd (flag : BitVec 4) (p : Opnd) (ord : AtomOrd) (pair : BitVec 5) (k : BitVec 5) : Statement (.atomAnd flag p ord pair k) := by
  intro _; rw [encode, rawDecode_encX]
  simp (disch := decide) only [rawX, fieldOf_append_low, fieldOf_append_high, fieldOf_self, decide_ofBool,
    Nat.reduceSub, BitVec.toNat_ofNat, Nat.reduceMod, Nat.reducePow]
  cases ord <;> rfl
theorem atomOr (flag : BitVec 4) (p : Opnd) (ord : AtomOrd) (pair : BitVec 5) (k : BitVec 5) : Statement (.atomOr flag p ord pair k) := by
  intro _; rw [encode, rawDecode_encX]
  simp (disch := decide) only [rawX, fieldOf_append_low, fieldOf_append_high, fieldOf_self, decide_ofBool,
    Nat.reduceSub, BitVec.toNat_ofNat, Nat.reduceMod, Nat.reducePow]
  cases ord <;> rfl
theorem atomXor (flag : BitVec 4) (p : Opnd) (ord : AtomOrd) (pair : BitVec 5) (k : BitVec 5) : Statement (.atomXor flag p ord pair k) := by
  intro _; rw [encode, rawDecode_encX]
  simp (disch := decide) only [rawX, fieldOf_append_low, fieldOf_append_high, fieldOf_self, decide_ofBool,
    Nat.reduceSub, BitVec.toNat_ofNat, Nat.reduceMod, Nat.reducePow]
  cases ord <;> rfl
theorem atomExch (flag : BitVec 4) (p : Opnd) (ord : AtomOrd) (pair : BitVec 5) (k : BitVec 5) : Statement (.atomExch flag p ord pair k) := by
  intro _; rw [encode, rawDecode_encX]
  simp (disch := decide) only [rawX, fieldOf_append_low, fieldOf_append_high, fieldOf_self, decide_ofBool,
    Nat.reduceSub, BitVec.toNat_ofNat, Nat.reduceMod, Nat.reducePow]
  cases ord <;> rfl
theorem atomCas (flag : BitVec 4) (p : Opnd) (ord : AtomOrd) (pair : BitVec 5) (k : BitVec 5) : Statement (.atomCas flag p ord pair k) := by
  intro _; rw [encode, rawDecode_encX]
  simp (disch := decide) only [rawX, fieldOf_append_low, fieldOf_append_high, fieldOf_self, decide_ofBool,
    Nat.reduceSub, BitVec.toNat_ofNat, Nat.reduceMod, Nat.reducePow]
  cases ord <;> rfl
theorem atomFadd (flag : BitVec 4) (p : Opnd) (ord : AtomOrd) (pair : BitVec 5) (k : BitVec 5) : Statement (.atomFadd flag p ord pair k) := by
  intro _; rw [encode, rawDecode_encX]
  simp (disch := decide) only [rawX, fieldOf_append_low, fieldOf_append_high, fieldOf_self, decide_ofBool,
    Nat.reduceSub, BitVec.toNat_ofNat, Nat.reduceMod, Nat.reducePow]
  cases ord <;> rfl
theorem atomFmin (flag : BitVec 4) (p : Opnd) (ord : AtomOrd) (pair : BitVec 5) (k : BitVec 5) : Statement (.atomFmin flag p ord pair k) := by
  intro _; rw [encode, rawDecode_encX]
  simp (disch := decide) only [rawX, fieldOf_append_low, fieldOf_append_high, fieldOf_self, decide_ofBool,
    Nat.reduceSub, BitVec.toNat_ofNat, Nat.reduceMod, Nat.reducePow]
  cases ord <;> rfl
theorem atomFmax (flag : BitVec 4) (p : Opnd) (ord : AtomOrd) (pair : BitVec 5) (k : BitVec 5) : Statement (.atomFmax flag p ord pair k) := by
  intro _; rw [encode, rawDecode_encX]
  simp (disch := decide) only [rawX, fieldOf_append_low, fieldOf_append_high, fieldOf_self, decide_ofBool,
    Nat.reduceSub, BitVec.toNat_ofNat, Nat.reduceMod, Nat.reducePow]
  cases ord <;> rfl
theorem atomBfadd2 (flag : BitVec 4) (p : Opnd) (ord : AtomOrd) (pair : BitVec 5) (k : BitVec 5) : Statement (.atomBfadd2 flag p ord pair k) := by
  intro _; rw [encode, rawDecode_encX]
  simp (disch := decide) only [rawX, fieldOf_append_low, fieldOf_append_high, fieldOf_self, decide_ofBool,
    Nat.reduceSub, BitVec.toNat_ofNat, Nat.reduceMod, Nat.reducePow]
  cases ord <;> rfl
theorem fence (ord : FenceOrd) (k : BitVec 5) : Statement (.fence ord k) := by
  intro _; rw [encode, rawDecode_encX]
  simp (disch := decide) only [rawX, fieldOf_append_low, fieldOf_append_high, fieldOf_self, decide_ofBool,
    Nat.reduceSub, BitVec.toNat_ofNat, Nat.reduceMod, Nat.reducePow]
  cases ord <;> rfl
theorem shfl (m : ShflMode) (p : Opnd) (q : Opnd) (cv : BitVec 4) : Statement (.shfl m p q cv) := by
  intro _; rw [encode, rawDecode_encX]
  simp (disch := decide) only [rawX, fieldOf_append_low, fieldOf_append_high, fieldOf_self, decide_ofBool,
    Nat.reduceSub, BitVec.toNat_ofNat, Nat.reduceMod, Nat.reducePow]
  cases m <;> rfl
theorem vote (m : VoteMode) (p : Opnd) (q : Opnd) (cv : BitVec 4) : Statement (.vote m p q cv) := by
  intro _; rw [encode, rawDecode_encX]
  simp (disch := decide) only [rawX, fieldOf_append_low, fieldOf_append_high, fieldOf_self, decide_ofBool,
    Nat.reduceSub, BitVec.toNat_ofNat, Nat.reduceMod, Nat.reducePow]
  cases m <;> rfl
theorem scan (m : RedOp) (p : Opnd) (q : Opnd) (cv : BitVec 4) : Statement (.scan m p q cv) := by
  intro _; rw [encode, rawDecode_encX]
  simp (disch := decide) only [rawX, fieldOf_append_low, fieldOf_append_high, fieldOf_self, decide_ofBool,
    Nat.reduceSub, BitVec.toNat_ofNat, Nat.reduceMod, Nat.reducePow]
  cases m <;> rfl
theorem red (m : RedOp) (p : Opnd) (q : Opnd) (cv : BitVec 4) : Statement (.red m p q cv) := by
  intro _; rw [encode, rawDecode_encX]
  simp (disch := decide) only [rawX, fieldOf_append_low, fieldOf_append_high, fieldOf_self, decide_ofBool,
    Nat.reduceSub, BitVec.toNat_ofNat, Nat.reduceMod, Nat.reducePow]
  cases m <;> rfl
theorem fspawn (flag : BitVec 4) (p : Opnd) (q : Opnd) : Statement (.fspawn flag p q) := fun _ => rawDecode_encX ..
theorem fget (p : Opnd) (q : Opnd) (k : BitVec 5) : Statement (.fget p q k) := fun _ => rawDecode_encX ..
theorem fput (flag : BitVec 4) (p : Opnd) (q : Opnd) (k : BitVec 5) : Statement (.fput flag p q k) := fun _ => rawDecode_encX ..
theorem fref (flag : BitVec 4) (q : Opnd) : Statement (.fref flag q) := fun _ => rawDecode_encX ..
theorem fdrop (flag : BitVec 4) (q : Opnd) : Statement (.fdrop flag q) := fun _ => rawDecode_encX ..
theorem fstate (p : Opnd) (q : Opnd) : Statement (.fstate p q) := fun _ => rawDecode_encX ..
theorem tspawn (flag : BitVec 4) (q : Opnd) : Statement (.tspawn flag q) := fun _ => rawDecode_encX ..
theorem sys (n : BitVec 9) : Statement (.sys n) := fun _ => rawDecode_encS ..
theorem eret : Statement (.eret) := fun _ => rawDecode_encS ..
theorem ctlr (d : Opnd) (n : BitVec 9) : Statement (.ctlr d n) := fun _ => rawDecode_encS ..
theorem ctlw (a : Opnd) (n : BitVec 9) : Statement (.ctlw a n) := fun _ => rawDecode_encS ..
theorem qpop (d : Opnd) (a : Opnd) (c : BitVec 8) : Statement (.qpop d a c) := by
  intro _; rw [encode, rawDecode_encS]
  simp (disch := decide) only [rawS, fieldOf_append_low, fieldOf_append_high, fieldOf_self, decide_ofBool,
    Nat.reduceSub, BitVec.toNat_ofNat, Nat.reduceMod, Nat.reducePow]
  rfl
theorem qret (a : Opnd) : Statement (.qret a) := fun _ => rawDecode_encS ..
theorem kgo (d : Opnd) (a : Opnd) : Statement (.kgo d a) := fun _ => rawDecode_encS ..
theorem mload (d : Opnd) (a : Opnd) : Statement (.mload d a) := fun _ => rawDecode_encS ..
theorem ipi (a : Opnd) (vec : BitVec 9) : Statement (.ipi a vec) := fun _ => rawDecode_encS ..
theorem wfi : Statement (.wfi) := fun _ => rawDecode_encS ..
theorem preempt (a : Opnd) : Statement (.preempt a) := fun _ => rawDecode_encS ..
theorem csave (d : Opnd) (a : Opnd) : Statement (.csave d a) := fun _ => rawDecode_encS ..
theorem crestore (d : Opnd) (a : Opnd) : Statement (.crestore d a) := fun _ => rawDecode_encS ..
theorem racq (a : Opnd) : Statement (.racq a) := fun _ => rawDecode_encS ..
theorem rrel (a : Opnd) : Statement (.rrel a) := fun _ => rawDecode_encS ..
theorem barSet (a : Opnd) (b : BitVec 7) : Statement (.barSet a b) := by
  intro _; rw [encode, rawDecode_encS]
  simp (disch := decide) only [rawS, fieldOf_append_low, fieldOf_append_high, fieldOf_self, decide_ofBool,
    Nat.reduceSub, BitVec.toNat_ofNat, Nat.reduceMod, Nat.reducePow]
  rfl
theorem barArrive (b : BitVec 7) : Statement (.barArrive b) := by
  intro _; rw [encode, rawDecode_encS]
  simp (disch := decide) only [rawS, fieldOf_append_low, fieldOf_append_high, fieldOf_self, decide_ofBool,
    Nat.reduceSub, BitVec.toNat_ofNat, Nat.reduceMod, Nat.reducePow]
  rfl
theorem barWait (b : BitVec 7) : Statement (.barWait b) := by
  intro _; rw [encode, rawDecode_encS]
  simp (disch := decide) only [rawS, fieldOf_append_low, fieldOf_append_high, fieldOf_self, decide_ofBool,
    Nat.reduceSub, BitVec.toNat_ofNat, Nat.reduceMod, Nat.reducePow]
  rfl
theorem barSync (b : BitVec 7) : Statement (.barSync b) := by
  intro _; rw [encode, rawDecode_encS]
  simp (disch := decide) only [rawS, fieldOf_append_low, fieldOf_append_high, fieldOf_self, decide_ofBool,
    Nat.reduceSub, BitVec.toNat_ofNat, Nat.reduceMod, Nat.reducePow]
  rfl
theorem rmset (d : Opnd) (a : Opnd) (r : BitVec 3) : Statement (.rmset d a r) := by
  intro _; rw [encode, rawDecode_encS]
  simp (disch := decide) only [rawS, fieldOf_append_low, fieldOf_append_high, fieldOf_self, decide_ofBool,
    Nat.reduceSub, BitVec.toNat_ofNat, Nat.reduceMod, Nat.reducePow]
  rfl
theorem rjarrive (r : BitVec 3) : Statement (.rjarrive r) := by
  intro _; rw [encode, rawDecode_encS]
  simp (disch := decide) only [rawS, fieldOf_append_low, fieldOf_append_high, fieldOf_self, decide_ofBool,
    Nat.reduceSub, BitVec.toNat_ofNat, Nat.reduceMod, Nat.reducePow]
  rfl
theorem rjwait (r : BitVec 3) : Statement (.rjwait r) := by
  intro _; rw [encode, rawDecode_encS]
  simp (disch := decide) only [rawS, fieldOf_append_low, fieldOf_append_high, fieldOf_self, decide_ofBool,
    Nat.reduceSub, BitVec.toNat_ofNat, Nat.reduceMod, Nat.reducePow]
  rfl
theorem rjdrop (r : BitVec 3) : Statement (.rjdrop r) := by
  intro _; rw [encode, rawDecode_encS]
  simp (disch := decide) only [rawS, fieldOf_append_low, fieldOf_append_high, fieldOf_self, decide_ofBool,
    Nat.reduceSub, BitVec.toNat_ofNat, Nat.reduceMod, Nat.reducePow]
  rfl
theorem cvset (d : Opnd) (a : Opnd) (c : BitVec 4) : Statement (.cvset d a c) := by
  intro _; rw [encode, rawDecode_encS]
  simp (disch := decide) only [rawS, fieldOf_append_low, fieldOf_append_high, fieldOf_self, decide_ofBool,
    Nat.reduceSub, BitVec.toNat_ofNat, Nat.reduceMod, Nat.reducePow]
  rfl
theorem scgset (a : Opnd) (n : BitVec 5) : Statement (.scgset a n) := by
  intro _; rw [encode, rawDecode_encS]
  simp (disch := decide) only [rawS, fieldOf_append_low, fieldOf_append_high, fieldOf_self, decide_ofBool,
    Nat.reduceSub, BitVec.toNat_ofNat, Nat.reduceMod, Nat.reducePow]
  rfl
theorem tlbinv (a : Opnd) (ext : BitVec 2) : Statement (.tlbinv a ext) := by
  intro _; rw [encode, rawDecode_encS]
  simp (disch := decide) only [rawS, fieldOf_append_low, fieldOf_append_high, fieldOf_self, decide_ofBool,
    Nat.reduceSub, BitVec.toNat_ofNat, Nat.reduceMod, Nat.reducePow]
  rfl
theorem atp (d : Opnd) (a : Opnd) : Statement (.atp d a) := fun _ => rawDecode_encS ..
theorem tdecl (a : Opnd) : Statement (.tdecl a) := fun _ => rawDecode_encS ..
theorem rnext (d : Opnd) : Statement (.rnext d) := fun _ => rawDecode_encS ..
theorem tend : Statement (.tend) := fun _ => rawDecode_encS ..
theorem tmove (d : Opnd) (a : Opnd) : Statement (.tmove d a) := fun _ => rawDecode_encS ..
theorem fpoint : Statement (.fpoint) := fun _ => rawDecode_encS ..
theorem fguard : Statement (.fguard) := fun _ => rawDecode_encS ..
theorem fend : Statement (.fend) := fun _ => rawDecode_encS ..
theorem sched (wait : BitVec 12) (hold : Bool) (yld : Bool) (d3 : BitVec 3) (d2 : BitVec 3) (d1 : BitVec 3) (d0 : BitVec 3) : Statement (.sched wait hold yld d3 d2 d1 d0) := by
  intro _; rw [encode, rawDecode_encH]
  simp (disch := decide) only [rawH, fieldOf_append_low, fieldOf_append_high, fieldOf_self, decide_ofBool,
    Nat.reduceSub, BitVec.toNat_ofNat, Nat.reduceMod, Nat.reducePow]
theorem imm (payload : BitVec 26) : Statement (.imm payload) := fun _ => rawDecode_encH ..
theorem live (part : BitVec 2) (mask : BitVec 24) : Statement (.live part mask) := by
  intro _; rw [encode, rawDecode_encH]
  simp (disch := decide) only [rawH, fieldOf_append_low, fieldOf_append_high, fieldOf_self, decide_ofBool,
    Nat.reduceSub, BitVec.toNat_ofNat, Nat.reduceMod, Nat.reducePow]
theorem livescratch (base : BitVec 13) (len : BitVec 13) : Statement (.livescratch base len) := by
  intro _; rw [encode, rawDecode_encH]
  simp (disch := decide) only [rawH, fieldOf_append_low, fieldOf_append_high, fieldOf_self, decide_ofBool,
    Nat.reduceSub, BitVec.toNat_ofNat, Nat.reduceMod, Nat.reducePow]
theorem mod (round : Round) (sat : Bool) (ftz : Bool) (cache : BitVec 2) : Statement (.mod round sat ftz cache) := by
  intro _; rw [encode, rawDecode_encH]
  simp (disch := decide) only [rawH, fieldOf_append_low, fieldOf_append_high, fieldOf_self, decide_ofBool,
    Nat.reduceSub, BitVec.toNat_ofNat, Nat.reduceMod, Nat.reducePow]
  cases round <;> rfl
theorem fmt (payload : BitVec 26) : Statement (.fmt payload) := fun _ => rawDecode_encH ..
theorem illegalWord (w : Word) : Statement (.illegalWord w) := nofun
theorem loadDataReturn (op : Nat) (parts : Nat) : Statement (.loadDataReturn op parts) := nofun
theorem storePerformed (op : Nat) : Statement (.storePerformed op) := nofun
theorem pageWalk (core : Nat) (va : Nat) : Statement (.pageWalk core va) := nofun
theorem deferredMachineTrap (core : Nat) (slot : Nat) (tid : Nat) : Statement (.deferredMachineTrap core slot tid) := nofun
theorem trapRecordMade (core : Nat) (slot : Nat) (tid : Nat) : Statement (.trapRecordMade core slot tid) := nofun
theorem spillRecordReturn (core : Nat) : Statement (.spillRecordReturn core) := nofun
theorem heldTrapRecord (core : Nat) : Statement (.heldTrapRecord core) := nofun
theorem watchdogExpiry (core : Nat) (slot : Nat) (tid : Nat) : Statement (.watchdogExpiry core slot tid) := nofun
theorem preemptGraceExpiry (core : Nat) (slot : Nat) : Statement (.preemptGraceExpiry core slot) := nofun
theorem crewReadyToSave (core : Nat) (slot : Nat) : Statement (.crewReadyToSave core slot) := nofun
theorem racqGrant (core : Nat) : Statement (.racqGrant core) := nofun
theorem joinPatienceExpiry (core : Nat) (slot : Nat) (rm : Nat) : Statement (.joinPatienceExpiry core slot rm) := nofun
theorem mmaEnterQueue (core : Nat) : Statement (.mmaEnterQueue core) := nofun
theorem mmaOperandArrival (core : Nat) : Statement (.mmaOperandArrival core) := nofun
theorem mmaKstep (core : Nat) : Statement (.mmaKstep core) := nofun
theorem mmaOperandFault (core : Nat) : Statement (.mmaOperandFault core) := nofun
theorem mmzExecute (core : Nat) : Statement (.mmzExecute core) := nofun
theorem accldExecute (core : Nat) : Statement (.accldExecute core) := nofun
theorem accstExecute (core : Nat) : Statement (.accstExecute core) := nofun
theorem copyStart (core : Nat) : Statement (.copyStart core) := nofun
theorem copyLineRead (copy : Nat) : Statement (.copyLineRead copy) := nofun
theorem copyLineWrite (copy : Nat) : Statement (.copyLineWrite copy) := nofun
theorem spillSlotReadback (copy : Nat) : Statement (.spillSlotReadback copy) := nofun
theorem copyComplete (copy : Nat) : Statement (.copyComplete copy) := nofun
theorem multicastDelivery (copy : Nat) (cluster : Nat) : Statement (.multicastDelivery copy cluster) := nofun
theorem cwaitWake (core : Nat) (slot : Nat) (tid : Nat) : Statement (.cwaitWake core slot tid) := nofun
theorem pushMergeAtHome (push : Nat) : Statement (.pushMergeAtHome push) := nofun
theorem pushFill (push : Nat) (cluster : Nat) : Statement (.pushFill push cluster) := nofun
theorem pushComplete (push : Nat) : Statement (.pushComplete push) := nofun
theorem quotaWindowStart (cluster : Nat) : Statement (.quotaWindowStart cluster) := nofun
theorem forwardEntryExpiry (fwd : Nat) : Statement (.forwardEntryExpiry fwd) := nofun
theorem permitForwardExpiry (cluster : Nat) (permit : Nat) : Statement (.permitForwardExpiry cluster permit) := nofun
theorem peerProbe (op : Nat) (peer : Nat) : Statement (.peerProbe op peer) := nofun
theorem peerForwardRegistration (op : Nat) : Statement (.peerForwardRegistration op) := nofun
theorem readRequest (op : Nat) : Statement (.readRequest op) := nofun
theorem ownershipRequest (op : Nat) : Statement (.ownershipRequest op) := nofun
theorem homeWrite (op : Nat) : Statement (.homeWrite op) := nofun
theorem writeback (cluster : Nat) (line : Nat) : Statement (.writeback cluster line) := nofun
theorem dataReply (op : Nat) : Statement (.dataReply op) := nofun
theorem invalidate (cluster : Nat) (line : Nat) : Statement (.invalidate cluster line) := nofun
theorem recallLine (cluster : Nat) (line : Nat) : Statement (.recallLine cluster line) := nofun
theorem setRecall (cluster : Nat) (set : Nat) (slice : Nat) : Statement (.setRecall cluster set slice) := nofun
theorem filterAck (cluster : Nat) (set : Nat) (slice : Nat) : Statement (.filterAck cluster set slice) := nofun
theorem atomicApply (op : Nat) : Statement (.atomicApply op) := nofun
theorem leaseRead (op : Nat) : Statement (.leaseRead op) := nofun
theorem leaseWrite (op : Nat) : Statement (.leaseWrite op) := nofun
theorem heldWriteRelease (op : Nat) : Statement (.heldWriteRelease op) := nofun
theorem sweep (op : Nat) (cluster : Nat) : Statement (.sweep op cluster) := nofun
theorem ptsTick (core : Nat) : Statement (.ptsTick core) := nofun
theorem floorDelivery (isle : Nat) : Statement (.floorDelivery isle) := nofun
theorem tlbinvComplete (who : IssuerId) : Statement (.tlbinvComplete who) := nofun
theorem timerCompare (core : Nat) : Statement (.timerCompare core) := nofun
theorem interruptEntry (core : Nat) : Statement (.interruptEntry core) := nofun
theorem wfiWake (core : Nat) : Statement (.wfiWake core) := nofun
theorem sliceExpiry (core : Nat) (slot : Nat) : Statement (.sliceExpiry core slot) := nofun
theorem debugFreezeComplete (core : Nat) (slot : Nat) : Statement (.debugFreezeComplete core slot) := nofun
theorem exitRetire (core : Nat) (slot : Nat) (tid : Nat) : Statement (.exitRetire core slot tid) := nofun
theorem piecePlacement (cluster : Nat) : Statement (.piecePlacement cluster) := nofun
theorem pieceAging (cluster : Nat) : Statement (.pieceAging cluster) := nofun
theorem askForWork (core : Nat) : Statement (.askForWork core) := nofun
theorem crewMove (core : Nat) (slot : Nat) : Statement (.crewMove core slot) := nofun
theorem packageReset : Statement (.packageReset) := nofun
theorem isleReset (isle : Nat) : Statement (.isleReset isle) := nofun
theorem attestationReportReady : Statement (.attestationReportReady) := nofun
theorem fabricSourceRead (op : Nat) : Statement (.fabricSourceRead op) := nofun
theorem fabricRemoteRequest (req : FabRequest) : Statement (.fabricRemoteRequest req) := nofun
theorem fabricComplete (op : Nat) (reply : FabReply) : Statement (.fabricComplete op reply) := nofun
theorem reductionContribution (c : Contribution) : Statement (.reductionContribution c) := nofun
theorem reductionTimeout (group : Nat) : Statement (.reductionTimeout group) := nofun
theorem fabricUnreachable (op : Nat) : Statement (.fabricUnreachable op) := nofun
theorem rdmaPeerAccess (req : PeerAccess) : Statement (.rdmaPeerAccess req) := nofun
theorem rdmaWorkCompletion (port qp : Nat) : Statement (.rdmaWorkCompletion port qp) := nofun
theorem nvmeDma (req : DmaAccess) : Statement (.nvmeDma req) := nofun
theorem nvmeCompletion (port : Nat) (entry : NvmeEntry) : Statement (.nvmeCompletion port entry) := nofun
theorem eccCorrected (site : EccSite) : Statement (.eccCorrected site) := nofun
theorem eccUncorrectable (site : EccSite) : Statement (.eccUncorrectable site) := nofun
theorem thermalThrottle : Statement (.thermalThrottle) := nofun
theorem clusterPowerDown (cluster : Nat) : Statement (.clusterPowerDown cluster) := nofun
theorem recallDeferralExpiry (cluster : Nat) (line : Nat) : Statement (.recallDeferralExpiry cluster line) := nofun
theorem clusterPowerUp (cluster : Nat) : Statement (.clusterPowerUp cluster) := nofun
theorem fabricPortDown (port : Nat) : Statement (.fabricPortDown port) := nofun

end Sys2Proof.Laws.RoundTrip
end

