-- ==== Sys2Proof/Tests/Slice0.lean ====
section
/-! SUPPORT. Tests: what each check of well-formedness refuses, words written out from the encodings of R38 to R68, results
worked out by hand from the rules, and for every statement with hypotheses concrete states that meet them together. -/

namespace Sys2Proof.Tests

open Sys2Proof.Machine

set_option Elab.async false

/-! ### Probe states -/

/-- A state in which one thread of core 0, in slot 0, issues; `f` sets the thread. -/
def probe (i : Instr) (f : Thread → Thread) : State :=
  { (State.reset.probeThread i 0).onThread 0 0 0 f with acting := .gang 0 0 [0] 1 }

/-- A state in which core 0's beacon lane issues in S mode over isle 0's page table; `f` sets the lane. -/
def laneProbe (f : Lane → Lane) : State :=
  { State.reset.probePages.probeIsle.onLane 0 (fun l => f { l with mode := .s, segs := probeSegs }) with acting := .lane 0 }

/-- Registers set. -/
def regs (l : List (Nat × Word)) (t : Thread) : Thread := l.foldl (fun x p => x.putReg p.1 p.2) t

/-- b registers set. -/
def bregs (l : List (Nat × DWord)) (x : Lane) : Lane := { x with b := l.foldl (fun m p => m.put p.1 p.2) x.b }

/-- The probe's crew and thread. -/
def crewAt (s : State) : Crew :=
  (s.crew 0 0).getD { uid := 0, shape := 0#32, isle := 0, size := 0, nbase := 0, super := true, grant := ⟨0, 0, 0⟩, request := none, spadBase := 0, spadLen := 0, accBase := 0, accLen := 0, accOwner := 0, threads := [], rms := [], cvs := [], handles := [], patience := 0, task := 0#32, piece := 0, kgo := false, stack := none, preempt := none, freeze := .none, slice := 0, sliceDue := false }
def thAt (s : State) : Thread := (s.thread 0 0 0).getD Thread.blank
def ctxAt (s : State) : Ctx := s.ctx 0 0 (crewAt s) 1 0

/-- What an outcome leaves. -/
def after {α : Type} (o : Host.Outcome State Fault Refusal) (f : State → Option α) : Option α :=
  match o with
  | .next t => f t
  | _ => none

/-- Register `n` of the probe's thread after an instruction. -/
def gives (i : Instr) (l : List (Nat × Word)) (n : Nat) : Option Word :=
  after (exec i (probe i (regs l))) (fun t => (t.thread 0 0 0).map (fun x => x.reg n))

/-- The trap of the probe's thread after an instruction: cause and detail. -/
def trapOf (o : Host.Outcome State Fault Refusal) : Option (Nat × Nat) :=
  after o (fun t => (t.thread 0 0 0).bind (fun x => x.trap.map (fun y => (y.cause, y.detail.toNat))))

/-- One thread issues and nothing traps before its effect. -/
structure Ready (s : State) (i : Instr) : Prop where
  solo : s.Solo 0 0 0 1 (crewAt s) (thAt s)
  fits : Fits (ctxAt s) i (thAt s)

def soloB (s : State) : Bool :=
  decide (s.acting = .gang 0 0 [0] 1) && (s.crew 0 0).isSome && (s.thread 0 0 0).isSome && decide ((thAt s).life = .ready)

def readyB (s : State) (i : Instr) : Bool :=
  soloB s && !badBind i (thAt s).bind && (decide (privOf i = .u) || (decide (privOf i = .s) && (ctxAt s).super)) &&
    i.opnds.all (fun u => (useRegs u).all (fun r => (ctxAt s).allocated r) &&
      (useLatches u).all (fun k => bit ((thAt s).openWin s.cycle).lvalid.toNat k))

theorem solo_of {s : State} (h : soloB s = true) : s.Solo 0 0 0 1 (crewAt s) (thAt s) := by
  simp only [soloB, Bool.and_eq_true, decide_eq_true_eq, Option.isSome_iff_exists] at h
  obtain ⟨⟨⟨ha, w, hw⟩, th, ht⟩, hr⟩ := h
  have hc : crewAt s = w := by simp [crewAt, hw]
  have he : thAt s = th := by simp [thAt, ht]
  refine ⟨ha, hc ▸ hw, ?_, hr⟩
  rw [hc, he]
  simpa [State.thread, hw] using ht

theorem ready_of {s : State} {i : Instr} (h : readyB s i = true) : Ready s i := by
  simp only [readyB, Bool.and_eq_true, Bool.or_eq_true, decide_eq_true_eq, List.all_eq_true, Bool.not_eq_true'] at h
  obtain ⟨⟨⟨h1, h2⟩, h3⟩, h4⟩ := h
  exact ⟨solo_of h1, h2, h3, fun u hu => ⟨fun r hr => (h4 u hu).1 r hr, fun k hk => (h4 u hu).2 k hk⟩⟩

/-- The gang of the one thread. -/
theorem Ready.gang {s : State} {i : Instr} (h : Ready s i) : s.GangFits i 0 0 [0] 1 (crewAt s) :=
  ⟨h.solo.acting, h.solo.crew, fun t ht => by
    rw [List.mem_singleton.1 ht]; exact ⟨thAt s, h.solo.thread, h.solo.ready, h.fits⟩⟩

/-- A lane issues. -/
theorem lane_of {s : State} {i : Instr} (h : (decide (s.acting = .lane 0) && i.onLane && !badBind i (s.core 0).lane.bind) = true) :
    s.LaneRuns 0 i := by
  simp only [Bool.and_eq_true, decide_eq_true_eq, Bool.not_eq_true'] at h
  exact ⟨h.1.1, h.1.2, h.2⟩

/-- The hit of a check that passes. -/
def okOf {α : Type} (d : α) (x : Except Raise α) : α :=
  match x with
  | .ok h => h
  | .error _ => d
def isOk {α : Type} (x : Except Raise α) : Bool :=
  match x with
  | .ok _ => true
  | .error _ => false

theorem ok_of {α : Type} {d : α} {x : Except Raise α} (h : isOk x = true) : x = .ok (okOf d x) := by
  cases x with
  | ok a => rfl
  | error r => simp [isOk] at h

def noHit : Hit := ⟨0, 0, none⟩

/-- The hit of an access of the probe's thread. -/
def hitAt (s : State) (w : Want) (f : Formed) : Hit := okOf noHit (s.checkFormed (s.viewer (ctxAt s) (thAt s)) w f)

theorem reaches_of {s : State} {w : Want} {f : Formed}
    (h : (!(s.viewer (ctxAt s) (thAt s)).sRefuses w && isOk (s.checkFormed (s.viewer (ctxAt s) (thAt s)) w f) &&
      !(hitAt s w f).device w) = true) : s.Reaches (ctxAt s) (thAt s) w f (hitAt s w f) := by
  simp only [Bool.and_eq_true, Bool.not_eq_true'] at h
  exact ⟨h.1.1, ok_of h.1.2, h.2⟩

/-- The hit of an access of core 0's lane. -/
def laneHit (s : State) (w : Want) (f : Formed) : Hit := okOf noHit (s.checkFormed (s.laneViewer 0) w f)

theorem laneReaches_of {s : State} {w : Want} {f : Formed}
    (h : (isOk (s.checkFormed (s.laneViewer 0) w f) && !(laneHit s w f).device w &&
      decide (s.laneWait 0 w (laneHit s w f) = none)) = true) : s.LaneReaches 0 w f (laneHit s w f) := by
  simp only [Bool.and_eq_true, Bool.not_eq_true', decide_eq_true_eq] at h
  exact ⟨ok_of h.1.1, h.1.2, h.2⟩

/-! ### Well-formedness: each check refuses an ill-formed term -/

theorem test_wf_ws : (Instr.add false 1#7 112#7 2#7).wfThread = false := by decide
theorem test_wf_wd : (Instr.add false 96#7 1#7 2#7).wfThread = false := by decide
theorem test_wf_ps : (Instr.add64 false 2#7 3#7 4#7).wfThread = false := by decide
theorem test_wf_pd : (Instr.add64 false 3#7 2#7 4#7).wfThread = false := by decide
theorem test_wf_q : (Instr.ld 0#3 15#4 6#7 2#7 .q).wfThread = false := by decide
theorem test_wf_lane_ws : (Instr.add false 1#7 32#7 2#7).wfLane = false := by decide
theorem test_wf_lane_wd : (Instr.add false 104#7 1#7 2#7).wfLane = false := by decide
theorem test_wf_lane_ps : (Instr.add64 false 2#7 96#7 4#7).wfLane = false := by decide
theorem test_wf_lane_pd : (Instr.add64 false 109#7 2#7 4#7).wfLane = false := by decide
theorem test_wf_lane_q : (Instr.ld 0#3 15#4 6#7 2#7 .q).wfLane = false := by decide
theorem test_wf_lane_off : (Instr.fadd false 1#7 2#7 3#7).wfLane = false := by decide
theorem test_wf_flag : (Instr.ld 0#3 12#4 4#7 2#7 .w).wfThread = false := by decide
theorem test_wf_xseg : (Instr.ldx 1#3 15#4 4#7 2#7 .w).wfThread = false := by decide
theorem test_wf_pfseg : (Instr.pf 1#3 2#7).wfThread = false := by decide
theorem test_wf_cvt : (Instr.cvt false .f32 .f32 1#7 2#7).wfThread = false := by decide
theorem test_wf_mcall : (Instr.mcall 112#7 1#7 0#7).wfThread = false := by decide
theorem test_wf_push_group : (Instr.pstWGroup 15#4 1#7 2#7 5#5).wfThread = false := by decide
theorem test_wf_scgset : (Instr.scgset 2#7 5#5).wfThread = false := by decide
theorem test_wf_reserved : decodeThread (0b101#3 ++ 15#4 ++ 0#25) = none := by decide

/-! ### Words written out from the encodings -/

theorem test_words_R0 :
    ([(0x00220610#32, .add true 8#7 12#7 16#7),
      (0x00620610#32, .sub true 8#7 12#7 16#7),
      (0x00A20610#32, .add64 true 8#7 12#7 16#7),
      (0x00E20610#32, .sub64 true 8#7 12#7 16#7),
      (0x01220610#32, .mul true 8#7 12#7 16#7),
      (0x01620610#32, .mulhiS true 8#7 12#7 16#7),
      (0x01A20610#32, .mulhiU true 8#7 12#7 16#7),
      (0x01E20610#32, .mad true 8#7 12#7 16#7),
      (0x02220610#32, .mad64 true 8#7 12#7 16#7),
      (0x02620610#32, .divu true 8#7 12#7 16#7),
      (0x02A20610#32, .divs true 8#7 12#7 16#7),
      (0x02E20610#32, .remu true 8#7 12#7 16#7),
      (0x03220610#32, .rems true 8#7 12#7 16#7),
      (0x04220610#32, .shl true 8#7 12#7 16#7),
      (0x04620610#32, .shr true 8#7 12#7 16#7),
      (0x04A20610#32, .sra true 8#7 12#7 16#7),
      (0x04E20610#32, .rotl true 8#7 12#7 16#7),
      (0x05220610#32, .shl64 true 8#7 12#7 16#7),
      (0x05620610#32, .shr64 true 8#7 12#7 16#7),
      (0x05A20610#32, .sra64 true 8#7 12#7 16#7)] : List (Word × Instr)).all
      (fun x => decide (decodeThread x.1 = some x.2 ∨ decodeLane x.1 = some x.2)) = true := by
  decide +kernel

theorem test_words_R1 :
    ([(0x06220610#32, .and true 8#7 12#7 16#7),
      (0x06620610#32, .or true 8#7 12#7 16#7),
      (0x06A20610#32, .xor true 8#7 12#7 16#7),
      (0x06E20610#32, .andn true 8#7 12#7 16#7),
      (0x07220610#32, .orn true 8#7 12#7 16#7),
      (0x08220610#32, .minS true 8#7 12#7 16#7),
      (0x08620610#32, .minU true 8#7 12#7 16#7),
      (0x08A20610#32, .maxS true 8#7 12#7 16#7),
      (0x08E20610#32, .maxU true 8#7 12#7 16#7),
      (0x09220600#32, .abs true 8#7 12#7),
      (0x09620600#32, .clz true 8#7 12#7),
      (0x09A20600#32, .ctz true 8#7 12#7),
      (0x09E20600#32, .popc true 8#7 12#7),
      (0x0A220600#32, .brev true 8#7 12#7),
      (0x0A620610#32, .bfx true 8#7 12#7 16#7),
      (0x0AA20610#32, .bfi true 8#7 12#7 16#7),
      (0x0AE20610#32, .bmix true 8#7 12#7 16#7),
      (0x0B220610#32, .sel true 8#7 12#7 16#7),
      (0x0C220610#32, .cmpEqS true 8#7 12#7 16#7),
      (0x0C620610#32, .cmpNeS true 8#7 12#7 16#7)] : List (Word × Instr)).all
      (fun x => decide (decodeThread x.1 = some x.2 ∨ decodeLane x.1 = some x.2)) = true := by
  decide +kernel

theorem test_words_R2 :
    ([(0x0CA20610#32, .cmpLtS true 8#7 12#7 16#7),
      (0x0CE20610#32, .cmpLeS true 8#7 12#7 16#7),
      (0x0D220610#32, .cmpGtS true 8#7 12#7 16#7),
      (0x0D620610#32, .cmpGeS true 8#7 12#7 16#7),
      (0x0DA20610#32, .cmpEqU true 8#7 12#7 16#7),
      (0x0DE20610#32, .cmpNeU true 8#7 12#7 16#7),
      (0x0E220610#32, .cmpLtU true 8#7 12#7 16#7),
      (0x0E620610#32, .cmpLeU true 8#7 12#7 16#7),
      (0x0EA20610#32, .cmpGtU true 8#7 12#7 16#7),
      (0x0EE20610#32, .cmpGeU true 8#7 12#7 16#7)] : List (Word × Instr)).all
      (fun x => decide (decodeThread x.1 = some x.2 ∨ decodeLane x.1 = some x.2)) = true := by
  decide +kernel

theorem test_words_F0 :
    ([(0x20220610#32, .fadd true 8#7 12#7 16#7),
      (0x20620610#32, .fsub true 8#7 12#7 16#7),
      (0x20A20610#32, .fmul true 8#7 12#7 16#7),
      (0x20E20610#32, .ffma true 8#7 12#7 16#7),
      (0x21220610#32, .fmin true 8#7 12#7 16#7),
      (0x21620610#32, .fmax true 8#7 12#7 16#7),
      (0x21A20600#32, .fneg true 8#7 12#7),
      (0x21E20600#32, .fclass true 8#7 12#7),
      (0x22220610#32, .fcmpEq true 8#7 12#7 16#7),
      (0x22620610#32, .fcmpNe true 8#7 12#7 16#7),
      (0x22A20610#32, .fcmpLt true 8#7 12#7 16#7),
      (0x22E20610#32, .fcmpLe true 8#7 12#7 16#7),
      (0x23220610#32, .fcmpUnord true 8#7 12#7 16#7),
      (0x24220600#32, .frcp true 8#7 12#7),
      (0x24620600#32, .frsq true 8#7 12#7),
      (0x24A20600#32, .fsqrt true 8#7 12#7),
      (0x24E20600#32, .fexp2 true 8#7 12#7),
      (0x25220600#32, .flog2 true 8#7 12#7),
      (0x25620600#32, .fsin true 8#7 12#7),
      (0x25A20600#32, .fcos true 8#7 12#7)] : List (Word × Instr)).all
      (fun x => decide (decodeThread x.1 = some x.2 ∨ decodeLane x.1 = some x.2)) = true := by
  decide +kernel

theorem test_words_F1 :
    ([(0x26220600#32, .fintFloor true 8#7 12#7),
      (0x26620600#32, .fintCeil true 8#7 12#7),
      (0x26A20600#32, .fintTrunc true 8#7 12#7),
      (0x26E20600#32, .fintRound true 8#7 12#7),
      (0x28220610#32, .paddBf true 8#7 12#7 16#7),
      (0x28620610#32, .pmulBf true 8#7 12#7 16#7),
      (0x28A20610#32, .pfmaBf true 8#7 12#7 16#7),
      (0x29220610#32, .paddH true 8#7 12#7 16#7),
      (0x29620610#32, .pmulH true 8#7 12#7 16#7),
      (0x29A20610#32, .pfmaH true 8#7 12#7 16#7),
      (0x2A220610#32, .dp4 true 8#7 12#7 16#7),
      (0x2A620610#32, .f8dot4E4 true 8#7 12#7 16#7),
      (0x2AA20610#32, .f8dot4E5 true 8#7 12#7 16#7),
      (0x2B220610#32, .qpack true 8#7 12#7 16#7),
      (0x2B620610#32, .qunpack true 8#7 12#7 16#7),
      (0x30220604#32, .cvt true .f32 .e5m2 8#7 12#7)] : List (Word × Instr)).all
      (fun x => decide (decodeThread x.1 = some x.2 ∨ decodeLane x.1 = some x.2)) = true := by
  decide +kernel

theorem test_words_I :
    ([(0x411001A5#32, .movi true 8#7 421#10),
      (0x431031A5#32, .addi true 8#7 12#7 421#10),
      (0x451031A5#32, .muli true 8#7 12#7 421#10),
      (0x471031A5#32, .andi true 8#7 12#7 421#10),
      (0x491031A5#32, .ori true 8#7 12#7 421#10),
      (0x4B1031A5#32, .xori true 8#7 12#7 421#10),
      (0x4D103011#32, .shli true 8#7 12#7 17#5),
      (0x4F103011#32, .shri true 8#7 12#7 17#5),
      (0x51103011#32, .srai true 8#7 12#7 17#5),
      (0x531031A5#32, .cmpeqi true 8#7 12#7 421#10),
      (0x551031A5#32, .cmpnei true 8#7 12#7 421#10),
      (0x571031A5#32, .cmplti true 8#7 12#7 421#10),
      (0x591031A5#32, .cmpltui true 8#7 12#7 421#10),
      (0x5B1031A5#32, .cmpgei true 8#7 12#7 421#10),
      (0x5D1031A5#32, .cmpgeui true 8#7 12#7 421#10)] : List (Word × Instr)).all
      (fun x => decide (decodeThread x.1 = some x.2 ∨ decodeLane x.1 = some x.2)) = true := by
  decide +kernel

theorem test_words_M :
    ([(0x60262065#32, .ld 1#3 3#4 8#7 12#7 .d),
      (0x61262065#32, .st 1#3 3#4 8#7 12#7 .d),
      (0x62062065#32, .ldx 0#3 3#4 8#7 12#7 .d),
      (0x63062065#32, .stx 0#3 3#4 8#7 12#7 .d),
      (0x641E0060#32, .pf 0#3 12#7),
      (0x651E2060#32, .lea 0#3 8#7 12#7),
      (0x663E2002#32, .segq 1#3 8#7 2#2),
      (0x673E2000#32, .segld 1#3 8#7)] : List (Word × Instr)).all
      (fun x => decide (decodeThread x.1 = some x.2 ∨ decodeLane x.1 = some x.2)) = true := by
  decide +kernel

theorem test_words_C :
    ([(0xA1FFFFFD#32, .br 33554429#25),
      (0xA233FFFD#32, .bz 12#7 262141#18),
      (0xA433FFFD#32, .bnz 12#7 262141#18),
      (0xA6300000#32, .jmp 12#7),
      (0xA9FFFFFD#32, .call 33554429#25),
      (0xAA300000#32, .callr 12#7),
      (0xAC000000#32, .ret),
      (0xAE000000#32, .exit),
      (0xB0000000#32, .yield),
      (0xB202A5C3#32, .brk 173507#18),
      (0xB4206CD0#32, .mcall 8#7 13#7 77#7)] : List (Word × Instr)).all
      (fun x => decide (decodeThread x.1 = some x.2 ∨ decodeLane x.1 = some x.2)) = true := by
  decide +kernel

theorem test_words_X0 :
    ([(0x80188009#32, .mma 3#4 8#7 9#4),
      (0x80988000#32, .mmz 3#4 8#7),
      (0x81188180#32, .accld 3#4 8#7 12#7),
      (0x81988180#32, .accst 3#4 8#7 12#7),
      (0x82788015#32, .thdl 8#7 21#5),
      (0x82F80015#32, .thfree 21#5),
      (0x83780A5B#32, .waitf 2651#12),
      (0x84188189#32, .pstWGroup 3#4 8#7 12#7 9#5),
      (0x84988189#32, .pstDGroup 3#4 8#7 12#7 9#5),
      (0x85188189#32, .pstQGroup 3#4 8#7 12#7 9#5),
      (0x85980189#32, .ppushGroup 3#4 12#7 9#5),
      (0x86188183#32, .pstWCore 3#4 8#7 12#7 3#5),
      (0x86988183#32, .pstDCore 3#4 8#7 12#7 3#5),
      (0x87188183#32, .pstQCore 3#4 8#7 12#7 3#5),
      (0x87980183#32, .ppushCore 3#4 12#7 3#5),
      (0x88188180#32, .tcopy 3#4 8#7 12#7),
      (0x88F88000#32, .tseal 8#7),
      (0x89788000#32, .twait 8#7),
      (0x89F88183#32, .cwait 8#7 12#7 3#5),
      (0x8A788003#32, .permitArm 8#7 3#5)] : List (Word × Instr)).all
      (fun x => decide (decodeThread x.1 = some x.2 ∨ decodeLane x.1 = some x.2)) = true := by
  decide +kernel

theorem test_words_X1 :
    ([(0x8AF80003#32, .permitDrop 3#5),
      (0x8C188180#32, .fabPut 3#4 8#7 12#7),
      (0x8C988180#32, .fabGet 3#4 8#7 12#7),
      (0x8D188180#32, .fabAtom 3#4 8#7 12#7),
      (0x8D988180#32, .fabRed 3#4 8#7 12#7),
      (0x8E188180#32, .fabMcast 3#4 8#7 12#7),
      (0x8F1884C3#32, .ldAcq 3#4 8#7 true 6#5 3#5),
      (0x8F9884C3#32, .stRel 3#4 8#7 true 6#5 3#5),
      (0x901888C3#32, .atomAdd 3#4 8#7 .rel 6#5 3#5),
      (0x909888C3#32, .atomSub 3#4 8#7 .rel 6#5 3#5),
      (0x911888C3#32, .atomMin 3#4 8#7 .rel 6#5 3#5),
      (0x919888C3#32, .atomMax 3#4 8#7 .rel 6#5 3#5),
      (0x921888C3#32, .atomAnd 3#4 8#7 .rel 6#5 3#5),
      (0x929888C3#32, .atomOr 3#4 8#7 .rel 6#5 3#5),
      (0x931888C3#32, .atomXor 3#4 8#7 .rel 6#5 3#5),
      (0x939888C3#32, .atomExch 3#4 8#7 .rel 6#5 3#5),
      (0x941888C3#32, .atomCas 3#4 8#7 .rel 6#5 3#5),
      (0x949888C3#32, .atomFadd 3#4 8#7 .rel 6#5 3#5),
      (0x951888C3#32, .atomFmin 3#4 8#7 .rel 6#5 3#5),
      (0x959888C3#32, .atomFmax 3#4 8#7 .rel 6#5 3#5)] : List (Word × Instr)).all
      (fun x => decide (decodeThread x.1 = some x.2 ∨ decodeLane x.1 = some x.2)) = true := by
  decide +kernel

theorem test_words_X2 :
    ([(0x961888C3#32, .atomBfadd2 3#4 8#7 .rel 6#5 3#5),
      (0x97F80C03#32, .fence .sc 3#5),
      (0x98108189#32, .shfl .down 8#7 12#7 9#4),
      (0x98908189#32, .vote .ballot 8#7 12#7 9#4),
      (0x99108189#32, .scan .addF 8#7 12#7 9#4),
      (0x99908189#32, .red .addF 8#7 12#7 9#4),
      (0x9C188180#32, .fspawn 3#4 8#7 12#7),
      (0x9CF88183#32, .fget 8#7 12#7 3#5),
      (0x9D188183#32, .fput 3#4 8#7 12#7 3#5),
      (0x9D980180#32, .fref 3#4 12#7),
      (0x9E180180#32, .fdrop 3#4 12#7),
      (0x9EF88180#32, .fstate 8#7 12#7),
      (0x9F180180#32, .tspawn 3#4 12#7)] : List (Word × Instr)).all
      (fun x => decide (decodeThread x.1 = some x.2 ∨ decodeLane x.1 = some x.2)) = true := by
  decide +kernel

theorem test_words_S0 :
    ([(0xC0000155#32, .sys 341#9),
      (0xC0800000#32, .eret),
      (0xC1080155#32, .ctlr 8#7 341#9),
      (0xC1801955#32, .ctlw 12#7 341#9),
      (0xC20818A6#32, .qpop 8#7 12#7 166#8),
      (0xC2801800#32, .qret 12#7),
      (0xC3081800#32, .kgo 8#7 12#7),
      (0xC3881800#32, .mload 8#7 12#7),
      (0xC400192B#32, .ipi 12#7 299#9),
      (0xC4800000#32, .wfi),
      (0xC5001800#32, .preempt 12#7),
      (0xC5881800#32, .csave 8#7 12#7),
      (0xC6081800#32, .crestore 8#7 12#7),
      (0xC8001800#32, .racq 12#7),
      (0xC8801800#32, .rrel 12#7),
      (0xCA001865#32, .barSet 12#7 101#7),
      (0xCA800065#32, .barArrive 101#7),
      (0xCB000065#32, .barWait 101#7),
      (0xCB800065#32, .barSync 101#7),
      (0xCC081805#32, .rmset 8#7 12#7 5#3)] : List (Word × Instr)).all
      (fun x => decide (decodeThread x.1 = some x.2 ∨ decodeLane x.1 = some x.2)) = true := by
  decide +kernel

theorem test_words_S1 :
    ([(0xCC800005#32, .rjarrive 5#3),
      (0xCD000005#32, .rjwait 5#3),
      (0xCD800005#32, .rjdrop 5#3),
      (0xCE081809#32, .cvset 8#7 12#7 9#4),
      (0xD0001815#32, .scgset 12#7 21#5),
      (0xD0801802#32, .tlbinv 12#7 2#2),
      (0xD1081800#32, .atp 8#7 12#7),
      (0xD4001800#32, .tdecl 12#7),
      (0xD4880000#32, .rnext 8#7),
      (0xD5000000#32, .tend),
      (0xD5881800#32, .tmove 8#7 12#7),
      (0xD6000000#32, .fpoint),
      (0xD6800000#32, .fguard),
      (0xD7000000#32, .fend)] : List (Word × Instr)).all
      (fun x => decide (decodeThread x.1 = some x.2 ∨ decodeLane x.1 = some x.2)) = true := by
  decide +kernel

theorem test_words_H :
    ([(0xE24D6B31#32, .sched 2357#12 true false 5#3 4#3 6#3 1#3),
      (0xE6A5C3D1#32, .imm 44418001#26),
      (0xEA000A5B#32, .live 2#2 2651#24),
      (0xEE468ABC#32, .livescratch 4660#13 2748#13),
      (0xF1D00000#32, .mod .rd true false 2#2),
      (0xF6A5C3D1#32, .fmt 44418001#26)] : List (Word × Instr)).all
      (fun x => decide (decodeThread x.1 = some x.2 ∨ decodeLane x.1 = some x.2)) = true := by
  decide +kernel

/-! ### The words that the spec prints beside its rules -/

/-- The worked encodings of R128, R131 to R147, R175 to R180, R188, R195, R205, R211 to R213, R220 to R231. -/
theorem test_spec_words :
    ([(0x00810208#32, .add64 false 4#7 4#7 8#7), (0x02818103#32, .divs false 6#7 2#7 3#7),
      (0x20C24205#32, .ffma false 9#7 4#7 5#7), (0x2883050B#32, .pfmaBf false 12#7 10#7 11#7),
      (0x0CA20205#32, .cmpLtS true 8#7 4#7 5#7), (0x30C1C300#32, .cvt false .e4m3 .f32 7#7 6#7),
      (0xE4123456#32, .imm 0x123456#26), (0xA0000001#32, .br 1#25), (0xA2140008#32, .bz 5#7 8#18), (0xA4180007#32, .bnz 6#7 7#18),
      (0xC8000C00#32, .racq 6#7), (0xC8800C00#32, .rrel 6#7), (0x83780009#32, .waitf 9#12),
      (0xCC040A01#32, .rmset 4#7 5#7 1#3), (0xCE040A02#32, .cvset 4#7 5#7 2#4),
      (0x981850C2#32, .shfl .xor 5#7 6#7 2#4), (0x98907102#32, .vote .ballot 7#7 8#7 2#4),
      (0x990890C2#32, .scan .addU 9#7 6#7 2#4), (0x998890C2#32, .red .addU 9#7 6#7 2#4),
      (0x8278C005#32, .thdl 12#7 5#5), (0x82F80005#32, .thfree 5#5), (0x80114003#32, .mma 2#4 20#7 3#4),
      (0x80168003#32, .mma 2#4 104#7 3#4), (0x80886000#32, .mmz 1#4 6#7), (0x81188140#32, .accld 3#4 8#7 10#7),
      (0x81988140#32, .accst 3#4 8#7 10#7)] : List (Word × Instr)).all
      (fun x => decide (decodeThread x.1 = some x.2)) = true := by
  decide +kernel

/-- The worked encodings of R245 to R259, R274, R275, R289 to R302, R327 to R333, R343 to R345, R361 to R382. -/
theorem test_spec_words_system :
    ([(0xC1040000#32, .ctlr 4#7 0#9), (0xC1800A00#32, .ctlw 5#7 0#9), (0xC2800C00#32, .qret 6#7), (0xC0000005#32, .sys 5#9),
      (0xC3841000#32, .mload 4#7 8#7), (0xC5000C00#32, .preempt 6#7), (0xC5880C00#32, .csave 8#7 6#7),
      (0xC6080C00#32, .crestore 8#7 6#7), (0x84085049#32, .pstWGroup 1#4 5#7 2#7 9#5), (0x85800046#32, .ppushGroup 0#4 2#7 6#5),
      (0x87088047#32, .pstQCore 1#4 8#7 2#7 7#5), (0x87F80047#32, .ppushCore 15#4 2#7 7#5), (0x8A78A003#32, .permitArm 10#7 3#5),
      (0x8AF80003#32, .permitDrop 3#5), (0x880840C0#32, .tcopy 1#4 4#7 6#7), (0x89F88143#32, .cwait 8#7 10#7 3#5),
      (0x88F85000#32, .tseal 5#7), (0x89785000#32, .twait 5#7), (0xD0801000#32, .tlbinv 8#7 0#2), (0xD0801003#32, .tlbinv 8#7 3#2),
      (0xD10A1000#32, .atp 10#7 8#7), (0xD0001009#32, .scgset 8#7 9#5), (0x8F106049#32, .ldAcq 2#4 6#7 false 2#5 9#5),
      (0x8F906049#32, .stRel 2#4 6#7 false 2#5 9#5), (0x90007823#32, .atomAdd 0#4 7#7 .rel 1#5 3#5),
      (0x94088C24#32, .atomCas 1#4 8#7 .ar 1#5 4#5), (0x97F80403#32, .fence .rel 3#5), (0x97F80C04#32, .fence .sc 4#5),
      (0x9F080100#32, .tspawn 1#4 8#7), (0x9C08A100#32, .fspawn 1#4 10#7 8#7), (0xD4860000#32, .rnext 6#7),
      (0xD4001000#32, .tdecl 8#7), (0xD5860E00#32, .tmove 6#7 7#7)] : List (Word × Instr)).all
      (fun x => decide (decodeThread x.1 = some x.2)) &&
    ([(0xC4000E03#32, .ipi 7#7 3#9), (0xC2030806#32, .qpop 3#7 4#7 6#8), (0xC3070A00#32, .kgo 7#7 5#7)] : List (Word × Instr)).all
      (fun x => decide (decodeLane x.1 = some x.2)) = true := by
  decide +kernel

/-! ### Results worked out in the rules -/

/-- Each case: an instruction, registers before it, a register and its value after it. -/
def allGive (l : List (Instr × List (Nat × Word) × Nat × Word)) : Bool :=
  l.all (fun c => decide (gives c.1 c.2.1 c.2.2.1 = some c.2.2.2))

/-- R118 to R120, and a register that nothing names is left alone. -/
theorem test_arithmetic :
    allGive [
      (.add false 7#7 8#7 9#7, [(8, 0xFFFFFFFF#32), (9, 2#32)], 7, 1#32),
      (.sub false 7#7 8#7 9#7, [(8, 1#32), (9, 2#32)], 7, 0xFFFFFFFF#32),
      (.add64 false 6#7 8#7 10#7, [(8, 0xFFFFFFFF#32), (9, 3#32), (10, 1#32), (11, 4#32)], 7, 8#32),
      (.sub64 false 6#7 8#7 10#7, [(8, 0#32), (9, 3#32), (10, 1#32), (11, 1#32)], 7, 1#32),
      (.mul false 7#7 8#7 9#7, [(8, 0x10001#32), (9, 0x10001#32)], 7, 0x00020001#32),
      (.mulhiS false 7#7 8#7 9#7, [(8, 0xFFFFFFFF#32), (9, 2#32)], 7, 0xFFFFFFFF#32),
      (.mulhiU false 7#7 8#7 9#7, [(8, 0xFFFFFFFF#32), (9, 2#32)], 7, 1#32),
      (.mad false 7#7 8#7 9#7, [(7, 5#32), (8, 3#32), (9, 4#32)], 7, 17#32),
      (.mad64 false 6#7 8#7 9#7, [(6, 0xFFFFFFFF#32), (7, 1#32), (8, 0xFFFFFFFF#32), (9, 2#32)], 7, 3#32),
      (.divu false 7#7 8#7 9#7, [(8, 0xFFFFFFF9#32), (9, 2#32)], 7, 0x7FFFFFFC#32),
      (.divu false 7#7 8#7 9#7, [(8, 5#32)], 7, 0xFFFFFFFF#32),
      (.divs false 7#7 8#7 9#7, [(8, 0xFFFFFFF9#32), (9, 2#32)], 7, 0xFFFFFFFD#32),
      (.divs false 7#7 8#7 9#7, [(8, 0x80000000#32), (9, 0xFFFFFFFF#32)], 7, 0x80000000#32),
      (.remu false 7#7 8#7 9#7, [(8, 0x80000000#32), (9, 0xFFFFFFFF#32)], 7, 0x80000000#32),
      (.rems false 7#7 8#7 9#7, [(8, 0xFFFFFFF9#32), (9, 2#32)], 7, 0xFFFFFFFF#32),
      (.rems false 7#7 8#7 9#7, [(8, 5#32)], 7, 5#32),
      (.shl false 7#7 8#7 9#7, [(8, 1#32), (9, 31#32)], 7, 0x80000000#32),
      (.shr false 7#7 8#7 9#7, [(8, 0x80000000#32), (9, 32#32)], 7, 0#32),
      (.sra false 7#7 8#7 9#7, [(8, 0x80000000#32), (9, 99#32)], 7, 0xFFFFFFFF#32),
      (.rotl false 7#7 8#7 9#7, [(8, 0x80000001#32), (9, 33#32)], 7, 3#32),
      (.shl64 false 6#7 8#7 10#7, [(8, 1#32), (10, 32#32)], 7, 1#32),
      (.shr64 false 6#7 8#7 10#7, [(9, 1#32), (10, 32#32)], 6, 1#32),
      (.sra64 false 6#7 8#7 10#7, [(9, 0x80000000#32), (10, 63#32)], 6, 0xFFFFFFFF#32),
      (.add true 7#7 8#7 9#7, [(7, 6#32), (8, 1#32), (9, 2#32)], 7, 6#32),
      (.add false 7#7 8#7 9#7, [(6, 6#32), (8, 1#32), (9, 2#32)], 6, 6#32)] = true := by
  decide +kernel

/-- R121 to R127. -/
theorem test_logic :
    allGive [
      (.and false 7#7 8#7 9#7, [(8, 0xF0F0#32), (9, 0xFF00#32)], 7, 0xF000#32),
      (.or false 7#7 8#7 9#7, [(8, 0xF0F0#32), (9, 0xFF00#32)], 7, 0xFFF0#32),
      (.xor false 7#7 8#7 9#7, [(8, 0xF0F0#32), (9, 0xFF00#32)], 7, 0x0FF0#32),
      (.andn false 7#7 8#7 9#7, [(8, 0xF0F0#32), (9, 0xFF00#32)], 7, 0x00F0#32),
      (.orn false 7#7 8#7 9#7, [(8, 0xF0F0#32), (9, 0xFFFFFF00#32)], 7, 0xF0FF#32),
      (.minS false 7#7 8#7 9#7, [(8, 0xFFFFFFFF#32), (9, 1#32)], 7, 0xFFFFFFFF#32),
      (.minU false 7#7 8#7 9#7, [(8, 0xFFFFFFFF#32), (9, 1#32)], 7, 1#32),
      (.maxS false 7#7 8#7 9#7, [(8, 0xFFFFFFFF#32), (9, 1#32)], 7, 1#32),
      (.maxU false 7#7 8#7 9#7, [(8, 0xFFFFFFFF#32), (9, 1#32)], 7, 0xFFFFFFFF#32),
      (.abs false 7#7 8#7, [(8, 0x80000000#32)], 7, 0x80000000#32), (.abs false 7#7 8#7, [(8, 0xFFFFFFF9#32)], 7, 7#32),
      (.clz false 7#7 8#7, [(8, 0x00010000#32)], 7, 15#32), (.ctz false 7#7 8#7, [], 7, 32#32),
      (.popc false 7#7 8#7, [(8, 0xF000000F#32)], 7, 8#32), (.brev false 7#7 8#7, [(8, 0x00000006#32)], 7, 0x60000000#32),
      (.bfx false 7#7 8#7 9#7, [(8, 0xDEADBEEF#32), (9, 0x00010C08#32)], 7, 0xFFFFFDBE#32),
      (.bfx false 7#7 8#7 9#7, [(8, 0xDEADBEEF#32), (9, 0x00000C08#32)], 7, 0x00000DBE#32),
      (.bfi false 7#7 8#7 9#7, [(8, 0x00000ABC#32), (9, 0x00000C08#32)], 7, 0x000ABC00#32),
      (.bfi false 7#7 8#7 9#7, [(8, 0xFFFFFFF5#32), (9, 0x00000C1C#32)], 7, 0x50000000#32),
      (.bmix false 7#7 8#7 9#7, [(7, 0x0003AC80#32), (8, 0x44332211#32), (9, 0x88776655#32)], 7, 0x88005511#32),
      (.bmix false 7#7 8#7 9#7, [(7, 0x00078000#32), (8, 0x44332211#32), (9, 0x88776655#32)], 7, 0xFF111111#32),
      (.sel false 7#7 8#7 9#7, [(7, 0x80000000#32), (8, 3#32), (9, 4#32)], 7, 3#32),
      (.sel false 7#7 8#7 9#7, [(8, 3#32), (9, 4#32)], 7, 4#32)] = true := by
  decide +kernel

/-- R127, with a = 0xFFFFFFFF and b = 1, then with equal operands. -/
theorem test_compare :
    ([(.cmpEqS false 7#7 8#7 9#7, 0), (.cmpNeS false 7#7 8#7 9#7, 1), (.cmpLtS false 7#7 8#7 9#7, 1),
      (.cmpLeS false 7#7 8#7 9#7, 1), (.cmpGtS false 7#7 8#7 9#7, 0), (.cmpGeS false 7#7 8#7 9#7, 0),
      (.cmpEqU false 7#7 8#7 9#7, 0), (.cmpNeU false 7#7 8#7 9#7, 1), (.cmpLtU false 7#7 8#7 9#7, 0),
      (.cmpLeU false 7#7 8#7 9#7, 0), (.cmpGtU false 7#7 8#7 9#7, 1), (.cmpGeU false 7#7 8#7 9#7, 1),
      (.cmpEqS false 7#7 8#7 8#7, 1), (.cmpLtS false 7#7 8#7 8#7, 0), (.cmpLeU false 7#7 8#7 8#7, 1),
      (.cmpGtU false 7#7 8#7 8#7, 0)] : List (Instr × Word)).all
      (fun c => decide (gives c.1 [(8, 0xFFFFFFFF#32), (9, 1#32)] 7 = some c.2)) = true := by
  decide +kernel

/-- R128; the last with a bound imm hint (R51). -/
theorem test_immediates :
    allGive [
      (.movi false 7#7 0x3FF#10, [], 7, 0xFFFFFFFF#32), (.addi false 7#7 7#7 0x3FF#10, [(7, 5#32)], 7, 4#32),
      (.muli false 7#7 8#7 3#10, [(8, 5#32)], 7, 15#32), (.andi false 7#7 8#7 0x3FF#10, [(8, 0xFFFFFFFF#32)], 7, 0x3FF#32),
      (.ori false 7#7 8#7 0x200#10, [(8, 1#32)], 7, 0x201#32), (.xori false 7#7 8#7 0x3FF#10, [(8, 0x400#32)], 7, 0x7FF#32),
      (.shli false 7#7 8#7 31#5, [(8, 3#32)], 7, 0x80000000#32), (.shri false 7#7 8#7 31#5, [(8, 0x80000000#32)], 7, 1#32),
      (.srai false 7#7 8#7 31#5, [(8, 0x80000000#32)], 7, 0xFFFFFFFF#32),
      (.cmpeqi false 7#7 8#7 0x3FF#10, [(8, 0xFFFFFFFF#32)], 7, 1#32), (.cmpnei false 7#7 8#7 0x3FF#10, [(8, 0xFFFFFFFF#32)], 7, 0#32),
      (.cmplti false 7#7 8#7 0#10, [(8, 0xFFFFFFFF#32)], 7, 1#32), (.cmpltui false 7#7 8#7 0x3FF#10, [(8, 0x400#32)], 7, 0#32),
      (.cmpgei false 7#7 8#7 0x3FF#10, [(8, 0#32)], 7, 1#32), (.cmpgeui false 7#7 8#7 0x3FF#10, [(8, 0x3FF#32)], 7, 1#32)] &&
    decide (after (exec (.movi false 5#7 0x078#10) (probe (.movi false 5#7 0x078#10)
      (fun t => { t with bind := some { start := t.pc, imm := some 0x123456#26, mod := none, fmt := none, bad := false } })))
      (fun u => (u.thread 0 0 0).map (fun t => t.reg 5)) = some 0x48D15878#32) = true := by
  decide +kernel

/-- R131 to R134, R137 to R141. -/
theorem test_floats :
    allGive [
      (.fadd false 7#7 8#7 9#7, [(8, 0x3F800000#32), (9, 0x33800000#32)], 7, 0x3F800000#32),
      (.fadd false 7#7 8#7 9#7, [(8, 0x7F7FFFFF#32), (9, 0x7F7FFFFF#32)], 7, 0x7F800000#32),
      (.fsub false 7#7 8#7 9#7, [(8, 0x3F800000#32), (9, 0x3F800000#32)], 7, 0#32),
      (.fmul false 7#7 8#7 9#7, [(8, 0x00800000#32), (9, 0x3F000000#32)], 7, 0x00400000#32),
      (.ffma false 7#7 8#7 9#7, [(7, 0x3F800000#32), (8, 0x40000000#32), (9, 0x40000000#32)], 7, 0x40A00000#32),
      (.fmin false 7#7 8#7 9#7, [(9, 0x80000000#32)], 7, 0x80000000#32),
      (.fmax false 7#7 8#7 9#7, [(8, 0x7FA00000#32), (9, 0x40000000#32)], 7, 0x40000000#32),
      (.fneg false 7#7 8#7, [(8, 0x7FA00000#32)], 7, 0xFFA00000#32),
      (.fclass false 7#7 8#7, [(8, 0x80000001#32)], 7, 0x004#32), (.fclass false 7#7 8#7, [(8, 0xFFC00000#32)], 7, 0x200#32),
      (.fcmpEq false 7#7 8#7 9#7, [(9, 0x80000000#32)], 7, 1#32), (.fcmpNe false 7#7 8#7 9#7, [(8, 0x7FC00000#32)], 7, 1#32),
      (.fcmpLt false 7#7 8#7 9#7, [(8, 0xBF800000#32)], 7, 1#32), (.fcmpLe false 7#7 8#7 9#7, [(8, 0x7FC00000#32)], 7, 0#32),
      (.fcmpUnord false 7#7 8#7 9#7, [(8, 0x7FC00000#32)], 7, 1#32),
      (.fsqrt false 7#7 8#7, [(8, 0x40800000#32)], 7, 0x40000000#32), (.fexp2 false 7#7 8#7, [(8, 0x41200000#32)], 7, 0x44800000#32),
      (.flog2 false 7#7 8#7, [(8, 0x3E800000#32)], 7, 0xC0000000#32), (.frcp false 7#7 8#7, [(8, 0x40000000#32)], 7, 0x3F000000#32),
      (.frsq false 7#7 8#7, [(8, 0xBF800000#32)], 7, 0x7FC00000#32), (.fsin false 7#7 8#7, [(8, 0x80000000#32)], 7, 0x80000000#32),
      (.fcos false 7#7 8#7, [], 7, 0x3F800000#32),
      (.fintFloor false 7#7 8#7, [(8, 0xBF000000#32)], 7, 0xBF800000#32), (.fintCeil false 7#7 8#7, [(8, 0xBF000000#32)], 7, 0x80000000#32),
      (.fintTrunc false 7#7 8#7, [(8, 0x40600000#32)], 7, 0x40400000#32), (.fintRound false 7#7 8#7, [(8, 0x40600000#32)], 7, 0x40800000#32)]
      = true := by
  decide +kernel

/-- R138 to R141, and cvt by the worked values of R111. -/
theorem test_packed :
    allGive [
      (.paddBf false 7#7 8#7 9#7, [(8, 0x3F804000#32), (9, 0x3F80C000#32)], 7, 0x40000000#32),
      (.pmulBf false 7#7 8#7 9#7, [(8, 0x3F804000#32), (9, 0x4000C000#32)], 7, 0x4000C080#32),
      (.pfmaBf false 7#7 8#7 9#7, [(7, 0x3F803F80#32), (8, 0x3F804000#32), (9, 0x40004000#32)], 7, 0x404040A0#32),
      (.paddH false 7#7 8#7 9#7, [(8, 0x3C004000#32), (9, 0x3C00C000#32)], 7, 0x40000000#32),
      (.pmulH false 7#7 8#7 9#7, [(8, 0x3C004000#32), (9, 0x4000C000#32)], 7, 0x4000C400#32),
      (.pfmaH false 7#7 8#7 9#7, [(7, 0x3C003C00#32), (8, 0x3C004000#32), (9, 0x40004000#32)], 7, 0x42004500#32),
      (.dp4 false 7#7 8#7 9#7, [(7, 0x7FFFFFFF#32), (8, 0x80808080#32), (9, 0x80808080#32)], 7, 0x8000FFFF#32),
      (.f8dot4E4 false 7#7 8#7 9#7, [(7, 0x3F800000#32), (8, 0x3C384030#32), (9, 0x48403830#32)], 7, 0x41340000#32),
      (.f8dot4E5 false 7#7 8#7 9#7, [(8, 0x0000003C#32), (9, 0x00000040#32)], 7, 0x40000000#32),
      (.qpack false 7#7 8#7 9#7, [(8, 0x3FA66666#32), (9, 0x0000035E#32)], 7, 0x00005000#32),
      (.qunpack false 7#7 8#7 9#7, [(8, 0x00005000#32), (9, 0x0000035E#32)], 7, 0x3FC00000#32),
      (.cvt false .uint8 .int32 7#7 8#7, [(8, 300#32)], 7, 44#32), (.cvt false .uint8 .int32 7#7 8#7, [(8, 0xFFFFFFFF#32)], 7, 0xFF#32),
      (.cvt false .f32 .int32 7#7 8#7, [(8, 4#32)], 7, 0x40800000#32)] = true := by
  decide +kernel

/-- A mod hint: R131 under ru, and dp4 under sat (R139). -/
theorem test_mod :
    decide (after (exec (.fadd false 7#7 8#7 9#7) (probe (.fadd false 7#7 8#7 9#7) (fun t => regs [(8, 0x3F800000#32), (9, 0x33800000#32)]
      { t with bind := some { start := t.pc, imm := none, mod := some ⟨.ru, false, false, 0⟩, fmt := none, bad := false } })))
      (fun u => (u.thread 0 0 0).map (fun t => t.reg 7)) = some 0x3F800001#32) &&
    decide (after (exec (.dp4 false 7#7 8#7 9#7) (probe (.dp4 false 7#7 8#7 9#7)
      (fun t => regs [(7, 0x7FFFFFFF#32), (8, 0x80808080#32), (9, 0x80808080#32)]
      { t with bind := some { start := t.pc, imm := none, mod := some ⟨.rne, true, false, 0⟩, fmt := none, bad := false } })))
      (fun u => (u.thread 0 0 0).map (fun t => t.reg 7)) = some 0x7FFFFFFF#32) = true := by
  decide +kernel

/-! ### Witnesses: words and steps -/

theorem witness_DecodeEncode : (Instr.add64 false 94#7 0#7 94#7).hasWord = true ∧ (Instr.add64 false 94#7 0#7 94#7).wfThread = true ∧
    (Instr.add64 false 0#7 30#7 31#7).wfLane = true := by decide

theorem witness_DecodedWellFormed : decodeThread 0x00810208#32 = some (.add64 false 4#7 4#7 8#7) ∧
    decodeLane 0xC3070A00#32 = some (.kgo 7#7 5#7) := by decide +kernel

/-- The state whose next step fetches a word, without that act; what the step finds in it. -/
def stepState (w : Nat) : State := State.reset.withFetchWord 32 w
def stepRest (s : State) : State := { s with agenda := s.agenda.drop 1 }
def gangOf (s : State) : Gang := (s.pick 0).getD ⟨0, [], 0⟩
def headOf (s : State) : Ctx × Thread := (s.gangHead 0 (gangOf s)).getD (ctxAt s, thAt s)
def fetchOf (s : State) : Hit := okOf noHit (s.fetchHit (s.viewer (headOf s).1 (headOf s).2) (headOf s).2.pc)

/-- What StepRunsDecoded and StepTraps suppose of a gang's issue, before its fetch. -/
def issuesB (s : State) : Bool :=
  decide (s.agenda.head? = some (.gang 0)) && decide ((stepRest s).pick 0 = some (gangOf (stepRest s))) &&
    decide ((stepRest s).gangHead 0 (gangOf (stepRest s)) = some (headOf (stepRest s))) && (headOf (stepRest s)).2.mac.isNone
def fetchB (s : State) : Bool :=
  isOk (s.fetchHit (s.viewer (headOf s).1 (headOf s).2) (headOf s).2.pc)
def wordAt (s : State) : Word := BitVec.ofNat 32 (s.peekNat (fetchOf s).pa 4)

theorem witness_StepRunsDecoded_gang : issuesB (stepState 0x420E1FFF) = true ∧ fetchB (stepRest (stepState 0x420E1FFF)) = true ∧
    decodeThread (wordAt (stepRest (stepState 0x420E1FFF))) = some (.addi false 7#7 7#7 0x3FF#10) := by decide +kernel

theorem witness_StepRunsDecoded_hint : (stepState 0xE4123456).agenda.head? = some (.hint 0 0 0) ∧
    (stepRest (stepState 0xE4123456)).hintDue 0 0 0 = true ∧ fetchB (stepRest (stepState 0xE4123456)) = true ∧
    decodeThread (BitVec.ofNat 32 ((stepRest (stepState 0xE4123456)).peekNat probeCode 4)) = some (.imm 0x123456#26) := by decide +kernel

theorem witness_StepRunsDecoded_lane : (stepState 0xC3070A00).agenda.head? = some (.lane 0) ∧
    (stepRest (stepState 0xC3070A00)).laneRuns 0 = true ∧ (stepRest (stepState 0xC3070A00)).interruptDue 0 = false ∧
    (let s := (stepRest (stepState 0xC3070A00)).onLane 0 (fun l => { l with mode := .s, ie := true, ipend := 4#64, ienable := 4#64 })
     s.laneRuns 0 = true ∧ s.interruptDue 0 = true) ∧ (stepRest (stepState 0xC3070A00)).inRom 0 = false ∧
    (match (stepRest (stepState 0xC3070A00)).laneWord 0 with
     | .ok w => decide (decodeLane w = some (.kgo 7#7 5#7))
     | _ => false) = true := by decide +kernel

theorem witness_StepTraps_illegal : issuesB (stepState 0xBE000000) = true ∧ fetchB (stepRest (stepState 0xBE000000)) = true ∧
    decodeThread (wordAt (stepRest (stepState 0xBE000000))) = none := by decide +kernel

/-- A PC whose word lies beyond the limit of the code segment. -/
def beyondCode : State := (stepState 0x420E1FFF).onThread 0 0 0 (fun t => { t with pc := 0x400#32 })

theorem witness_StepTraps_fetch : issuesB beyondCode = true ∧ fetchB (stepRest beyondCode) = false ∧
    ((stepRest beyondCode).crew 0 (gangOf (stepRest beyondCode)).slot).isSome = true := by decide +kernel

/-- A step of a store's neighbour: the memory of a probe has the form, and it steps. -/
theorem witness_MemoryStaysCanonical : (stepState 0x420E1FFF).mem.wf = true ∧
    (match step (stepState 0x420E1FFF) with
     | .next _ => true
     | _ => false) = true := by decide +kernel

theorem witness_RegisterPairs : (94#7 : Opnd).toNat < 96 ∧ (94#7 : Opnd).toNat % 2 = 0 ∧ Thread.blank.shadows = [] ∧
    decodeThread 0x00810208#32 = some (.add64 false 4#7 4#7 8#7) ∧ ⟨.ps, 8#7, true, false⟩ ∈ (Instr.add64 false 4#7 4#7 8#7).opnds := by decide

/-- A thread no segment of which has its S bit. -/
def openSegs (t : Thread) : Thread := { t with segs := t.segs.map (fun _ => mkSeg false false true true 0x1000 0) }
def plainSegs (t : Thread) : Bool := (List.range 8).all (fun k => !segS (t.segs.getD k 0#128))

theorem witness_OperandTraps : ⟨.wd, 64#7, false, true⟩ ∈ (Instr.add false 64#7 8#7 9#7).opnds ∧ 64 ∈ useRegs ⟨.wd, 64#7, false, true⟩ ∧
    (ctxAt (probe (.add false 64#7 8#7 9#7) id)).allocated 64 = false ∧
    (∀ v ∈ (Instr.add false 7#7 96#7 9#7).opnds, ∀ r ∈ useRegs v,
      (ctxAt (probe (.add false 7#7 96#7 9#7) id)).allocated r = true) ∧
    ⟨.ws, 96#7, true, false⟩ ∈ (Instr.add false 7#7 96#7 9#7).opnds ∧ 0 ∈ useLatches ⟨.ws, 96#7, true, false⟩ ∧
    bit (thAt (probe (.add false 7#7 96#7 9#7) id)).lvalid.toNat 0 = false := by decide +kernel

/-- The same two at exec: one thread, no hint, a user's instruction. -/
theorem witness_OperandTraps_exec :
    soloB (probe (.add false 64#7 8#7 9#7) id) = true ∧ (thAt (probe (.add false 64#7 8#7 9#7) id)).mac = none ∧
    badBind (.add false 64#7 8#7 9#7) (thAt (probe (.add false 64#7 8#7 9#7) id)).bind = false ∧ privOf (.add false 64#7 8#7 9#7) = .u ∧
    plainSegs (thAt (probe (.add false 64#7 8#7 9#7) openSegs)) = true ∧
    bit ((thAt (probe (.add false 7#7 96#7 9#7) openSegs)).openWin 0).lvalid.toNat 0 = false ∧
    trapOf (exec (.add false 64#7 8#7 9#7) (probe (.add false 64#7 8#7 9#7) openSegs)) = some (causeReg, 64) ∧
    trapOf (exec (.add false 7#7 96#7 9#7) (probe (.add false 7#7 96#7 9#7) openSegs)) = some (causeLatch, 0) := by decide +kernel

theorem witness_IntegerResults : (probe (.mad64 false 6#7 8#7 9#7) id).GangFits (.mad64 false 6#7 8#7 9#7) 0 0 [0] 1
      (crewAt (probe (.mad64 false 6#7 8#7 9#7) id)) ∧ ∀ r, intForm (.mad64 false 6#7 8#7 9#7) r ≠ none :=
  ⟨(ready_of (by decide +kernel)).gang, fun r => by simp [intForm]⟩

theorem witness_ImmediateResults : (probe (.movi true 63#7 0x200#10) id).GangFits (.movi true 63#7 0x200#10) 0 0 [0] 1
      (crewAt (probe (.movi true 63#7 0x200#10) id)) ∧ ∀ r v, immForm (.movi true 63#7 0x200#10) r v ≠ none :=
  ⟨(ready_of (by decide +kernel)).gang, fun r v => by simp [immForm]⟩

theorem witness_FloatResults : (probe (.cvt false .int64 .f32 62#7 9#7) id).GangFits (.cvt false .int64 .f32 62#7 9#7) 0 0 [0] 1
      (crewAt (probe (.cvt false .int64 .f32 62#7 9#7) id)) ∧ ∀ r, floatForm (.cvt false .int64 .f32 62#7 9#7) r ≠ none :=
  ⟨(ready_of (by decide +kernel)).gang, fun r => by simp [floatForm]⟩

theorem witness_LaneResults : (laneProbe id).LaneRuns 0 (.add64 false 31#7 0#7 30#7) ∧
    (∀ r, intForm (.add64 false 31#7 0#7 30#7) r ≠ none) ∧ (laneProbe id).LaneRuns 0 (.addi false 31#7 0#7 1#10) ∧
    ∀ r v, immForm (.addi false 31#7 0#7 1#10) r v ≠ none :=
  ⟨lane_of (by decide +kernel), fun r => by simp [intForm], lane_of (by decide +kernel), fun r v => by simp [immForm]⟩

/-! ### Witnesses: accesses -/

/-- What AccessAccepted supposes of an access of the probe's thread. -/
def reachB (s : State) (w : Want) (f : Formed) : Bool :=
  !(s.viewer (ctxAt s) (thAt s)).sRefuses w && isOk (s.checkFormed (s.viewer (ctxAt s) (thAt s)) w f) &&
      !(hitAt s w f).device w
def accB (s : State) (i : Instr) : Bool :=
  readyB s i && (match accForm i with
    | some f => reachB s (wantOf i f.seg f.n f.code f.rd f.wr) ((thAt s).form (ctxAt s) (wantOf i f.seg f.n f.code f.rd f.wr) f.a)
    | none => false)

/-- Each access instruction, at the last address that its limit allows for some. -/
theorem witness_AccessAccepted :
    ([(.ld 0#3 15#4 60#7 8#7 .q, 0x3FFFFFF0#32), (.ld 1#3 3#4 7#7 8#7 .bs, 0xFFFF#32), (.ld 2#3 3#4 7#7 8#7 .w, 0x3FFFC#32),
      (.st 1#3 3#4 7#7 8#7 .b, 0#32), (.st 0#3 0#4 6#7 8#7 .d, 0x3FFFFFF8#32), (.ldx 0#3 0#4 7#7 8#7 .w, 0x2000#32),
      (.stx 0#3 0#4 6#7 8#7 .d, 0x2000#32), (.ldAcq 2#4 6#7 true 4#5 3#5, 0x2000#32), (.stRel 2#4 6#7 true 4#5 3#5, 0x2000#32),
      (.atomAdd 0#4 7#7 .ar 4#5 3#5, 0x2000#32), (.atomCas 0#4 6#7 .rlx 4#5 0#5, 0x3FFFFFFC#32)] : List (Instr × Word)).all
      (fun c => accB (probe c.1 (regs [(8, c.2)])) c.1) = true := by
  decide +kernel

/-- What LaneLoads, LaneStores and LaneAtomics suppose of an access of core 0's lane. -/
def lanForm (s : State) (w : Want) (a : Opnd) : Formed := (s.core 0).lane.form 0 (s.coreCycle 0) (s.core 0).pts w a
def laneReachB (s : State) (w : Want) (f : Formed) : Bool :=
  isOk (s.checkFormed (s.laneViewer 0) w f) && !(laneHit s w f).device w &&
    decide (s.laneWait 0 w (laneHit s w f) = none)
def inLineB (h : Hit) (w : Want) : Bool :=
  decide (w.seg = 1) || decide (w.seg = 2) || ((h.pageFor false w).isSome && decide (h.pa % 128 + w.n ≤ 128))
def cleanB (s : State) (w : Want) (h : Hit) : Bool :=
  (!decide (w.seg = 1) || !s.spadBad 0 h.pa w.n) && (!decide (w.seg = 2) || !s.accBad 0 h.pa w.n) &&
    (decide (w.seg = 1) || decide (w.seg = 2) || (match h.pageFor false w with
      | some t => decide (h.pa % 128 + w.n ≤ 128) && !(s.readHome 0 t.mode t.lease h.pa w.n).2.2
      | none => false))
def laneB (s : State) (i : Instr) : Bool := decide (s.acting = .lane 0) && i.onLane && !badBind i (s.core 0).lane.bind
def laneAccB (s : State) (i : Instr) : Bool :=
  laneB s i && (match accForm i with
    | some f =>
      let w := wantOf i f.seg f.n f.code f.rd f.wr
      laneReachB s w (lanForm s w f.a) && inLineB (laneHit s w (lanForm s w f.a)) w && cleanB s w (laneHit s w (lanForm s w f.a))
    | none => false)

theorem witness_LaneLoads :
    ([(.ld 0#3 15#4 28#7 8#7 .q, 0x2070#64), (.ld 0#3 15#4 31#7 8#7 .d, 0x2000#64), (.ld 1#3 15#4 7#7 8#7 .hs, 0xFFFE#64),
      (.ld 2#3 15#4 7#7 8#7 .w, 0#64), (.ldx 0#3 15#4 7#7 8#7 .w, 0x2000#64), (.ldAcq 15#4 7#7 true 8#5 3#5, 0x2000#64)]
      : List (Instr × DWord)).all
      (fun c => laneAccB (laneProbe (bregs [(8, c.2), (16, c.2)])) c.1) = true := by
  decide +kernel

theorem witness_LaneStores :
    ([(.st 0#3 15#4 28#7 8#7 .q, 0x2070#64), (.st 1#3 15#4 7#7 8#7 .b, 0xFFFF#64), (.stRel 15#4 7#7 true 8#5 3#5, 0x2000#64),
      (.stx 0#3 15#4 31#7 8#7 .d, 0x2078#64)] : List (Instr × DWord)).all
      (fun c => laneAccB (laneProbe (bregs [(8, c.2), (16, c.2)])) c.1) = true ∧
    ((laneProbe (fun l => { bregs [(8, 0x2078#64)] l with rsv := some ⟨0x2078, 0x2078, 8⟩ })).core 0).lane.rsv = some ⟨0x2078, 0x2078, 8⟩ := by
  decide +kernel

theorem witness_LaneAtomics :
    ([(.atomAdd 15#4 31#7 .ar 8#5 3#5, 0x207C#64), (.atomCas 15#4 6#7 .rlx 8#5 3#5, 0x2000#64)] : List (Instr × DWord)).all
      (fun c => laneAccB (laneProbe (bregs [(8, c.2), (16, c.2)])) c.1) = true := by
  decide +kernel

theorem witness_HomeBytes : 127 % 128 + 1 ≤ 128 ∧ 0 % 128 + 128 ≤ 128 := by decide

/-! ### Witnesses: the other instructions of the M class, transfers, calls -/

def readyAll (l : List (Instr × (Thread → Thread))) : Bool := l.all (fun c => readyB (probe c.1 c.2) c.1)
def laneReads (s : State) : Reads := (s.core 0).lane.reads 0 (s.coreCycle 0) (s.core 0).pts

theorem witness_SegmentOps :
    readyAll [(.pf 0#3 104#7, id), (.lea 0#3 62#7 8#7, id), (.lea 7#3 6#7 8#7, id), (.segq 7#3 63#7 3#2, id), (.segld 5#3 60#7, id)] = true ∧
    ((probe (.lea 0#3 62#7 8#7) id).viewer (ctxAt (probe (.lea 0#3 62#7 8#7) id)) (thAt (probe (.lea 0#3 62#7 8#7) id))).sRefuses
      (wantOf (.lea 0#3 62#7 8#7) 0 1 0 false false) = false := by decide +kernel

theorem witness_SegmentOps_lane : (laneProbe id).LaneRuns 0 (.pf 0#3 8#7) ∧ (laneProbe id).LaneRuns 0 (.lea 0#3 31#7 8#7) ∧
    (laneProbe id).LaneRuns 0 (.segq 7#3 31#7 3#2) ∧ (laneProbe id).LaneRuns 0 (.segld 5#3 28#7) :=
  ⟨lane_of (by decide +kernel), lane_of (by decide +kernel), lane_of (by decide +kernel), lane_of (by decide +kernel)⟩

theorem witness_BranchesAndJumps : Ready (probe (.bz 8#7 0x3FFFF#18) (regs [(8, 0#32)])) (.bz 8#7 0x3FFFF#18) ∧
    (∀ r pc, branchTo (.bz 8#7 0x3FFFF#18) r pc ≠ none) ∧ (laneProbe id).LaneRuns 0 (.bnz 8#7 1#18) ∧
    branchTo (.bnz 8#7 1#18) (laneReads (laneProbe id)) ((laneProbe id).core 0).lane.pc = some none :=
  ⟨ready_of (by decide +kernel), fun r pc => by simp [branchTo], lane_of (by decide +kernel), by decide +kernel⟩

/-- A thread with its stack pointer set. -/
def withSp (v : Word) (t : Thread) : Thread := { t with sp := v }
def pushB (s : State) (i : Instr) : Bool :=
  readyB s i && (callTo i ((thAt s).reads (ctxAt s)) (thAt s).pc).isSome &&
    reachB s (wantOf i 3 4 4 false true) (formAddr ((thAt s).segs.getD 3 0#128) 3 4 ((thAt s).seen (ctxAt s) 109).toNat (-4))

theorem witness_Calls : pushB (probe (.call 0x10#25) (withSp 4#32)) (.call 0x10#25) = true ∧
    pushB (probe (.callr 8#7) (withSp 0x1000#32)) (.callr 8#7) = true := by decide +kernel

theorem witness_Returns : readyB (probe .ret (withSp 0xFFC#32)) .ret = true ∧
    reachB (probe .ret (withSp 0xFFC#32)) (wantOf .ret 3 4 4 true false)
      (formAddr ((thAt (probe .ret (withSp 0xFFC#32))).segs.getD 3 0#128) 3 4 0xFFC 0) = true := by decide +kernel

def lanePushB (s : State) (i : Instr) : Bool :=
  let w := wantOf i 3 4 4 false true
  let f := formAddr ((s.core 0).lane.segs.getD 3 0#128) 3 4 (s.core 0).lane.sp.toNat (-4)
  laneB s i && (callTo i (laneReads s) (s.core 0).lane.pc).isSome && laneReachB s w f && inLineB (laneHit s w f) w
def lanePopB (s : State) : Bool :=
  let w := wantOf .ret 3 4 4 true false
  let f := formAddr ((s.core 0).lane.segs.getD 3 0#128) 3 4 (s.core 0).lane.sp.toNat 0
  laneB s .ret && laneReachB s w f && cleanB s w (laneHit s w f)

theorem witness_LaneCalls : lanePushB (laneProbe (fun l => { l with sp := 0x1000#32 })) (.call 0x10#25) = true ∧
    lanePushB (laneProbe (fun l => { l with sp := 4#32 })) (.callr 8#7) = true ∧
    lanePopB (laneProbe (fun l => { l with sp := 0xFFC#32 })) = true := by decide +kernel

theorem witness_ExitYieldWait : Ready (probe .exit id) .exit ∧ Ready (probe .yield id) .yield ∧
    Ready (probe (.waitf 9#12) id) (.waitf 9#12) :=
  ⟨ready_of (by decide +kernel), ready_of (by decide +kernel), ready_of (by decide +kernel)⟩

theorem witness_TrapInstructions : Ready (probe (.brk 0x123#18) id) (.brk 0x123#18) ∧ Ready (probe (.sys 5#9) id) (.sys 5#9) ∧
    soloB (probe .exit id) = true ∧ badMod 0xBE000000#32 = false ∧ badMod 0xF3FFFFFF#32 = true ∧
    (thAt (probe .exit id)).bind = none ∧ lastWord ((thAt (probe .exit id)).segs.getD 5 0#128) (thAt (probe .exit id)).pc = false ∧
    (laneProbe id).acting = .lane 0 :=
  ⟨ready_of (by decide +kernel), ready_of (by decide +kernel), by decide +kernel, by decide +kernel, by decide +kernel, by decide +kernel,
    by decide +kernel, by decide +kernel⟩

/-- The probe's crew as a user crew. -/
def asUser (s : State) : State := s.onCrew 0 0 (fun w => { w with super := false })

theorem witness_PrivilegeTraps : soloB (probe .wfi id) = true ∧ badBind .wfi (thAt (probe .wfi id)).bind = false ∧
    privOf .wfi = .b ∧ soloB (asUser (probe (.qret 6#7) id)) = true ∧
    badBind (.qret 6#7) (thAt (asUser (probe (.qret 6#7) id))).bind = false ∧ privOf (.qret 6#7) = .s ∧
    (crewAt (asUser (probe (.qret 6#7) id))).super = false := by decide +kernel

/-- A control store whose entry 3 has 2 operations. -/
def withMicro (s : State) : State := s.onCore 0 (fun c => { c with entries := c.entries.put 3 (0, 2) })
/-- A thread in a hold window. -/
def inWindow (t : Thread) : Thread := { t with win := some { first := 0#32, pos := 1, opened := 0 } }
def microB (s : State) (i : Instr) (n : Nat) : Bool :=
  readyB s i && (thAt s).mac.isNone && decide (((FMap.get (0, 0) (s.core 0).entries n).2 = 0) = false)

theorem witness_MacroCalls : microB (withMicro (probe (.mcall 8#7 9#7 3#7) id)) (.mcall 8#7 9#7 3#7) 3 = true ∧
    ((thAt (withMicro (probe (.mcall 8#7 9#7 3#7) id))).openWin 0).win = none ∧
    microB (withMicro (probe (.mcall 8#7 9#7 3#7) inWindow)) (.mcall 8#7 9#7 3#7) 3 = true ∧
    ((thAt (withMicro (probe (.mcall 8#7 9#7 3#7) inWindow))).openWin 0).win ≠ none ∧
    readyB (probe (.mcall 8#7 9#7 127#7) id) (.mcall 8#7 9#7 127#7) = true ∧
    (FMap.get (0, 0) ((probe (.mcall 8#7 9#7 127#7) id).core 0).entries 127).2 = 0 := by decide +kernel

/-! ### Witnesses: hints -/

theorem witness_HintInstructions : soloB (probe (.imm 77#26) id) = true ∧ isHint (.imm 77#26) = true ∧
    (thAt (probe (.imm 77#26) id)).mac = none ∧
    lastWord ((thAt (probe (.imm 77#26) id)).segs.getD 5 0#128) (thAt (probe (.imm 77#26) id)).pc = false ∧
    (hintForm (.imm 77#26) (thAt (probe (.imm 77#26) id))).isSome = true ∧
    soloB (probe (.live 2#2 1#24) inWindow) = true ∧ hintForm (.live 2#2 1#24) (thAt (probe (.live 2#2 1#24) inWindow)) = none ∧
    soloB (probe (.imm 77#26) (fun t => { t with pc := 0x3FF#32 })) = true ∧
    lastWord ((thAt (probe (.imm 77#26) id)).segs.getD 5 0#128) 0x3FF#32 = true := by decide +kernel

theorem witness_LaneHints : (laneProbe id).acting = .lane 0 ∧
    lastWord (((laneProbe id).core 0).lane.segs.getD 5 0#128) ((laneProbe id).core 0).lane.pc = false ∧
    ((laneProbe id).core 0).lane.bind = none := by decide +kernel

/-! ### Witnesses: fences, grants, barriers, joins, collectives -/

/-- A load of the probe's thread in flight. -/
def loadOp (id' dst : Nat) (v : Option Nat) : MemOp :=
  { id := id', core := 0, slot := 0, tid := 0, uid := (crewAt (probe .exit id)).uid, kind := .ld .w, space := 0, addr := 0x2000, n := 4,
    fault := 0x2000#48, page := none, flag := 3, dst := dst, parts := 1, data := 0, cmp := 0, cache := 0, scope := 0, pc := 0#32,
    detail := 0#32, value := v, poisoned := false, reply := none, held := false, heldSince := none, swept := [], pushes := [] }
def withOp (o : MemOp) (s : State) : State := { s with ops := [o] }

theorem witness_Fences : Ready (withOp (loadOp 7 7 none) (probe (.fence .sc 4#5) id)) (.fence .sc 4#5) ∧
    Ready (probe (.fence .acq 0#5) id) (.fence .acq 0#5) ∧ (laneProbe id).LaneRuns 0 (.fence .ar 4#5) :=
  ⟨ready_of (by decide +kernel), ready_of (by decide +kernel), lane_of (by decide +kernel)⟩

/-- The probe's crew changed. -/
def crewed (f : Crew → Crew) (s : State) : State := s.onCrew 0 0 f

theorem witness_Grants :
    readyAll [(.racq 8#7, id), (.racq 8#7, regs [(8, 0x00020000#32)]), (.racq 8#7, regs [(8, 0x80000000#32)]), (.rrel 8#7, id)] = true ∧
    (crewAt (probe (.racq 8#7) id)).grant.isZero = true ∧ (crewAt (probe (.racq 8#7) id)).request = none ∧
    (probe (.racq 8#7) id).hopeless 0 (crewAt (probe (.racq 8#7) id)) 0x00020000#32 = false ∧
    readyB (crewed (fun w => { w with request := some 0x00020000#32 }) (probe (.racq 8#7) (regs [(8, 0x00020000#32)]))) (.racq 8#7) = true ∧
    readyB (crewed (fun w => { w with grant := ⟨4, 0, 0⟩ }) (probe (.rrel 8#7) (regs [(8, 0x00020000#32)]))) (.rrel 8#7) = true ∧
    (probe (.rrel 8#7) id).bulkBusy 0 (crewAt (probe (.rrel 8#7) id)).uid = false ∧
    reqRegs 0x00020000#32 = 2 ∧ reqRegs 0x00050000#32 = 5 := by decide +kernel

/-- A barrier of the probe's core. -/
def barred (b : Barrier) (s : State) : State := s.onCore 0 (fun c => { c with bars := c.bars.put 5 b })

theorem witness_Barriers :
    readyAll [(.barSet 8#7 5#7, id), (.barSet 8#7 5#7, regs [(8, 1#32)]), (.barArrive 5#7, id), (.barWait 5#7, id), (.barSync 127#7, id),
      (.barWait 5#7, fun t => { t with arrival := some (5, 1#16) })] = true ∧
    readyB (barred ⟨0#16, 2, true, 1⟩ (probe (.barSync 5#7) id)) (.barSync 5#7) = true ∧
    ((barred ⟨0#16, 2, true, 1⟩ (probe (.barSync 5#7) id)).barrier 0 5).armed = true ∧
    min (((barred ⟨0#16, 2, true, 1⟩ (probe (.barSync 5#7) id)).barrier 0 5).arrived + 1) 4095 =
      ((barred ⟨0#16, 2, true, 1⟩ (probe (.barSync 5#7) id)).barrier 0 5).expected ∧
    readyB (barred ⟨0#16, 2, true, 1⟩ (probe (.barSet 8#7 5#7) (regs [(8, 1#32)]))) (.barSet 8#7 5#7) = true ∧
    readyB (barred ⟨0#16, 9, true, 0⟩ (probe (.barSet 8#7 5#7) (regs [(8, 1#32)]))) (.barSet 8#7 5#7) = true := by decide +kernel

/-- A join and a convergence register of the probe's crew, set and open, with member 0. -/
def joined (s : State) : State := crewed (fun w => { w with
  rms := w.rms.put 1 { (w.rm 1) with isSet := true, isOpen := true, base := 0, mask := 1#32, pending := 1#32 }
  cvs := w.cvs.put 2 { (w.cv 2) with isSet := true, isOpen := false, base := 0, mask := 1#32 } }) s

theorem witness_Joins :
    readyAll [(.rmset 7#7 8#7 1#3, regs [(8, 1#32)]), (.rmset 7#7 8#7 1#3, id), (.cvset 7#7 8#7 15#4, regs [(8, 1#32)]),
      (.rjarrive 7#3, id), (.rjwait 7#3, id), (.rjdrop 7#3, id)] = true ∧
    invalidSet (crewAt (probe .exit id)).size 0#32 1#32 = false ∧
    readyB (joined (probe (.rjwait 1#3) id)) (.rjwait 1#3) = true ∧ readyB (joined (probe (.rjdrop 1#3) id)) (.rjdrop 1#3) = true ∧
    readyB (joined (probe (.rmset 7#7 8#7 1#3) (regs [(8, 1#32)]))) (.rmset 7#7 8#7 1#3) = true ∧
    ((crewAt (joined (probe (.rjwait 1#3) id))).rm 1).isOpen = true ∧ bit ((crewAt (joined (probe (.rjwait 1#3) id))).rm 1).mask.toNat 0 = true
    := by decide +kernel

theorem witness_CollectivesSign :
    readyB (joined (probe (.shfl .idx 7#7 8#7 2#4) id)) (.shfl .idx 7#7 8#7 2#4) = true ∧
    readyB (joined (probe (.vote .ballot 7#7 8#7 2#4) id)) (.vote .ballot 7#7 8#7 2#4) = true ∧
    readyB (joined (probe (.scan .addF 7#7 8#7 2#4) id)) (.scan .addF 7#7 8#7 2#4) = true ∧
    readyB (joined (probe (.red .or 7#7 8#7 15#4) id)) (.red .or 7#7 8#7 15#4) = true ∧
    readyB (joined (probe (.mma 2#4 104#7 2#4) id)) (.mma 2#4 104#7 2#4) = true ∧
    ((crewAt (joined (probe .exit id))).cv 2).isSet = true ∧ ((crewAt (joined (probe .exit id))).cv 15).isSet = false := by decide +kernel

/-- The probe's crew with its thread signed in a round of convergence register 2. -/
def signed (op sub : Nat) (p q : Word) : Crew :=
  let w := crewAt (joined (probe .exit id))
  { w with
    threads := w.threads.modify 0 (fun t => { t with life := .issuing 2 7 15 })
    cvs := w.cvs.put 2 { (w.cv 2) with isOpen := true, op := op, sub := sub, signed := 1#32, args := [(0, ⟨p, q, 0#32, 0#32, none⟩)] } }

/-- One signer: its own value, the vote of one, the sum of one. -/
theorem witness_CollectiveResults :
    ([(0x30, 0, 9#32), (0x30, 3, 9#32), (0x31, 0, 1#32), (0x31, 1, 1#32), (0x32, 0, 9#32), (0x33, 1, 9#32)] : List (Nat × Nat × Word)).all
      (fun c => ((signed c.1 c.2.1 0#32 9#32).threads.find 0).any (fun t => decide (t.signs 2 = some (7, 15))) &&
        (((signed c.1 c.2.1 0#32 9#32).cv 2).args.find 0).isSome &&
        ((((signed c.1 c.2.1 0#32 9#32).closeCv 2).threads.find 0).any (fun t => decide (t.reg 7 = c.2.2)))) = true := by decide +kernel

/-! ### Witnesses: the matrix unit, pushes -/

def viewOf (s : State) : Viewer := s.viewer (ctxAt s) (thAt s)
def accldB (s : State) (i : Instr) (wr : Bool) (p q : Opnd) : Bool :=
  let f := formAddr ((viewOf s).seg 0) 0 512 ((thAt s).readP (ctxAt s) p).toNat 0
  let o := ((thAt s).readW (ctxAt s) q).toNat
  readyB s i && !(viewOf s).sRefuses (accWant wr) && f.inside && decide (f.addr % 512 = 0) &&
    decide (o + 512 ≤ segLimit ((viewOf s).seg 2)) && decide (o % 512 = 0) &&
    decide (segBase ((viewOf s).seg 2) + o + 512 ≤ Config.accBytes) && isOk (s.checkPage (viewOf s) (accWant wr) f.addr) && !s.matFull 0
def mmzB (s : State) (i : Instr) (p : Opnd) : Bool :=
  let t := ((thAt s).readW (ctxAt s) p).toNat
  readyB s i && decide (t + 65536 ≤ segLimit ((viewOf s).seg 2)) && decide (t % 16384 = 0) &&
    decide (segBase ((viewOf s).seg 2) + t + 65536 ≤ Config.accBytes) && !s.matFull 0

theorem witness_MatrixInstructions :
    readyAll [(.thdl 8#7 31#5, id), (.thfree 31#5, id)] = true ∧
    badHandle ((thAt (probe .exit (regs [(9, 128#32)]))).readQ (ctxAt (probe .exit id)) 8#7) = true ∧
    badHandle ((thAt (probe .exit (regs [(10, 128#32), (11, 128#32)]))).readQ (ctxAt (probe .exit id)) 8#7) = false ∧
    mmzB (probe (.mmz 1#4 8#7) (regs [(8, 0x30000#32)])) (.mmz 1#4 8#7) 8#7 = true ∧
    accldB (probe (.accld 3#4 8#7 10#7) (regs [(8, 0x3FFFFE00#32), (10, 0x3FE00#32)])) (.accld 3#4 8#7 10#7) false 8#7 10#7 = true ∧
    accldB (probe (.accst 3#4 8#7 10#7) (regs [(8, 0x2000#32)])) (.accst 3#4 8#7 10#7) true 8#7 10#7 = true := by decide +kernel

/-- Group 9 of isle 0 with cores 0 and 3. -/
def grouped (s : State) : State := s.onIsle 0 (fun x => { x with groups := x.groups.put 9 9#384 })
def pushFormB (s : State) (i : Instr) : Bool :=
  readyB s i && (match pushForm i with
    | some f =>
      let w := wantOf i 0 f.n f.size f.data.isNone f.data.isSome
      reachB s w ((thAt s).form (ctxAt s) w f.q) && ((hitAt s w ((thAt s).form (ctxAt s) w f.q)).pageFor false w).isSome
    | none => false)

theorem witness_PushesAccepted :
    ([.pstWGroup 1#4 5#7 8#7 9#5, .pstDGroup 1#4 4#7 8#7 9#5, .pstQGroup 1#4 4#7 8#7 9#5, .ppushGroup 0#4 8#7 9#5, .pstWCore 1#4 5#7 8#7 6#5,
      .pstDCore 1#4 4#7 8#7 6#5, .pstQCore 1#4 4#7 8#7 6#5, .ppushCore 0#4 8#7 6#5] : List Instr).all
      (fun i => pushFormB (grouped (probe i (regs [(8, 0x2000#32), (6, 383#32)]))) i) = true ∧
    (grouped (probe .exit id)).groupCores ((grouped (probe .exit id)).isleNo 0) 9 = [0, 3] ∧
    (probe .exit id).groupCores ((probe .exit id).isleNo 0) 9 = [] ∧ 383 < Config.cores ∧ ¬384 < Config.cores := by decide +kernel

/-! ### Witnesses: copies, the fabric -/

/-- Memory written before an instruction. -/
def stored (l : List (Nat × Nat × Nat)) (s : State) : State :=
  { s with mem := l.foldl (fun m x => m.writeNat x.1 x.2.1 x.2.2) s.mem }

/-- A plan at 0x2000: four words from 0x3000 to offset 0x100 of the scratchpad; or a multicast to group 9. -/
def plan (mcast : Bool) : List (Nat × Nat × Nat) :=
  [(0x2000, 8, 0x3000), (0x2008, 4, 0x100), (0x2010, 4, if mcast then 0x9020 else 0x1020), (0x2018, 4, 9 * 2 ^ 16),
   (0x2020, 4, 4), (0x2040, 4, 4), (0x2060, 4, 4)]

/-- What CopyInstructions supposes of a `tcopy [gbl:v8], [gbl:v10]`. -/
def tcopyB (s : State) (full : Bool) : Bool :=
  let i := Instr.tcopy 1#4 8#7 10#7
  let c := ctxAt s
  let v := viewOf s
  let pva := ((thAt s).readP c 8#7).toNat % 2 ^ 48
  readyB s i && !v.sRefuses (wantOf i 0 128 0 true false) && !(s.opened 0 0 0).blocksWait c v.isle 64 [pva, pva + 64] && decide (s.loadFull 0 = full) &&
    (match (s.opened 0 0 0).readPlan v i pva with
     | .error _ => false
     | .ok (s1, raw) =>
       let pl := planOf raw
       decide (pl.reason (bits raw 255 224) (s.groupCores v.isle pl.entry).isEmpty = none) &&
       (match s1.checkSide v i pl.ssp pl.sbase (2 ^ pl.esz) (fun d => d.ss) pl.dims false,
          (if pl.mcast then checkMcast v i pl else s1.checkSide v i pl.dsp pl.dbase (2 ^ pl.esz) (fun d => d.ds) pl.dims true),
          s.checkCounter v i (((thAt s).readP c 10#7).toNat % 2 ^ 48) true with
        | .ok _, .ok _, .ok _ => true
        | _, _, _ => false) &&
       (!full || (match s.spillSlot c (thAt s).spillNext with
         | some j => (match s1.checkSlot v i j with
           | .ok hs => hs.all (fun y => !(s.opened 0 0 0).mustWait c y.1.pa y.2)
           | .error _ => false)
         | none => false)))

/-- A copy of the probe's thread. -/
def copyAt (n : Nat) (stage : CopyStage) : Copy :=
  { id := n, core := 0, slot := 0, tid := 0, uid := (crewAt (probe .exit id)).uid, isle := 0, flag := 1, esz := 2, ssp := 0, dsp := 1,
    sbase := 0x3000, dbase := 0x100, dims := [⟨4, 4, 4⟩], inc := 1, scope := 3, counter := 0x2100, cpage := none, spages := [],
    dpages := [], mcast := false, key := 0, permit := 0, recv := [], stage := stage, next := 0, buf := [], ring := [],
    check := 0#32 }
def manyCopies (s : State) : State := { s with copies := (List.range 16).map (fun n => copyAt (1000 + n) .queued) }
def tcopyProbe : State := probe (.tcopy 1#4 8#7 10#7) (regs [(8, 0x2000#32), (10, 0x2100#32)])

theorem witness_CopyInstructions_tcopy : tcopyB (stored (plan false) tcopyProbe) false = true ∧
    tcopyB (grouped (stored (plan true) tcopyProbe)) false = true ∧
    tcopyB (manyCopies (stored (plan false) tcopyProbe)) true = true := by decide +kernel

/-- What CopyInstructions supposes of a `cwait.die [gbl:v8], v10:v11`; whether the counter has reached the target. -/
def cwaitB (s : State) (met : Bool) : Bool :=
  let i := Instr.cwait 8#7 10#7 3#5
  let w := wantOf i 0 16 0 true false
  let f := (thAt s).form (ctxAt s) w 8#7
  readyB s i && reachB s w f && !s.mustWait (ctxAt s) (hitAt s w f).pa 16 &&
    (match (hitAt s w f).pageFor false w with
     | none => false
     | some t =>
       let r := ((s.opened 0 0 0).noteHit (viewOf s) (hitAt s w f)).readHome 0 t.mode t.lease (hitAt s w f).pa 8
       !r.2.2 && decide (counterReached r.2.1 (bits ((thAt s).readP (ctxAt s) 10#7).toNat 62 0) = met))

theorem witness_CopyInstructions :
    readyAll [(.tseal 8#7, fun t => { t with unsealed := [1000] }), (.twait 8#7, id),
      (.twait 8#7, fun t => { t with batches := [⟨0#32, [1000]⟩] }), (.permitArm 8#7 31#5, regs [(9, 0xFF#32)]), (.permitDrop 31#5, id)] = true ∧
    (thAt (probe (.twait 8#7) id)).batchDone 0#32 = true ∧
    (thAt (probe (.twait 8#7) (fun t => { t with batches := [⟨0#32, [1000]⟩] }))).batchDone 0#32 = false ∧
    cwaitB (probe (.cwait 8#7 10#7 3#5) (regs [(8, 0x2100#32)])) true = true ∧
    cwaitB (probe (.cwait 8#7 10#7 3#5) (regs [(8, 0x2100#32), (10, 1#32)])) false = true ∧
    256 * (0xFF + 1) ≤ segLimit ((thAt (probe (.permitArm 8#7 31#5) id)).segs.getD 1 0#128) := by decide +kernel

/-- What FabricAccepted supposes of a fabric operation `[gbl:v8], [gbl:v10]`. -/
def fabB (s : State) (i : Instr) : Bool :=
  match fabForm i with
  | none => false
  | some (kind, _, p, q) =>
    let v := viewOf s
    let dva := ((thAt s).readP (ctxAt s) p).toNat % 2 ^ 48
    readyB s i && !v.sRefuses (wantOf i 0 64 0 true false) && !(s.opened 0 0 0).blocksWait (ctxAt s) v.isle 64 [dva] &&
      isOk (s.checkFabCounter v i (((thAt s).readP (ctxAt s) q).toNat % 2 ^ 48)) &&
      (match (s.opened 0 0 0).readBlock v i dva 64 with
       | .error _ => false
       | .ok (s1, raw) =>
         let d := fabDescOf raw
         let al := if kind = .atom then d.len else 16
         decide (s1.fabReason v.isle kind raw = none) &&
           isOk (s1.checkExtent v i d.laddr d.len (decide (kind = .get ∨ kind = .atom)) al) &&
           (decide (kind ≠ .red) || isOk (s1.checkExtent v i d.raddr d.len true al)) && (checkRemote v i kind d al).isEmpty)

/-- A descriptor at 0x2000: `n` bytes from 0x3000, the remote address 0x4000, group 3. -/
def fabDesc (n : Nat) : List (Nat × Nat × Nat) := [(0x2000, 8, 0x3000), (0x2008, 8, 0x4000), (0x2010, 4, n), (0x2014, 2, 3)]
/-- Group 3 of isle 0's fabric group table: isle 0 of package 0 alone. -/
def inGroup (s : State) : State := s.onIsle 0 (fun x => { x with fabGroups := x.fabGroups.put 96 1#64 })
def fabProbe (i : Instr) (n : Nat) : State := inGroup (stored (fabDesc n) (probe i (regs [(8, 0x2000#32), (10, 0x2100#32)])))

theorem witness_FabricAccepted :
    ([(.fabPut 1#4 8#7 10#7, 4096), (.fabGet 1#4 8#7 10#7, 16), (.fabAtom 1#4 8#7 10#7, 4), (.fabRed 1#4 8#7 10#7, 16),
      (.fabMcast 1#4 8#7 10#7, 32)] : List (Instr × Nat)).all (fun x => fabB (fabProbe x.1 x.2) x.1) = true := by decide +kernel

/-! ### Witnesses: tasks and futures -/

/-- What Spawns supposes of a spawn whose entry `q` names: one that fits what the core offers, with or without a cell. -/
def spawnB (s : State) (i : Instr) (p : Option Opnd) (q : Opnd) : Bool :=
  let c := ctxAt s
  let v := viewOf s
  let ea := ((thAt s).readP c q).toNat % 2 ^ 48
  let w := crewAt s
  let s0 := s.opened 0 0 0
  let dom := s.domain v.isle 0
  let id' : Word := BitVec.ofNat 32 (v.isle * 2 ^ 27 + dom.serial)
  readyB s i && !v.sRefuses (wantOf i 0 32 0 true false) && s0.released c 3 && !s0.blocksWait c v.isle 32 [ea] &&
    decide (v.isle < Config.isles) && decide (dom.serial < 2 ^ 27) && (s.task id').isNone &&
    (match s0.readBlock v i ea 32, s.task w.task, s.freeUnit v.isle with
     | .ok (s1, raw), some t0, some k =>
       let e := entryOf raw
       let hd : DWord := BitVec.ofNat 64 (id'.toNat % 2 ^ 16 * 2 ^ 48 + e.cellVa)
       let units : List Nat := s.unitPa v.isle k ::
         (t0.tcb.toList ++ t0.overs ++ ((s.takeUnit v.isle k).freeUnit t0.isle).toList).map (fun n => s.unitPa t0.isle n)
       !s1.blocksWait c v.isle 64 [e.declVa, e.cellVa] &&
         decide (e.reason p.isSome (decide (0 < w.accLen + w.grant.acc)) = none) &&
         (p.isNone || (t0.slotFor hd).isSome || ((s.takeUnit v.isle k).freeUnit t0.isle).isSome) &&
         isOk (if e.decl ≠ 0 then s1.readDecl v i e.declVa else .ok (s1, (thAt s).decl.toNat)) &&
         (match (if p.isSome = true ∧ e.cell ≠ 0 then (s1.checkCell v i e.cellVa true).map some else .ok none) with
          | .error _ => false
          | .ok none => p.isNone
          | .ok (some h) =>
            let r := s1.readCell 0 (cellOf h)
            p.isSome && units.all (fun m => !overlap h.pa 32 m 256) && !r.2.2 &&
              !(decide (cState r.2.1 = cEmpty ∨ cState r.2.1 = cOrphaned) && decide (cOwner r.2.1 ≠ 0)))
     | _, _, _ => false)

/-- An entry at 0x2000 with one crew of one thread of 64 registers, its arguments at 0x2200, with a cell in front of them or none. -/
def entryAt (cell : Nat) : List (Nat × Nat × Nat) :=
  [(0x2000, 4, 0x100), (0x2004, 4, 7 * 2 ^ 27), (0x2010, 4, 1), (0x2016, 6, 0x2200), (0x201C, 2, cell)]

theorem witness_Spawns :
    spawnB (stored (entryAt 0xFFFF) (probe (.fspawn 1#4 10#7 8#7) (regs [(8, 0x2000#32)]))) (.fspawn 1#4 10#7 8#7) (some 10#7) 8#7 = true ∧
    spawnB (stored (entryAt 0) (probe (.tspawn 1#4 8#7) (regs [(8, 0x2000#32)]))) (.tspawn 1#4 8#7) none 8#7 = true := by decide +kernel

/-- The probe with a cell at 0x2200 that its task owns, in a state with a count, and the task holding its handle `refs` times;
the handle in v8:v9. -/
def celled (i : Instr) (st count : Nat) (holds : Bool) : State :=
  let s := probe i id
  let id' := (crewAt s).task
  let hd := handleOf id' 0x2200
  let s1 := stored [(0x2200, 32, putState (putCount (newCell id') count) st)] (probe i (regs [(8, lo32 hd), (9, hi32 hd), (12, 5#32)]))
  if holds then (s1.addRef id' hd).getD s1 else s1

/-- What Futures supposes of a future instruction on the cell, and what it finds there. -/
def futureB (s : State) (i : Instr) (wr : Bool) (st count : Nat) (holds : Bool) : Bool :=
  let w := wantOf i 0 32 0 true wr
  let f := (thAt s).form (ctxAt s) w 8#7
  let hd := (thAt s).readP (ctxAt s) 8#7
  let r := ((s.opened 0 0 0).noteHit (viewOf s) (hitAt s w f)).readCell 0 (cellOf (hitAt s w f))
  readyB s i && reachB s w f && !s.mustWait (ctxAt s) (hitAt s w f).pa 32 && !r.2.2 && !staleAt hd r.2.1 &&
    decide (cState r.2.1 = st) && decide (cCount r.2.1 = count) &&
    decide (((s.taskOf 0 0).map (fun y => y.holds hd)).getD false = holds)

theorem witness_Futures :
    ([(.fstate 7#7 8#7, false, cEmpty, 1, true), (.fref 1#4 8#7, true, cEmpty, 2 ^ 24 - 2, true), (.fdrop 1#4 8#7, true, cEmpty, 2, true),
      (.fdrop 1#4 8#7, true, cFull, 0, true), (.fdrop 1#4 8#7, true, cEmpty, 1, true), (.fget 10#7 8#7 3#5, false, cFull, 1, true),
      (.fget 10#7 8#7 2#5, false, cEmpty, 1, true), (.fput 1#4 12#7 8#7 3#5, true, cEmpty, 1, false),
      (.fput 1#4 12#7 8#7 4#5, true, cOrphaned, 0, true)] : List (Instr × Bool × Nat × Nat × Bool)).all
      (fun x => futureB (celled x.1 x.2.2.1 x.2.2.2.1 x.2.2.2.2) x.1 x.2.1 x.2.2.1 x.2.2.2.1 x.2.2.2.2) = true ∧
    (celled (.fput 1#4 12#7 8#7 4#5) 0 1 false).released (ctxAt (celled (.fput 1#4 12#7 8#7 4#5) 0 1 false)) 4 = true ∧
    ((celled (.fref 1#4 8#7) 0 1 true).addRef (crewAt (probe .exit id)).task (handleOf (crewAt (probe .exit id)).task 0x2200)).isSome
      = true := by decide +kernel

/-- The probe's task and piece: the piece at 3 of 10 with grain 4, the task stopping or not. -/
def ranged (stopping : Bool) (s : State) : State := s.onDomain 0 0 (fun d =>
  { d with
    tasks := d.tasks.map (fun t => { t with entry := { t.entry with grain := 4 }, stopping := stopping })
    pieces := d.pieces.map (fun p => (p.1, { p.2 with cur := 3, hi := 10 })) })
def tdeclB (s : State) : Bool :=
  readyB s (.tdecl 8#7) && !(viewOf s).sRefuses (wantOf (.tdecl 8#7) 0 64 0 true false) && !(s.opened 0 0 0).blocksWait (ctxAt s) (viewOf s).isle 64 [0x2000] &&
    isOk ((s.opened 0 0 0).readDecl (viewOf s) (.tdecl 8#7) (((thAt s).readP (ctxAt s) 8#7).toNat % 2 ^ 48))

theorem witness_TaskInstructions :
    tdeclB (stored [(0x2000, 8, 0x3000)] (probe (.tdecl 8#7) (regs [(8, 0x2000#32)]))) = true ∧
    readyAll [(.rnext 6#7, id), (.tend, id), (.fpoint, id), (.fguard, fun t => { t with guard := 14 }),
      (.fguard, fun t => { t with guard := 15 }), (.fend, fun t => { t with guard := 1 }), (.fend, id)] = true ∧
    ((ranged false (probe (.rnext 6#7) id)).task (crewAt (probe .exit id)).task).isSome = true ∧
    (((ranged false (probe (.rnext 6#7) id)).domain (crewAt (probe .exit id)).isle (dieOfCore 0)).pieces.find (crewAt (probe .exit id)).piece).isSome = true ∧
    (probe (.rnext 6#7) id).stoppingCrew (crewAt (probe .exit id)) = false ∧
    (ranged true (probe (.rnext 6#7) id)).stoppingCrew (crewAt (probe .exit id)) = true ∧
    readyB (ranged true (probe (.rnext 6#7) id)) (.rnext 6#7) = true := by decide +kernel

/-! ### Witnesses: control registers, supervision -/

/-- The lowest and the highest number of each part of the map (R245), and a number between two parts. -/
theorem witness_ControlAccess :
    ([0, 4].all (fun n => decide (ctlWho n = some .any))) = true ∧
    ([0x40, 0x4E, 0x100, 0x17F, 0x180, 0x1EB].all (fun n => decide (ctlWho n = some .super))) = true ∧
    ([0x80, 0x90].all (fun n => decide (ctlWho n = some .lane))) = true ∧ ([0x91, 0x94].all (fun n => decide (ctlWho n = some .laneM))) = true ∧
    ([5, 0x3F, 0x4F, 0x7F, 0x95, 0xFF, 0x1EC, 0x1FF].all (fun n => decide (ctlWho n = none))) = true ∧
    readyAll [(.ctlr 7#7 4#9, id), (.ctlw 8#7 0x40#9, id), (.ctlr 7#7 0x1FF#9, id), (.ctlw 8#7 0x80#9, id)] = true ∧
    soloB (asUser (probe (.ctlr 7#7 0x40#9) id)) = true ∧ (crewAt (asUser (probe (.ctlr 7#7 0x40#9) id))).super = false := by decide +kernel

/-- The end of a cycle in which one write to a control register has been noted. -/
def noted (num : Nat) (th : Option (Nat × Nat × Nat)) : State :=
  { probe .exit id with agenda := [.tick 4], ctlWrites := [{ core := 0, thread := th, num := num, val := 77#64 }] }

theorem witness_ControlAccess_end :
    ([(0x40, none), (0x87, none), (0, some (0, (crewAt (probe .exit id)).uid, 0)), (1, some (0, (crewAt (probe .exit id)).uid, 0))]
      : List (Nat × Option (Nat × Nat × Nat))).all (fun x => decide ((noted x.1 x.2).agenda = [.tick 4]) &&
        (noted x.1 x.2).ctlWrites.length == 1 && (match step (noted x.1 x.2) with
          | .next u => decide (u.ctlWrites = []) && decide (u.cycle = 1)
          | _ => false)) = true ∧
    (match step (noted 0x40 none) with
     | .next u => decide ((u.core 0).ctl.wdlimit = 77#32)
     | _ => false) = true ∧
    (match step (noted 0 (some (0, (crewAt (probe .exit id)).uid, 0))) with
     | .next u => decide ((u.crew 0 0).map (fun w => w.patience) = some 77)
     | _ => false) = true := by
  refine ⟨by decide +kernel, ?_, ?_⟩ <;> decide +kernel

theorem witness_ControlAccess_lane : (laneProbe id).LaneRuns 0 (.ctlr 7#7 0x80#9) ∧
    ctlLane (.ctlr 7#7 0x80#9) 0x80 ((laneProbe id).core 0).lane = none ∧ (laneProbe id).LaneRuns 0 (.ctlw 7#7 0x91#9) ∧
    ctlLane (.ctlw 7#7 0x91#9) 0x91 ((laneProbe id).core 0).lane = some ⟨causePriv, wordOf (.ctlw 7#7 0x91#9), 0⟩ ∧
    ctlLane (.ctlw 7#7 0x91#9) 0x91 ((laneProbe (fun l => { l with mode := .m })).core 0).lane = none :=
  ⟨lane_of (by decide +kernel), by decide +kernel, lane_of (by decide +kernel), by decide +kernel, by decide +kernel⟩

/-- What the statements suppose of an mload of entry 5 from `a`, in the state where it takes effect. -/
def mloadB (s : State) (v : Viewer) (i : Instr) (a : Nat) : Bool :=
  match s.checkBlock v (wantOf i 0 4 4 true false) (formAddr (v.seg 0) 0 4 a 0) 4 4 with
  | .error _ => false
  | .ok h0 =>
    let header := (State.readHits 0 h0 s).2
    let n := 4 + 4 * bits header 17 12
    !s.hitsBusy h0 && (s.poisonIn h0).isNone &&
      (match s.checkBlock v (wantOf i 0 4 4 true false) (formAddr (v.seg 0) 0 n a 0) n 4 with
       | .error _ => false
       | .ok hits =>
         let y := (State.readHits 0 hits (s.noteHits v hits)).2
         !s.hitsBusy hits && (s.poisonIn hits).isNone && !s.badMicro 0 5#32 header (microProgram header y))

/-- A microprogram of one `add v7, v7, v7` for the control store's word 9, at 0x2000. -/
def microAt : List (Nat × Nat × Nat) := [(0x2000, 4, 9 + 4096), (0x2004, 4, 0x0001C387)]

/-- The block of an image that the statements suppose to be reached. -/
def imageHits (s : State) (v : Viewer) (i : Instr) (va n : Nat) (wr : Bool) : List (Hit × Nat) :=
  okOf [] (s.checkBlock v (imageWant i 256 wr) (imageForm v va n) n 256)
def imageB (s : State) (v : Viewer) (i : Instr) (va n : Nat) (wr : Bool) : Bool :=
  let l := imageHits s v i va n wr
  isOk (s.checkBlock v (imageWant i 256 wr) (imageForm v va n) n 256) && l.all (fun x => decide (x.1.pa < hbmEnd)) && !s.hitsBusy l &&
    decide ((l.map (fun x => lineOf x.1.pa)).Nodup) && l.all (fun x => decide (x.1.pa % 128 = x.1.addr % 128))

/-- What the statements suppose of a csave of core 0's crew in slot 0 that has stopped, with the image at 0x500100. -/
def csaveB (s : State) (v : Viewer) (i : Instr) : Bool :=
  let y := crewAt s
  (s.crew 0 0).isSome && bit (s.core 0).ctl.pready.toNat 0 && s.saveReady 0 y && !s.sharesAcc 0 0 y &&
    imageB s v i 0x500100 (imageLayout y.size (s.savedRanges 0 0 y) (4096 * (y.accLen + y.grant.acc))).2.2 true &&
    decide ((s.core 0).ringCount = 0) && y.threads.all (fun t => match t.2.parkOf with
      | some (.future _) => false
      | _ => true) && decide ((FMap.keys y.threads).Nodup) && (FMap.keys y.threads).all (fun t => decide (t < y.size)) &&
    decide (y.size ≤ 1024 ∧ y.nbase ≤ 64 ∧ y.grant.regs ≤ 4)
/-- A kernel segment of 1 MiB (R22), for images. -/
def wideSegs (l : List (BitVec 128)) : List (BitVec 128) := setAt l 6 (forceSeg 6 (mkSeg false false true true 0x100000 0x500000))
def wide (t : Thread) : Thread := { t with segs := wideSegs t.segs }
def wideView : Viewer := viewOf (probe .exit wide)
/-- The probe's crew, without accumulator memory, has stopped and may be saved. -/
def saveable (s : State) : State :=
  { (s.onCrew 0 0 (fun w => { w with preempt := some 0, shape := BitVec.ofNat 32 (2 ^ 31 + 7 * 2 ^ 27), accLen := 0, spadLen := 0, threads := w.threads.mapVal (fun _ t => { t with
      life := .trapped
      trap := some { cause := causePreempt, tpc := 0#32, rpc := 0#32, fault := 0#48, detail := 0#32, win := none, record := .never,
                     mark := 1, since := none } }) })).onCore 0 (fun c => { c with ctl := { c.ctl with pready := 1#32 } }) with
    acting := s.acting }

/-- What the statements suppose of a crestore of the image at 0x500100 to slot `k` of core 0: the status it ends with. -/
def crestoreIs (s : State) (v : Viewer) (i : Instr) (k : Nat) : Option Nat :=
  let va := 0x500100
  let l0 := imageHits s v i va 64 false
  let n := max (s.getVa 0 l0 (va + 28) 4) 64
  let l := imageHits s v i va n false
  let word (o : Nat) : Nat := s.getVa 0 l (va + o) 4
  if imageB s v i va 64 false && (s.poisonIn l0).isNone && imageB s v i va n false && (s.poisonIn l).isNone &&
      imageB s v i va 4 true then
    match s.savedFor v.isle (word 8) (s.getVa 0 l (va + 32) 6) va with
    | none => some 11
    | some y =>
      let z := s.crewOfImage 0 l va y
      if z.badHeader y.kgo word then some 11
      else if bit (word 12) 0 = true ∧ word 8 / 32 ≠ 0 then some 10
      else if (s.crew 0 k).isSome || ((s.core 0).returned.find k).isSome || (s.roomFor 0 z).isNone then some 9 else some 8
  else none
/-- An image at 0x500100 of a launched kernel's crew of one thread with 64 registers, saved from core `k`'s slot 5. -/
def imageAt (k flags : Nat) : List (Nat × Nat × Nat) :=
  [(0x500104, 4, 7 * 2 ^ 27), (0x500108, 4, 32 * k + 5), (0x50010C, 4, flags), (0x500118, 4, 1), (0x50011C, 4, 7168),
   (0x500128, 4, 6912), (0x50012C, 4, 7168), (0x500130, 4, 64)]
def saving (k : Nat) (s : State) : State := { s with
  saved := [{ uid := 50, isle := 0, task := 0#32, piece := 0, crewId := 32 * k + 5, image := 0x500100, stack := none, kgo := true }] }

def scgsetB (s : State) (i : Instr) (a : Opnd) : Bool :=
  let w := wantOf i 0 64 0 true false
  let f := (thAt s).form (ctxAt s) w a
  let h := hitAt s w f
  let t := h.page.getD (mPage h.pa)
  readyB s i && reachB s w f && s.settled (ctxAt s) && !s.mustWait (ctxAt s) h.pa 64 && !(((s.opened 0 0 0).noteHit (viewOf s) h).readHome 0 t.mode t.lease h.pa 64).2.2

theorem witness_SupervisorInstructions :
    readyAll [(.qret 8#7, id), (.preempt 8#7, id), (.tmove 8#7 9#7, id), (.tlbinv 8#7 3#2, id), (.atp 10#7 8#7, id), (.csave 8#7 7#7, wide),
      (.crestore 8#7 7#7, wide)] = true ∧
    (probe (.qret 8#7) id).released (ctxAt (probe (.qret 8#7) id)) 3 = true ∧ (probe (.tlbinv 8#7 3#2) id).settled (ctxAt (probe .exit id)) = true ∧
    scgsetB (probe (.scgset 8#7 31#5) (regs [(8, 0x2000#32)])) (.scgset 8#7 31#5) 8#7 = true := by decide +kernel

theorem witness_SupervisorInstructions_mload :
    readyB (stored microAt (probe (.mload 7#7 8#7) (regs [(7, 5#32), (8, 0x2000#32)]))) (.mload 7#7 8#7) = true ∧
    (viewOf (probe (.mload 7#7 8#7) (regs [(8, 0x2000#32)]))).sRefuses (wantOf (.mload 7#7 8#7) 0 4 4 true false) = false ∧
    mloadB ((stored microAt (probe .exit id)).opened 0 0 0) (viewOf (probe .exit id)) (.mload 7#7 8#7) 0x2000 = true ∧
    bits ((stored microAt (probe .exit id)).peekNat 0x2000 4) 17 12 = 1 ∧ decodeThread 0x0001C387#32 = some (.add false 7#7 7#7 7#7) ∧
    mloadB ((probe .exit id).opened 0 0 0) (viewOf (probe .exit id)) (.mload 7#7 8#7) 0x2000 = true := by decide +kernel

theorem witness_SupervisorInstructions_csave :
    csaveB ((saveable (probe (.csave 8#7 7#7) wide)).opened 0 0 0) wideView (.csave 8#7 7#7) = true ∧
    imageB ((probe .exit wide).opened 0 0 0) wideView (.csave 8#7 7#7) 0x500100 4 true = true ∧
    (probe .exit wide).crew 0 31 = none := by decide +kernel

theorem witness_SupervisorInstructions_crestore :
    crestoreIs ((probe .exit wide).opened 0 0 0) wideView (.crestore 8#7 7#7) 6 = some 11 ∧
    crestoreIs (saving 0 (stored (imageAt 0 1) (probe .exit wide))) wideView (.crestore 8#7 7#7) 6 = some 8 ∧
    crestoreIs (saving 3 (stored (imageAt 3 1) (probe .exit wide))) wideView (.crestore 8#7 7#7) 6 = some 10 ∧
    crestoreIs (saving 3 (stored (imageAt 3 4) (probe .exit wide))) wideView (.crestore 8#7 7#7) 6 = some 11 ∧
    crestoreIs (saving 0 (stored (imageAt 0 0) (probe .exit wide))) wideView (.crestore 8#7 7#7) 0 = some 9 := by
  decide +kernel

/-- A record for the queue. -/
def recAt (n : Nat) : Rec := { status := 0x06000000#32, tpc := 1#32, rpc := 1#32, detail := 0#32, fault := 0#48, index := 0#32, seq := BitVec.ofNat 32 n }
def queued (s : State) : State := s.onCore 0 (fun c => { c with queue := [recAt 1, recAt 2] })

/-- A launch block at 0x500000 of one thread of 64 registers over one record at offset 0x40. -/
def launch : List (Nat × Nat × Nat) := [(0x500000, 4, 0x100), (0x500004, 4, 2 ^ 31 + 7 * 2 ^ 27), (0x500008, 4, 0x40), (0x500010, 4, 1)]
def kgoB (s : State) (i : Instr) (d a : Opnd) (placed : Bool) : Bool :=
  let v := s.laneViewer 0
  let l := (s.core 0).lane
  let at' (n : Nat) (x : Nat) := s.checkBlock v (wantOf i 6 n 0 true false) (formAddr (v.seg 6) 6 n x 0) n 32
  laneB s i && decide (i = .kgo d a) &&
    (match at' 32 (l.readW 0 (s.coreCycle 0) (s.core 0).pts a).toNat with
     | .error _ => false
     | .ok hits =>
       match State.readHits 0 hits s with
       | (s1, x) =>
         decide (badLaunch x = none) &&
         (match s1.checkBlock v (wantOf i 6 (32 * bits x 159 128) 0 true false)
            (formAddr (v.seg 6) 6 (32 * bits x 159 128) (bits x 95 64) 0) (32 * bits x 159 128) 32 with
          | .error _ => false
          | .ok hits2 =>
            match State.readHits 0 hits2 s1 with
            | (s2, bytes) => decide ((s2.launchKernel 0 l x bytes).2.isSome = placed)))

theorem witness_LaneSupervision : (laneProbe (fun l => { l with exl := true, pmode := 1#2 })).LaneRuns 0 .eret ∧
    ((laneProbe (fun l => { l with exl := true, pmode := 1#2 })).core 0).lane.eret.isSome = true ∧ ((laneProbe id).core 0).lane.eret = none ∧
    (laneProbe id).LaneRuns 0 .wfi ∧ (laneProbe id).LaneRuns 0 (.sys 5#9) ∧ (laneProbe (bregs [(8, 383#64)])).LaneRuns 0 (.ipi 8#7 63#9) ∧
    (laneProbe (bregs [(8, 384#64)])).LaneRuns 0 (.ipi 8#7 63#9) ∧
    (queued (laneProbe id)).LaneRuns 0 (.qpop 3#7 4#7 6#8) ∧ ((queued (laneProbe id)).popList 0 6).length = 2 ∧
    ((queued (laneProbe id)).popList 0 7) = [] ∧
    isOk ((queued (laneProbe id)).checkBlock ((queued (laneProbe id)).laneViewer 0) (wantOf (.qpop 3#7 4#7 6#8) 6 64 0 false true)
      (formAddr (((queued (laneProbe id)).laneViewer 0).seg 6) 6 64 0 0) 64 32) = true ∧
    kgoB (stored launch (laneProbe id)) (.kgo 7#7 5#7) 7#7 5#7 true = true :=
  ⟨lane_of (by decide +kernel), by decide +kernel, by decide +kernel, lane_of (by decide +kernel), lane_of (by decide +kernel),
    lane_of (by decide +kernel), lane_of (by decide +kernel), lane_of (by decide +kernel), by decide +kernel, by decide +kernel,
    by decide +kernel, by decide +kernel⟩

/-- The probe whose core has target 0, of its own isle; and target 4, of cluster 1, which belongs to another isle. -/
def twoIsles : State :=
  { (laneProbe (bregs [(8, 4#64)])).onIsle 1 (fun x => { x with clus := 2 }) with acting := .lane 0 }
theorem witness_LaneSupervision_isles : (laneProbe id).isleOfCore 0 = some 0 ∧
    ((laneProbe id).core 0).lane.readW 0 0 0 8#7 = 0#32 ∧ twoIsles.isleOfCore 0 = some 0 ∧ twoIsles.isleOfCore 4 = some 1 := by
  decide +kernel
theorem witness_LaneSupervision_otherIsle : twoIsles.LaneRuns 0 (.ipi 8#7 63#9) := lane_of (by decide +kernel)

theorem witness_LaneSupervision_shared : (laneProbe id).LaneRuns 0 (.qret 8#7) ∧ (laneProbe id).LaneRuns 0 (.preempt 8#7) ∧
    (laneProbe id).LaneRuns 0 (.tmove 8#7 9#7) ∧ (laneProbe id).LaneRuns 0 (.mload 7#7 8#7) ∧ (laneProbe id).LaneRuns 0 (.csave 8#7 7#7) ∧
    (laneProbe id).LaneRuns 0 (.crestore 8#7 7#7) ∧ (laneProbe id).LaneRuns 0 (.tlbinv 8#7 3#2) ∧ (laneProbe id).LaneRuns 0 (.atp 10#7 8#7) ∧
    (laneProbe (bregs [(8, 0x2000#64)])).LaneRuns 0 (.scgset 8#7 31#5) ∧
    mloadB (stored microAt (laneProbe id)) ((laneProbe id).laneViewer 0) (.mload 7#7 8#7) 0x2000 = true ∧
    (let w := wantOf (.scgset 8#7 31#5) 0 64 0 true false
     laneReachB (laneProbe (bregs [(8, 0x2000#64)])) w (lanForm (laneProbe (bregs [(8, 0x2000#64)])) w 8#7)) = true :=
  ⟨lane_of (by decide +kernel), lane_of (by decide +kernel), lane_of (by decide +kernel), lane_of (by decide +kernel),
    lane_of (by decide +kernel), lane_of (by decide +kernel), lane_of (by decide +kernel), lane_of (by decide +kernel),
    lane_of (by decide +kernel), by decide +kernel, by decide +kernel⟩

/-- The lane beside a stopped crew; and beside a saved one. -/
def laneBeside (s : State) : State := { s.onLane 0 (fun l => { l with mode := .s, segs := wideSegs probeSegs }) with acting := .lane 0 }

def wideProbe : State := laneProbe (fun l => { l with segs := wideSegs l.segs })
def wideLane : Viewer := wideProbe.laneViewer 0

theorem witness_LaneSupervision_images :
    csaveB (laneBeside (saveable (probe .exit id))) wideLane (.csave 8#7 7#7) = true ∧
    imageB wideProbe wideLane (.csave 8#7 7#7) 0x500100 4 true = true ∧
    crestoreIs wideProbe wideLane (.crestore 8#7 7#7) 6 = some 11 ∧
    crestoreIs (saving 0 (stored (imageAt 0 1) wideProbe)) wideLane (.crestore 8#7 7#7) 6 = some 8 ∧
    crestoreIs (saving 3 (stored (imageAt 3 1) wideProbe)) wideLane (.crestore 8#7 7#7) 6 = some 10 := by
  decide +kernel

/-! ### Witnesses: the events of the memory system -/

/-- The probe with one operation in flight; its thread and crew are there. -/
def evB (s : State) (id' : Nat) (o : MemOp) : Bool :=
  decide (s.op id' = some o) && (s.crew 0 0).isSome && decide ((crewAt s).uid = o.uid) && (s.thread 0 0 0).isSome && decide (o.core = 0) &&
    decide (o.slot = 0) && decide (o.tid = 0)
def evOf (o : MemOp) : State := withOp o (probe .exit id)

theorem has_of {s : State} {u : Nat}
    (h : ((s.crew 0 0).isSome && decide ((crewAt s).uid = u) && (s.thread 0 0 0).isSome) = true) : s.Has 0 0 u 0 (crewAt s) (thAt s) := by
  simp only [Bool.and_eq_true, decide_eq_true_eq, Option.isSome_iff_exists] at h
  obtain ⟨⟨⟨w, hw⟩, hu⟩, th, ht⟩ := h
  have hc : crewAt s = w := by simp [crewAt, hw]
  have he : thAt s = th := by simp [thAt, ht]
  refine ⟨hc ▸ hw, hu, ?_⟩
  rw [hc, he]
  simpa [State.thread, hw] using ht

/-- Line 64 owned by cluster 0 in state M. -/
def owned (s : State) : State :=
  { s.setCopy 0 64 (some ⟨.m, 5, 0, 0, 0, 0, 0⟩) with
    lines := [(64, { mode := .dir, demote := false, owner := some 0, wts := 0, rts := 0, pins := 0, recalling := none, invals := [] })] }

theorem witness_LoadsAndStoresComplete :
    evB (evOf (loadOp 7 10 (some 5))) 7 (loadOp 7 10 (some 5)) = true ∧
    evB (evOf { loadOp 7 dstPc (some 5) with parts := 1 }) 7 { loadOp 7 dstPc (some 5) with parts := 1 } = true ∧
    evB (evOf { loadOp 7 10 (some 5) with poisoned := true }) 7 { loadOp 7 10 (some 5) with poisoned := true } = true ∧
    (evOf { loadOp 7 10 none with kind := .fenceRel }).blocked { loadOp 7 10 none with kind := .fenceRel } = false ∧
    (evOf { loadOp 7 10 none with kind := .fenceAcq }).blocked { loadOp 7 10 none with kind := .fenceAcq } = false ∧
    evB (evOf { loadOp 7 10 (some 1) with kind := .stx }) 7 { loadOp 7 10 (some 1) with kind := .stx } = true ∧
    (evOf { loadOp 7 10 none with kind := .stx }).blocked { loadOp 7 10 none with kind := .stx } = false ∧
    ({ loadOp 7 10 none with kind := .stx } : MemOp).stores = false ∧ ({ loadOp 7 10 none with kind := .st } : MemOp).stores = true ∧
    (evOf { loadOp 7 10 none with kind := .st, space := 2 }).accReady { loadOp 7 10 none with kind := .st, space := 2 } = true ∧
    (evOf { loadOp 7 10 none with kind := .st, space := 1 }).blocked { loadOp 7 10 none with kind := .st, space := 1 } = false ∧
    (owned (evOf { loadOp 7 10 none with kind := .st, page := some (mPage 0x2000) })).bankPage (mPage 0x2000) 64 = false ∧
    ((owned (evOf { loadOp 7 10 none with kind := .st })).ownerCopy 64).isSome = true ∧ (mPage 0x2000).mode = .dir ∧
    lineOf 0x2000 = 64 := by decide +kernel

/-- An operation of the probe's thread on a page of a mode, at address 0x2000 (line 64). -/
def pageOp (k : OpKind) (m : CMode) (v : Option Nat) : MemOp :=
  { loadOp 7 10 v with kind := k, page := some { mPage 0x2000 with mode := m } }
def serves (s : State) (o : MemOp) (m : CMode) (excl : Bool) (ex : List Nat) : Bool := ((s.touchHome 64 m).serve o excl ex).2

/-- Line 64 shared by cluster 2, or held there by a lease. -/
def sharedBy (cl : Nat) (st : L1State) (s : State) : State := s.setCopy cl 64 (some ⟨st, 5, 0, 0, 9, 0, 0⟩)
def replied (k : GrantKind) (peer : Bool) (o : MemOp) : MemOp :=
  { o with reply := some { seq := 0, kind := k, data := 0, poison := 0, wts := 0, rts := 0, peer := peer } }

theorem witness_HomeRequests_read : evB (evOf (pageOp (.ld .w) .dir none)) 7 (pageOp (.ld .w) .dir none) = true ∧
    ((evOf (pageOp (.ld .w) .dir none)).touchHome 64 .dir).wantsLine (pageOp (.ld .w) .dir none) = true ∧
    (evOf (pageOp (.ld .w) .dir none)).copyOf 0 64 = none ∧
    serves (evOf (pageOp (.ld .w) .dir none)) (pageOp (.ld .w) .dir none) .dir false [0] = true ∧
    ((evOf (pageOp .st .dir none)).touchHome 64 .dir).wantsLine (pageOp .st .dir none) = true ∧
    serves (evOf (pageOp .st .dir none)) (pageOp .st .dir none) .dir true [0] = true := by decide +kernel

theorem witness_HomeRequests_write :
    (evOf (replied .m false (pageOp .st .dir none))).canInstall 0 64 = true ∧
    ((evOf (pageOp .st .uncached none)).touchHome 64 .uncached).atBank 64 .uncached = true ∧
    (evOf (pageOp .st .uncached none)).blocked (pageOp .st .uncached none) = false ∧
    ((evOf (pageOp .st .uncached none)).touchHome 64 .uncached).timedLine 64 = false ∧
    serves (evOf { pageOp .st .dir none with cache := 2 }) { pageOp .st .dir none with cache := 2 } .dir true [0] = true ∧
    ((evOf { pageOp .st .dir none with cache := 2 }).touchHome 64 .dir).timedLine 64 = false ∧
    ((evOf (pageOp (.atom .add false false) .uncached none)).touchHome 64 .uncached).timedLine 64 = false ∧
    ((evOf (pageOp (.atom .add false false) .dir none)).touchHome 64 .dir).timedLine 64 = false ∧
    ((evOf (pageOp (.atom .add false false) .selfInv none)).touchHome 64 .selfInv).timedLine 64 = true ∧
    (evOf (pageOp (.atom .add false false) .selfInv none)).heldBefore (pageOp (.atom .add false false) .selfInv none) = false ∧
    serves (evOf (pageOp (.atom .add false false) .dir none)) (pageOp (.atom .add false false) .dir none) .dir true [] = true ∧
    (evOf (pageOp (.atom .add false false) .dir none)).blocked (pageOp (.atom .add false false) .dir none) = false ∧
    (((evOf (pageOp (.atom .add false false) .selfInv none)).touchHome 64 .selfInv).flushOwner 64 false).guarded
      (pageOp (.atom .add false false) .selfInv none) = false := by decide +kernel

theorem witness_HomeRequests_peer :
    (sharedBy 2 .s (evOf (pageOp (.ld .w) .dir none))).bankPage { mPage 0x2000 with mode := .dir } 64 = false ∧
    (sharedBy 2 .s (evOf (pageOp (.ld .w) .dir none))).hitCopy (pageOp (.ld .w) .dir none) { mPage 0x2000 with mode := .dir } = none ∧
    ((sharedBy 2 .s (evOf (pageOp (.ld .w) .dir none))).copyOf 2 64).map (fun x => x.st) = some .s ∧
    (evOf (replied .s true (pageOp (.ld .w) .dir none))).op 7 = some (replied .s true (pageOp (.ld .w) .dir none)) ∧
    ((State.touchHome (evOf (replied .s true (pageOp (.ld .w) .dir none))) 64 .dir).lines.find 64).any (fun h =>
      decide (h.owner = none) && decide (h.recalling = none) && decide (h.invals = []) && !h.demote) = true ∧
    (State.touchHome (evOf (replied .s true (pageOp (.ld .w) .dir none))) 64 .dir).lineData 64 = 0 ∧
    (evOf (replied .s true (pageOp (.ld .w) .dir none))).lines.find 64 = none := by decide +kernel

/-- A home line with an owner, a recall or clusters to invalidate. -/
def homed (owner : Option Nat) (recalling : Option (Bool × Option Nat)) (invals : List Nat) (m : CMode) (s : State) : State :=
  { s with lines := [(64, { mode := m, demote := false, owner := owner, wts := 0, rts := 0, pins := 0, recalling := recalling, invals := invals })] }
def owning (recalling : Option (Bool × Option Nat)) (s : State) : State := homed (some 0) recalling [] .dir (sharedBy 0 .m s)

theorem witness_RecallsAndFilters :
    2 ∈ [2] ∧ (homed none none [2] .dir (probe .exit id)).replyDue 2 64 = false ∧
    ((owning (some (true, none)) (probe .exit id)).ownerCopy 64).isSome = true ∧
    (owning (some (true, none)) (probe .exit id)).reservedIn 0 64 = false ∧
    (owning (some (true, none)) (probe .exit (fun t => { t with rsv := some ⟨0x2000, 0x2000, 4⟩ }))).reservedIn 0 64 = true ∧
    (owning (some (false, some 0)) (probe .exit id)).cycle = 0 ∧ 24 < filterCount (BitVec.ofNat 32 (2 ^ 32 - 1)) := by decide +kernel

theorem witness_Leases :
    evB (evOf (pageOp (.ld .w) .selfInv none)) 7 (pageOp (.ld .w) .selfInv none) = true ∧
    ((evOf (pageOp (.ld .w) .selfInv none)).touchHome 64 .selfInv).bankPage { mPage 0x2000 with mode := .selfInv } 64 = false ∧
    ((((evOf (pageOp (.ld .w) .selfInv none)).touchHome 64 .selfInv).flushOwner 64 true).lines.find 64).isSome = true ∧
    (evOf (pageOp .st .selfInv none)).heldBefore (pageOp .st .selfInv none) = false ∧
    (((evOf (pageOp .st .selfInv none)).touchHome 64 .selfInv).flushOwner 64 false).guarded (pageOp .st .selfInv none) = false ∧
    (evOf (pageOp .st .selfInv none)).isleOfMem 0x2000 = some 0 ∧ (evOf (pageOp .st .selfInv none)).coreCycle 0 % 1024 = 0 ∧
    ((evOf (pageOp .st .selfInv none)).ownerCopy 64) = none ∧
    (evOf (pageOp .st .selfInv none)).sweepSet 0 ((evOf (pageOp .st .selfInv none)).writeTime 0 64) = [] := by decide +kernel

/-- The leases of the line run far past the core's own time: a write is held, and its sweep and release follow. -/
def farLease (o : MemOp) : State :=
  { evOf o with lines := [(64, { mode := .selfInv, demote := false, owner := none, wts := 0, rts := 0x600000#24, pins := 0, recalling := none, invals := [] })] }
def heldStore : MemOp := { pageOp .st .selfInv none with held := true }
/-- Every core of cluster 0 far in time: the floor has moved. -/
def lateCores : State := [0, 1, 2, 3].foldl (fun (s : State) k => s.onCore k (fun c => { c with pts := 0x10000#24 })) (probe .exit id)

theorem witness_Leases_held : ((((farLease (pageOp .st .selfInv none)).touchHome 64 .selfInv).flushOwner 64 false).guarded
      (pageOp .st .selfInv none)) = true ∧
    (farLease heldStore).timedLine 64 = true ∧ (farLease heldStore).isleOfMem 0x2000 = some 0 ∧
    0 ∈ (farLease heldStore).sweepSet 0 ((farLease heldStore).writeTime 0 64) ∧ 0 ∉ heldStore.swept ∧
    (∀ a ∈ (farLease heldStore).sweepSet 0 ((farLease heldStore).writeTime 0 64), a ∈ [0]) ∧
    2 ^ 16 ≤ (lateCores.floor 0 - (lateCores.isle 0).floorSent).toNat := by decide +kernel

/-! ### Witnesses: pushes and copies under way -/

/-- A push of the probe's thread on line 64. -/
def pushAt (recv : List Nat) (merged : Bool) : Push :=
  { id := 7, core := 0, slot := 0, tid := 0, uid := (crewAt (probe .exit id)).uid, isle := 0, flag := 1, addr := 0x2000, n := 4,
    data := some 9, page := { mPage 0x2000 with mode := .dir }, names := [0, 3], recv := recv, merged := merged, seq := 0 }
def pushing (p : Push) : State := { probe .exit id with pushes := [p] }
def homeLine (s : State) : State := homed none none [] .dir s

theorem witness_PushEvents : (pushing (pushAt [0] false)).push 7 = some (pushAt [0] false) ∧
    (pushing (pushAt [0] false)).pushHeld (pushAt [0] false) = false ∧ (pushing (pushAt [0] false)).serving 64 = false ∧
    (pushing (pushAt [0] false)).homeRoom 64 = true ∧ (pushing (pushAt [0] false)).ownerReserved 64 = false ∧
    (owning none (probe .exit (fun t => { t with rsv := some ⟨0x2000, 0x2000, 4⟩ }))).ownerReserved 64 = true ∧
    (homeLine (pushing (pushAt [0] true))).olderDue 0 (homeSlice 0x2000) 0 = false ∧
    (withOp (pageOp (.ld .w) .dir none) (homeLine (pushing (pushAt [0] true)))).missOut 0 64 = true ∧
    (homeLine (pushing (pushAt [0] true))).atBank 64 .dir = false ∧
    (homeLine (pushing (pushAt [0] true))).holdsValid 0 64 = false ∧ (homeLine (pushing (pushAt [0] true))).missOut 0 64 = false ∧
    ((homeLine (pushing (pushAt [0] true))).cluster 0).powered = true ∧
    ((homeLine (pushing (pushAt [0] true))).cluster 0).installs < ((homeLine (pushing (pushAt [0] true))).cluster 0).quota ∧
    (homeLine (pushing (pushAt [0] true))).canInstall 0 64 = true ∧ (homeLine (pushing (pushAt [0] true))).isleOfCluster 0 = some 0 ∧
    (homeLine (pushing (pushAt [5] true))).isleOfCluster 5 = none ∧
    (sharedBy 0 .s (homeLine (pushing (pushAt [0] true)))).holdsValid 0 64 = true ∧
    (sharedBy 0 .s (homeLine (pushing (pushAt [0] true)))).ownerCopy 64 = none ∧
    (pushing (pushAt [] true)).coreCycle 0 % 1024 = 0 := by decide +kernel

/-- A forwarding entry of core 0's old seat, over. -/
def forwarded : State := { probe .exit id with
  forwards := [(3, { oldCore := 0, oldCrew := 0, uid := 5, isle := 0, spad := 0, permits := [2], till := 0, dest := none, image := none })] }

theorem witness_PushEvents_forward : (forwarded.forwards.find 3).any (fun f => decide (f.till ≤ forwarded.cycle) && f.permits.contains 2 &&
      decide (forwarded.forwardOf (clusterOf f.oldCore) 2 = some f)) = true ∧ forwarded.forwardOf 0 3 = none := by decide +kernel

def copying (c : Copy) : State := { probe .exit id with copies := [c] }
def running : Copy := copyAt 7 .running
def ended : Copy := copyAt 7 .ended
def element : Element := { idx := 0, val := 9, bad := false }
def casting : Copy := { running with mcast := true, key := 5, permit := 2, recv := [(0, .waiting)], buf := [[element]] }

/-- As `copying`, with an image at 0x500000 whose scratchpad range is the 256 bytes at 0x100. -/
def imaging (c : Copy) : State :=
  { stored [(0x500028, 4, 64), (0x500040, 4, 1), (0x500044, 4, 256), (0x500048, 4, 256)] (probe .exit id) with copies := [c] }

theorem witness_CopyEvents : (copying (copyAt 7 .queued)).copy 7 = some (copyAt 7 .queued) ∧
    ((copying (copyAt 7 .queued)).copiesOf 0).find? (fun x => x.isSpilled || decide (x.stage = .queued)) = some (copyAt 7 .queued) ∧
    ((copying running).copiesOf 0).foldl (fun n x => n + x.buf.length) 0 < 16 ∧
    (let l := running.lineGroup (running.srcPa running.next / 128) (running.dstAt running.next / 128) (running.count - running.next) running.next
     (copying running).readHeld running l = false ∧ (copying running).await (lineOf (running.srcPa running.next)) (running.srcPage running.next).mode false = none ∧
      ∀ n ∈ l, running.srcPa n % 128 + running.bytes ≤ 128) ∧
    (let c : Copy := { running with buf := [[element]] }
     (copying c).writesHeld c [element.idx] = false ∧ (copying c).writeWaits c [element] = none) ∧
    (let c : Copy := { casting with recv := [(0, .accepted 0 0x4000 none), (5, .accepted 5 0x100 none), (6, .refused)] }
     c.decided = true ∧ (copying c).writesHeld c [element.idx] = false ∧ (copying c).writeWaits c [element] = none) ∧
    (let c : Copy := { casting with recv := [(0, .accepted 0 0 (some (0, 0x500000)))] }
     c.decided = true ∧ (imaging c).writesHeld c [element.idx] = false ∧ (imaging c).writeWaits c [element] = none ∧
      (imaging c).imagePlace c element.idx (.accepted 0 0 (some (0, 0x500000))) ≠ none) ∧
    ended.counter % 128 + 16 ≤ 128 ∧ ended.decided = true ∧ (casting.recv.find 0) = some .waiting ∧ casting.buf ≠ [] := by decide +kernel

/-- A spilled copy whose slot holds what its check word was taken of. -/
def spilled (good : Bool) : Copy :=
  { copyAt 7 (.spilled 0) with ring := [(0x300000, 128, mPage 0x300000)], check := if good then Config.slotCheck 0 else Config.slotCheck 0 + 1#32 }
def slotRead : Nat := (State.readHits 0 (spilled true).ringHits (copying (spilled true))).2

theorem witness_CopyEvents_spilled : (spilled true).isSpilled = true ∧
    ((copying (spilled true)).copiesOf 0).find? Copy.isSpilled = some (spilled true) ∧
    (((copying (spilled true)).copiesOf 0).filter (fun x => x.unread && !x.isSpilled)).length < 16 ∧ slotRead = 0 ∧
    (∀ y ∈ (spilled true).ring, y.1 % 128 + y.2.1 ≤ 128) ∧ (copying (spilled true)).awaitLines (hitLines (spilled true).ringHits) false = none := by
  refine ⟨rfl, rfl, ?_, ?_, ?_, ?_⟩ <;> decide +kernel

/-- A waiter on a counter that has reached its target, and on one in error. -/
def waiter (target : Nat) (m : List (Nat × Nat × Nat)) : State :=
  stored m (probe .exit (fun t => { t with life := .parked (.counter 0x2100 target) }))

theorem witness_CopyEvents_waiter : (thAt (waiter 1 [(0x2100, 8, 1)])).life = .parked (.counter 0x2100 1) ∧
    counterReached ((waiter 1 [(0x2100, 8, 1)]).peekNat 0x2100 8) 1 = true ∧
    counterReached ((waiter 9 [(0x2100, 8, 2 ^ 63)]).peekNat 0x2100 8) 9 = true := by decide +kernel

/-! ### Witnesses: the matrix unit's queue -/

def matOf (k : MatKind) : MatOp :=
  { id := 7, ord := 7, slot := 0, uid := (crewAt (probe .exit id)).uid, off := 0, kind := k, flags := [(0, 2)], accepted := true, pc := 0#32, detail := 0#32 }
def matting (m : MatOp) (s : State) : State := s.onCore 0 (fun c => { c with matQ := [m] })
/-- INT8 by INT8 with K = 128: each operand one row, read 128 times. -/
def work8 (fetched step : Nat) (segs : List (BitVec 128)) : MmaWork :=
  let h : BitVec 128 := BitVec.ofNat 128 (128 * 2 ^ 96 + 2 ^ 48)
  { cv := 2, fmt := 0x80024000#32, a := h, b := h, sa := none, sb := none, start := 0, step := step, fetched := fetched, got := [],
    signers := [(0, ⟨0#32, 0#32, 0#32, 0#32, none⟩)], segs := segs, user := false }
def noRead : List (BitVec 128) := setAt probeSegs 1 (mkSeg false false true false 0x10000 0)
def fetchOk (u : MmaWork) : Bool :=
  isOk (State.fetchPieces 0 (u.pieces u.fetched) (matting (matOf (.mma u)) (probe .exit id)) u)
/-- Whether all the operands of a k-step arrive at once. -/
def wholeOk (u : MmaWork) : Bool :=
  match State.fetchPieces 0 (u.pieces u.fetched) (matting (matOf (.mma u)) (probe .exit id)) u with
  | .ok (_, _, whole) => whole
  | .error _ => false

theorem witness_MatrixEvents : ((matting (matOf (.mma (work8 0 0 probeSegs))) (probe .exit id)).headMma 0).isSome = true ∧
    (work8 0 0 probeSegs).fetched < (work8 0 0 probeSegs).steps ∧ fetchOk (work8 0 0 probeSegs) = true ∧
    (work8 1 0 probeSegs).step < (work8 1 0 probeSegs).fetched ∧ wholeOk (work8 0 0 probeSegs) = true ∧
    (work8 2 1 probeSegs).step + 1 = (work8 2 1 probeSegs).steps ∧ (work8 2 2 probeSegs).steps ≤ (work8 2 2 probeSegs).step ∧
    (work8 1 1 probeSegs).fetched + 1 = (work8 1 1 probeSegs).steps ∧ (probe .exit id).rowWaits (mPage 0x2000) 0x2000 false = none ∧
    (probe .exit id).rowWaits (mPage 0x2000) 0x2000 true = none ∧ fetchOk (work8 0 0 noRead) = false ∧
    (thAt (matting (matOf (.mma (work8 0 0 noRead))) (probe .exit id))).life = .ready ∧
    ((matting (matOf .mmz) (probe .exit id)).headOther 0).isSome = true ∧
    (State.readLines 0 (mPage 0x2000) 0x2000 4 (matting (matOf (.accld 0x2000 0x2000 (mPage 0x2000) 0)) (probe .exit id))).2.2 = false ∧
    ((matting (matOf (.accld 0x2000 0x2000 (mPage 0x2000) 0)) (probe .exit id)).headOther 0).isSome = true := by decide +kernel

/-- A poisoned granule in the source of an accld; an operation that waits to enter the queue. -/
def poisonedLoad : State := { matting (matOf (.accld 0x2000 0x2000 (mPage 0x2000) 0)) (probe .exit id) with poison := [0x2000 / 32] }
def entering : State := (probe .exit id).onCore 0 (fun c => { c with matWait := [matOf (.mma (work8 0 0 probeSegs))] })

theorem witness_MatrixEvents_poison : (State.readLines 0 (mPage 0x2000) 0x2000 4 poisonedLoad).2.2 = true ∧
    (entering.core 0).matWait.length = 1 ∧ (entering.core 0).matQ.length < 64 := by decide +kernel

/-! ### Witnesses: records, boundary traps, crews -/

/-- A gang of two threads; `f` and `g` set them. -/
def pairProbe (i : Instr) (f g : Thread → Thread) : State :=
  { ((probe i f).onCrew 0 0 (fun w => { w with threads := w.threads.put 1 (g (thAt (probe i id))) })) with
    acting := .gang 0 0 [0, 1] 2 }

/-- A trapped thread whose record is in some state. -/
def trapped (r : RecState) (t : Thread) : Thread :=
  { t with life := .trapped, trap := some { cause := 6, tpc := 0#32, rpc := 0#32, fault := 0#48, detail := 5#32, win := none, record := r, mark := 1, since := none } }
def spilling (q n : Nat) (s : State) : State := s.onCore 0 (fun c => { c with
  queue := (List.range q).map recAt, ringCount := n, ctl := { c.ctl with qspill := 0x600000#64, qspilln := 4#32 } })

theorem witness_TrapsAndRecords : (thAt (probe .exit (trapped .due))).trap.map (fun t => t.record) = some .due ∧
    (probe .exit (trapped .due)).recordReady 0 0 (crewAt (probe .exit id)).uid 0 = true ∧
    (probe .exit (trapped .due)).recordFirst 0 0 0 none = true ∧ ((probe .exit (trapped .due)).core 0).room = .queue ∧ ((probe .exit (trapped .due)).core 0).held = [] ∧
    ((spilling 256 3 (probe .exit (trapped .due))).core 0).room = .ring ∧
    (((spilling 256 3 (probe .exit id)).core 0).ctl.ringPa 3) % 128 + 32 ≤ 128 ∧
    ((spilling 256 4 (probe .exit (trapped .due))).core 0).room = .none ∧
    ((spilling 255 4 (probe .exit id)).core 0).queue.length < 256 ∧
    (thAt (probe .exit (fun t => { t with deferred := [⟨0#32, 0#48, 0#32⟩] }))).atBoundary (probe .exit id) = true ∧
    (probe .exit id).watchdogDue 0 (thAt (probe .exit (fun t => { t with wdcount := 0x01000001 }))) = true ∧
    (probe .exit id).watchdogDue 0 (thAt (probe .exit (fun t => { t with wdcount := 0x01000000 }))) = false := by decide +kernel

/-- Two trapped threads whose records are due. -/
def duePair : State := pairProbe .exit (trapped .due) (trapped .due)
theorem witness_TrapsAndRecords_order : (duePair.dueTraps 0).map Prod.snd = [(0, 0), (0, 1)] ∧
    (∀ x ∈ duePair.dueTraps 0, duePair.mayRecord 0 x.2.1 x.2.2 = true) ∧ duePair.recordFirst 0 0 0 none = true ∧
    (duePair.core 0).ringCount = 0 ∧ (duePair.core 0).held = [] ∧ (duePair.core 0).queue.length + 2 ≤ 256 ∧
    ((probe .exit (trapped .due)).dueTraps 0).map Prod.snd = [(0, 0)] ∧
    (spilling 256 3 (probe .exit (trapped .due))).await (lineOf (((spilling 256 3 (probe .exit id)).core 0).ctl.ringPa 3)) .dir true = none ∧
    (let s := homed none none [2] .dir (spilling 256 3 (probe .exit (trapped .due)))
     s.await 64 .dir true ≠ none) := by decide +kernel

/-- The probe's crew asked to stop at cycle 0, a later cycle. -/
def asked (n : Nat) (f : Thread → Thread) : State :=
  { crewed (fun w => { w with preempt := some 0 }) (probe .exit f) with cycle := n }
/-- A crew whose slice is over. -/
def sliced (f : Thread → Thread) : State :=
  (crewed (fun w => { w with super := false, slice := 5 }) (probe .exit f)).onCore 0 (fun c => { c with ctl := { c.ctl with slice := 5#32 } })
/-- The probe's crew with a request at the head of the grant queue. -/
def waiting (r : Word) : State :=
  (crewed (fun w => { w with request := some r }) (probe .exit (fun t => { t with life := .parked .grant }))).onCore 0 (fun c => { c with grantQ := [0] })

theorem witness_CrewEvents : 0 + 20000 ≤ (asked 20000 id).cycle ∧ ((crewAt (asked 20000 id)).preempt) = some 0 ∧
    (asked 0 (trapped .never)).saveReady 0 (crewAt (asked 0 (trapped .never))) = true ∧
    (crewAt (sliced id)).slice = 5 ∧ (crewAt (sliced id)).isFrozen = false ∧
    (∃ x ∈ (crewAt (sliced (fun t => trapped .due { t with guard := 0 }))).threads, x.2.trap.isSome = true) ∧
    (∀ x ∈ (crewAt (probe .exit (fun t => { t with life := .frozen none }))).threads, x.2.frozenStill = true) ∧
    (thAt (probe .exit (fun t => { t with leaving := true }))).idleAll 4095 = true ∧
    (probe .exit (fun t => { t with leaving := true })).quietThread 0 0 (crewAt (probe .exit id)).uid 0 = true ∧
    (crewAt (probe .exit id)).threads.sorted = true ∧ (probe .exit id).copies = [] ∧ ((probe .exit id).core 0).matQ = [] ∧
    (crewAt (crewed (fun w => { w with threads := w.threads.put 1 Thread.blank }) (probe .exit id))).threads.sorted = true ∧
    (waiting 0x00020000#32).blocksUsed 0 + (crewAt (waiting 0x00020000#32)).rows * reqRegs 0x00020000#32 ≤ 512 ∧
    ((waiting 0x00020000#32).core 0).grantQ = [0] ∧ (waiting 0x00050101#32).accFree 0 (crewAt (waiting 0#32)).accEnd 0 = true ∧
    ((crewAt (crewed (fun w => { w with patience := 0 }) (joined (probe .exit id)))).rmExpires 1) = true := by decide +kernel

/-- A lane with interrupts enabled and one pending. -/
def pending (w : LaneWait) : State := laneProbe (fun l => { l with ie := true, ipend := 4#64, ienable := 4#64, wait := w })

theorem witness_InterruptsAndTranslations : ((pending .wfi).core 0).wanted ≠ 0 ∧ ((pending .wfi).core 0).lane.mode = .s ∧
    ((pending .wfi).core 0).lane.exl = false ∧ ((pending .wfi).core 0).lane.ie = true ∧ ((pending .mailbox).core 0).lane.wait = .mailbox ∧
    (probe .exit (fun t => { t with sysWait := .tlbinv ⟨3, 0⟩ 9 })).tlbHolders 0 ⟨3, 0⟩ 9 = false ∧
    (evOf (pageOp (.ld .w) .dir none)).tlbHolders 0 ⟨3, 0⟩ 9 = true ∧
    (match (probe .exit id).walk 0 0x12345678 with
     | .leaf t _ => t.covers 0x12345678
     | .absent _ _ => false) = true ∧ (probe .exit id).isleOfCore 0 = some 0 := by decide +kernel

/-! ### Witnesses: tasks between instructions -/

/-- A stack pool of 4 slots of 4 KiB in isle 0's segment template (R25). -/
def pool (s : State) : State := stored [(0x50, 8, 0x700000), (0x58, 4, 0x1000), (0x5C, 4, 4)] s
/-- A queued piece of the probe's task in cluster 0. -/
def queuedPiece (cls : Nat) : Queued := { task := (crewAt (probe .exit id)).task, lo := 0, hi := 1, cls := cls, since := 0, pos := 0 }
def queueing (cls : Nat) : State := (pool (probe .exit id)).onCluster 0 (fun c => { c with queue := [queuedPiece cls] })
/-- Without a stack pool no piece finds stacks. -/
def poolless (cls : Nat) : State := (probe .exit id).onCluster 0 (fun c => { c with queue := [queuedPiece cls] })
/-- Core 1 asks for work. -/
def askingCore (s : State) : State := s.onCore 1 (fun c => { c with asks := true })
/-- A requested move of the probe's crew to core 1, its thread stopped. -/
def moving (dest : Nat) : State := (probe .exit (trapped .never)).onCore 0 (fun c =>
  { c with moves := [⟨0, (crewAt (probe .exit id)).uid, (crewAt (probe .exit id)).task, dest⟩] })

def ownTask (s : State) : Task := ((s.task (crewAt (probe .exit id)).task)).getD (probeTask 0#32 0#32)
def fitsB (s : State) (q : Queued) (cores : List Nat) : Bool := (s.task q.task).any (fun t => (s.placePiece t q.lo q.hi cores).isSome)
/-- Placed crews need a stack each: the task's place in its domain. -/
def homedB (t : Task) (cores : List Nat) : Bool :=
  decide (t.isle = taskIsle t.id) && decide (t.die = taskDie t.id) && cores.all (fun c => decide (dieOfCore c = t.die))

theorem witness_TaskEvents : ((queueing 0).cluster 0).order = [] ++ queuedPiece 0 :: [] ∧ fitsB (queueing 0) (queuedPiece 0) (coresOf 0) = true ∧
    (ownTask (queueing 0)).id = (queuedPiece 0).task ∧ homedB (ownTask (queueing 0)) (coresOf 0) = true ∧
    (poolless 3).overdue (queuedPiece 3) = false ∧ ({ poolless 3 with cycle := 2 ^ 20 } : State).overdue (queuedPiece 3) = true ∧
    fitsB (poolless 3) (queuedPiece 3) (coresOf 0) = false ∧
    ((askingCore (probe .exit id)).core 1).asks = true ∧ (askingCore (probe .exit id)).isleOfCore 1 = some 0 ∧
    (askingCore (probe .exit id)).freeSlot 1 ≠ none ∧ ((askingCore (probe .exit id)).cluster 0).order = [] := by decide +kernel

/-- Isle 0 with clusters 0 and 1, a piece queued in cluster 1, core 1 asking; or a piece of the probe's task to split. -/
def farPiece : State := (askingCore ((pool (probe .exit id)).onIsle 0 (fun x => { x with clus := 3 }))).onCluster 1 (fun c =>
  { c with queue := [queuedPiece 0] })
def unasked (s : State) : State := s.onCore 1 (fun c => { c with asks := false })
def splitting : State := (askingCore (ranged false (pool (probe .exit id)))).onDomain 0 0 (fun d =>
  { d with pieces := d.pieces.map (fun p => (p.1, { p.2 with hi := 11 })) })
def victim : Nat × Piece × Task := ((unasked splitting).splitVictim 1 0 0).getD (0, ⟨0#32, 0, 0, []⟩, probeTask 0#32 0#32)

theorem witness_TaskEvents_asks : (unasked (askingCore (queueing 0))).placeFirst 0 [1] ((queueing 0).cluster 0).order ≠ none ∧
    (unasked farPiece).placeFirst 0 [1] (farPiece.cluster 0).order = none ∧
    nearFirst 0 ((farPiece.isleClusters 0).filter (fun k => decide (dieOfCore (4 * k) = 0) && decide (k ≠ 0))) = [] ++ 1 :: [] ∧
    (farPiece.cluster 1).order = [queuedPiece 0] ∧ fitsB (unasked farPiece) (queuedPiece 0) (askCores 1 (ownTask farPiece)) = true ∧
    homedB (ownTask farPiece) (askCores 1 (ownTask farPiece)) = true ∧
    (unasked (askingCore (pool (probe .exit id)))).victims 1 0 0 = [] := by
  refine ⟨?_, ?_, ?_, ?_, ?_, ?_, ?_⟩ <;> decide +kernel

theorem witness_TaskEvents_split : (unasked splitting).splitVictim 1 0 0 = some victim ∧ victim.1 < splitting.nextId ∧
    splitting.task victim.2.2.id = some victim.2.2 ∧ victim.2.2.isle = 0 ∧ homedB victim.2.2 (askCores 1 victim.2.2) = true ∧
    (splitting.domain 0 0).pieces.find victim.1 = some victim.2.1 := by
  refine ⟨?_, ?_, ?_, ?_, ?_, ?_⟩ <;> decide +kernel

theorem witness_TaskEvents_move : ((moving 1).core 0).moves.length = 1 ∧ (moving 1).moveRefusal 0 0 (crewAt (moving 1)) 1 = none ∧
    (moving 1).moveReady 0 0 (crewAt (moving 1)) = true ∧ (moving 4).moveRefusal 0 0 (crewAt (moving 4)) 4 = some 5 ∧
    ((moving 1).task (crewAt (moving 1)).task).isSome = true := by decide +kernel

/-! ### Witnesses: the fabric engine, the package -/

/-- Window 0 over the first GiB, for reads, writes and atomics (log 18). -/
def allWindow : FMap DWord := [(1, 0x40000000#64), (2, 7#64)]
def fabOf (k : FabKind) (src : Option (List PByte)) (members : List (Nat × Nat)) (served : FMap Nat) : FabOp :=
  { id := 7, core := 0, slot := 0, tid := 0, uid := (crewAt (probe .exit id)).uid, isle := 0, flag := 1, kind := k,
    desc := fabDescOf (0x3000 + 0x4000 * 2 ^ 64 + 16 * 2 ^ 128), members := members, counter := 0x2100, lpages := [], rpages := [], cpage := none,
    src := src, served := served, back := List.replicate 16 0#8, wins := [(0, allWindow)], contributed := false, limit := 100, since := 0 }
def fabbing (f : FabOp) : State := { probe .exit id with fabs := [f] }
def bytes16 : List PByte := List.replicate 16 ⟨1#8, false⟩
def good : FabReply := { outcome := 0, data := [], accepted := 0, refused := 0 }

theorem witness_FabricEvents : (fabbing (fabOf .put none [(0, 0)] [])).fabHeld (fabOf .put none [(0, 0)] []) [] false 0x3000 = false ∧
    (fabbing (fabOf .put (some bytes16) [(0, 0)] [])).localMember (0, 0) = true ∧
    ((fabbing (fabOf .put (some bytes16) [(0, 0)] [])).serveOwn (fabOf .put (some bytes16) [(0, 0)] []) 0).isSome = true ∧
    ((fabbing (fabOf .put none [(0, 0)] [])).isle 3).inReset = false ∧
    (fabbing (fabOf .put (some bytes16) [(0, 0)] [(0, 0)])).fabOutcome (fabOf .put (some bytes16) [(0, 0)] [(0, 0)]) good =
      some (0, List.replicate 16 0#8) ∧
    (fabbing (fabOf .get none [(5, 0)] [])).fabOutcome (fabOf .get none [(5, 0)] []) { good with outcome := 3 } = some (3, []) ∧
    (fabbing (fabOf .get none [(0, 0)] [(0, 0)])).fabOutcome (fabOf .get none [(0, 0)] [(0, 0)]) good = some (0, List.replicate 16 0#8) ∧
    (fabbing (fabOf .mcast (some bytes16) [(0, 0), (5, 0)] [(0, 0)])).localMember (5, 0) = false ∧
    placesOf (fabbing (fabOf .mcast (some bytes16) [(0, 0), (5, 0)] [(0, 0)])).localMember [(0, 0), (5, 0)] = [0] ∧
    genAfter 1#32 ((fabbing (fabOf .red (some bytes16) [(0, 0)] [])).reduction 0).closed = true ∧
    genAfter 0#32 ((fabbing (fabOf .red (some bytes16) [(0, 0)] [])).reduction 0).closed = false ∧
    ((probe .exit id).remotePages 0 0x3000 16 false true).isSome = true ∧ ((probe .exit id).remotePages 3 0x3000 16 false true) = none ∧
    (probe .exit id).extentOwned 0 0x3000 32 = true := by decide +kernel

/-- What TargetMay supposes, of an extent at isle 0. -/
def placedB (pages : List Tlb) (va n : Nat) : Bool :=
  decide (((List.range n).map (extentPa pages va)).Nodup) && (List.range n).all (fun k => decide (extentPa pages va k % 32 = (va + k) % 32))
def mayB (s : State) (wins : FMap DWord) (va n : Nat) (rd wr : Bool) (ok : Machine.Grants → Bool) (parts : List (Nat × Nat)) : Bool :=
  !(s.isle 0).inReset && inWindows wins ok va n &&
    (match s.remotePages 0 va n rd wr with
     | some pages => (s.partsWait pages parts wr).isNone && placedB pages va n
     | none => false)
def pagesOf (s : State) (va n : Nat) : List Tlb := (s.remotePages 0 va n true true).getD []

theorem witness_FabricEvents_source :
    (fabbing (fabOf .put none [(0, 0)] [])).partsWait [] (extentParts 0x3000 16) false = none ∧ placedB [] 0x3000 16 = true ∧
    ((fabbing (fabOf .put none [(0, 0)] [])).thread 0 0 0).isSome = true ∧ ((fabbing (fabOf .put none [(0, 0)] [])).crew 0 0).isSome = true := by
  decide +kernel

theorem witness_FabricEvents_served :
    mayB (fabbing (fabOf .put (some bytes16) [(0, 0)] [])) allWindow 0x4000 16 false true (fun g => g.wr) (extentParts 0x4000 16) = true ∧
    mayB (fabbing (fabOf .put (some bytes16) [(0, 0)] [])) allWindow 0x4000 16 false true (fun g => g.wr) [] = true ∧
    mayB (fabbing (fabOf .get none [(0, 0)] [])) allWindow 0x4000 16 true false (fun g => g.rd) (extentParts 0x4000 16) = true ∧
    mayB (fabbing (fabOf .atom none [(0, 0)] [])) allWindow 0x4000 4 true true (fun g => g.at') [(0x4000, 4)] = true ∧
    mayB (fabbing (fabOf .atom none [(0, 0)] [])) allWindow 0x3FFFFFF8 8 true true (fun g => g.at') [(0x3FFFFFF8, 8)] = true ∧
    inWindows [] (fun g => g.wr) 0x4000 16 = false ∧ inWindows allWindow (fun g => g.wr) 0x3FFFFFF1 16 = false ∧
    inWindows allWindow (fun g => g.wr) 0x3FFFFFF0 16 = true ∧ inWindows allWindow (fun g => g.wr) 0x5000 32 = true := by
  refine ⟨?_, ?_, ?_, ?_, ?_, ?_, ?_, ?_, ?_⟩ <;> decide +kernel

/-- A put whose counter at its target is at 0x5010. -/
theorem witness_FabricEvents_counter :
    (let s := fabbing (fabOf .put (some bytes16) [(0, 0)] [])
     (s.partsWait (pagesOf s 0x5010 32 ++ pagesOf s 0x4000 16) ((0x5010, 16) :: extentParts 0x4000 16) true).isNone &&
       (match s.walk 0 0x5010 with
        | .leaf t _ => decide (t.pa 0x5010 % 128 + 16 ≤ 128) &&
            (List.range 16).all (fun k => (List.range 16).all (fun j => decide (extentPa (pagesOf s 0x4000 16) 0x4000 k ≠ t.pa 0x5010 + j)))
        | .absent _ _ => false)) = true := by decide +kernel

theorem witness_FabricEvents_ends :
    (fabbing (fabOf .put (some bytes16) [(0, 0)] [])).endWaits [fabOf .put (some bytes16) [(0, 0)] []] none = none ∧
    (fabbing (fabOf .get none [(0, 0)] [(0, 0)])).partsWait [] (extentParts 0x3000 16) true = none ∧
    (fabbing (fabOf .get none [(0, 0)] [(0, 0)])).fabHeld (fabOf .get none [(0, 0)] [(0, 0)]) [] true 0x3000 = false ∧
    (List.range 16).all (fun k => (List.range 16).all (fun j => decide (extentPa [] 0x3000 k ≠ 0x2100 + j))) = true ∧
    (∀ m ∈ [(5, 0)], (fabbing (fabOf .get none [(5, 0)] [])).localMember m = false) ∧
    0 + 2 ^ 24 ≤ ({ fabbing (fabOf .get none [(5, 0)] []) with cycle := 2 ^ 24 } : State).cycle := by decide +kernel

/-- Contributions to group 0's generation 1: the probe's own, another package's, or one of another length. -/
def redOf : FabOp := { fabOf .red (some bytes16) [(0, 0)] [] with desc := { (fabOf .red none [] []).desc with gen := 1#32, sub := 0 } }
def redPair : FabOp := { redOf with members := [(0, 0), (5, 0)] }
def other (len : Nat) : Contrib :=
  { member := 1, members := [(0, 0), (5, 0)], own := none, sub := 0, len := len, data := List.replicate len ⟨0#8, false⟩ }
def reducing (l : List Contrib) (f : FabOp) : State := { fabbing f with
  reductions := [(0, { closed := 0#32, pending := [(1, { limit := 100, since := 0, got := l })] })], cycle := 200 }

theorem witness_FabricEvents_reductions :
    (fabbing redOf).fabHeld redOf [] true redOf.desc.raddr = false ∧ genAfter redOf.desc.gen ((fabbing redOf).reduction 0).closed = true ∧
    genAfter 0#32 ((fabbing redOf).reduction 0).closed = false ∧ (fabbing redOf).memberOf redOf = 0 ∧
    (fabbing redOf).gathered { limit := 100, since := 0, got := [{ member := 0, members := [(0, 0)], own := some 7, sub := 0, len := 16, data := bytes16 }] }
      = true ∧
    (reducing [other 16] redPair).gathered { limit := 100, since := 0, got := [other 16] } = false ∧
    (reducing [other 16] redPair).gathered { limit := 100, since := 0, got := [other 16,
      { member := 0, members := [(0, 0), (5, 0)], own := some 7, sub := 0, len := 16, data := bytes16 }] } = true ∧
    (reducing [other 16] redPair).endWaits [redPair] (some 16) = none ∧ (reducing [other 32] redPair).endWaits [redPair] none = none ∧
    ((reducing [other 32] redPair).reduction 0).pending.length = 1 ∧ placedB [] redOf.desc.raddr 16 = true ∧
    0 + 100 ≤ (reducing [other 16] redPair).cycle := by
  refine ⟨?_, ?_, ?_, ?_, ?_, ?_, ?_, ?_, ?_, ?_, ?_, ?_⟩ <;> decide +kernel

/-- As `reducing`, with an L1 that owns the line of the counter; and one whose generation is over and whose counter is free. -/
def busyCounter : State :=
  let s := (reducing [{ other 16 with own := some 7 }] redOf).setCopy 0 66 (some ⟨.m, 5, 0, 0, 0, 0, 0⟩)
  { s with lines := [(66, { mode := .dir, demote := false, owner := some 0, wts := 0, rts := 0, pins := 0, recalling := some (true, none), invals := [] })] }
def failingRed : FabOp := { redOf with src := some bytes16, contributed := true, failing := some (5, 1#32, 1) }

theorem witness_FabricEvents_failing : busyCounter.ownOps [{ other 16 with own := some 7 }] = [redOf] ∧ redOf.id = 7 ∧
    lineOf redOf.counter = 66 ∧ (busyCounter.endWaits [redOf] none).isSome = true ∧ 0 + 100 ≤ busyCounter.cycle ∧
    (fabbing failingRed).endWaits [failingRed] none = none ∧ failingRed.kind = .red := by
  refine ⟨?_, ?_, ?_, ?_, ?_, ?_, ?_⟩ <;> decide +kernel

/-- Queue pair 1030 and storage port 2 of isle 0, with memory region 3 of key 9 over the first GiB (log 94). -/
def ported : State :=
  let s := (probe .exit id).onIsle 0 (fun x => { x with
    regions := [(12, BitVec.ofNat 64 (2 ^ 63 + 9)), (14, 0x40000000#64), (15, 7#64)] })
  { s with board := { s.board with portIsle := [(2, 0)], queuePairs := [(1030, { isle := some 0, cores := 5#384 })] } }

theorem witness_FabricEvents_ports : (ported.board.pair 1030).isle = some 0 ∧ bit (ported.board.pair 1030).cores.toNat 2 = true ∧
    (ported.isle 0).peerMay 9 0x3000 16 (fun g => g.wr) = true ∧ (ported.isle 0).peerMay 8 0x3000 16 (fun g => g.wr) = false ∧
    (match ported.remotePages 0 0x3000 16 true true with
     | some pages => (ported.partsWait pages (extentParts 0x3000 16) true).isNone && placedB pages 0x3000 16 &&
         (ported.partsWait pages [(0x3000, 8)] true).isNone && decide ((pageFor pages 0x3000).pa 0x3000 % 8 = 0)
     | none => false) = true ∧
    ported.board.portIsle.find 2 = some 0 ∧ ported.extentOwned 0 0x3000 2 = true ∧ ported.extentOwned 0 0x40000000 2 = false ∧
    ported.dmaWaits ⟨2, 0x301F, 2, some [1#8, 2#8]⟩ = none ∧ ported.isleOfCore 2 = some 0 := by
  refine ⟨?_, ?_, ?_, ?_, ?_, ?_, ?_, ?_, ?_, ?_⟩ <;> decide +kernel

/-- Isle 0 with a reset due, its floor taken or not. -/
def resetting (f : Option Time) : State := (probe .exit id).onIsle 0 (fun x => { x with resetDue := some ⟨false, f⟩ })

theorem witness_PackageEvents : ((resetting none).isle 0).resetDue = some ⟨false, none⟩ ∧
    ((resetting (some 0#24)).isle 0).resetDue = some ⟨false, some 0#24⟩ ∧ (resetting (some 0#24)).isleBusy 0 = false ∧
    (probe .exit id).eccIsle (.hbm 0x2000) = some 0 ∧ (probe .exit id).eccIsle .shared = none ∧
    (probe .exit id).isleOfCluster 95 = none ∧ ((probe .exit id).cluster 95).powered = true ∧ (probe .exit id).clusterBusy 95 = false ∧
    ((State.reset.onCluster 95 (fun c => { c with powered := false })).cluster 95).powered = false ∧ 95 < Config.clusters := by decide +kernel

/-- What ControlReadBack supposes: a crew that is released; threads that can be bound, and some that cannot. -/
theorem witness_ControlReadBack :
    (let s := probe .exit (fun t => { t with life := .frozen none })
     (s.crew 0 (0 % 32)).isSome = true ∧ s.stoppingCrew (crewAt s) = false ∧ s.bound 0 0#32 = some (0, 0, thAt s) ∧
      bit (((s.putCore 0 0x4D 0x40000000#64).core 0).ctl.dbgstat.toNat) 0 = false ∧ bit (0x40000000#64).toNat 30 = true ∧
      bit (0x80000000#64).toNat 31 = true ∧ (thAt s).trap = none ∧ (ctxAt s).allocated 63 = true ∧ (ctxAt s).allocated 95 = false) ∧
    (let s := probe .exit (trapped .due)
     s.bound 0 0#32 = some (0, 0, thAt s) ∧ (thAt s).trap.isSome = true ∧ s.bound 1 0#32 = none ∧ s.bound 0 0x400#32 = none ∧
      s.bound 0 0x01000000#32 = none) ∧
    (probe .exit id).bound 0 0#32 = none := by decide +kernel

def gangB (s : State) (i : Instr) (t : Nat) : Bool :=
  match s.thread 0 0 t with
  | none => false
  | some th =>
    decide (th.life = .ready) && !badBind i th.bind && i.opnds.all (fun u =>
      (useRegs u).all (fun r => (s.ctx 0 0 (crewAt s) 2 t).allocated r) && (useLatches u).isEmpty)

/-- Two threads of one window: thread 0 takes the branch and thread 1 does not. -/
def splitPair : State := pairProbe (.bz 8#7 0x10#18) (fun t => inWindow (regs [(8, 0#32)] t)) (fun t => inWindow (regs [(8, 1#32)] t))

theorem witness_BranchesAndJumps_gang : splitPair.acting = .gang 0 0 [0, 1] 2 ∧ gangB splitPair (.bz 8#7 0x10#18) 0 = true ∧
    gangB splitPair (.bz 8#7 0x10#18) 1 = true := by decide +kernel

theorem test_branch_closes_window : after (exec (.bz 8#7 0x10#18) splitPair) (fun t =>
    (t.thread 0 0 0).bind (fun x => (t.thread 0 0 1).map (fun y => [x.pc - (thAt splitPair).pc, y.pc - (thAt splitPair).pc]))) = some [0x10#32, 1#32] ∧
  after (exec (.bz 8#7 0x10#18) splitPair) (fun t =>
    (t.thread 0 0 0).bind (fun x => (t.thread 0 0 1).map (fun y => [x.win.isNone, y.win.isNone]))) = some [true, true] := by decide +kernel

end Sys2Proof.Tests
end

section

/-! SUPPORT. Every step keeps memory in its canonical form (R4, log 1).

The functions of the model fall in two kinds. Most leave memory as it was: the lemma `f_mem` says so. The others write it, all of
them by way of `Memory.writeNat` or `Memory.writeBytes`: the lemma `f_wf` says that the form is kept. Both are `simp` lemmas where
they are about a state outright, so that the lemma of a function follows from those of the functions that it calls; they stand in
the order of the model's files. `exec_wf` and `step_wf` are their sum. -/

namespace Sys2Proof.Machine

/-! ### What it means for an answer to keep the form -/

/-- The next state of an answer, if there is one, has its memory in canonical form (log 1). -/
def OutWf (o : Out) : Prop :=
  match o with
  | .next s => s.mem.wf
  | _ => True

/-- As `OutWf`, for the effect of one thread or of a lane. -/
def BodyWf {ε : Type} (o : Host.Outcome (State × ε) Fault Refusal) : Prop :=
  match o with
  | .next x => x.1.mem.wf
  | _ => True

@[simp] theorem outWf_next (s : State) : OutWf (.next s) ↔ s.mem.wf := Iff.rfl
@[simp] theorem outWf_fault (x : Fault) : OutWf (.fault x) := trivial
@[simp] theorem outWf_refused (x : Refusal) : OutWf (.refused x) := trivial

section
variable {ε : Type}
@[simp] theorem bodyWf_next (x : State × ε) : BodyWf (.next x) ↔ x.1.mem.wf := Iff.rfl
@[simp] theorem bodyWf_fault (x : Fault) : BodyWf (ε := ε) (.fault x) := trivial
@[simp] theorem bodyWf_refused (x : Refusal) : BodyWf (ε := ε) (.refused x) := trivial
end

theorem OutWf.of_next {o : Out} {s : State} (h : OutWf o) (e : o = .next s) : s.mem.wf := by
  subst e; exact h

theorem BodyWf.of_next {ε : Type} {o : Host.Outcome (State × ε) Fault Refusal} {s : State} {x : ε} (h : BodyWf o)
    (e : o = .next (s, x)) : s.mem.wf := by
  subst e; exact h

/-- The state of a pair that a function has answered. -/
theorem wf_of_eq {α : Type} {x : State × α} {t : State} {a : α} (h : x.1.mem.wf) (e : x = (t, a)) : t.mem.wf := by
  subst e; exact h

theorem State.wf_ite {p : Prop} [Decidable p] {s t : State} (hs : s.mem.wf) (ht : t.mem.wf) : (if p then s else t).mem.wf := by
  split
  · exact hs
  · exact ht

theorem bodyWf_ite {ε : Type} {p : Prop} [Decidable p] {o q : Host.Outcome (State × ε) Fault Refusal} (ho : BodyWf o)
    (hq : BodyWf q) : BodyWf (if p then o else q) := by
  split
  · exact ho
  · exact hq

/-- What `mloadFor` and the instructions that save crews come to, as `OutWf`. -/
def SaveWf (e : SaveEff) : Prop :=
  match e with
  | .done s => s.mem.wf
  | _ => True

theorem SaveWf.of_done {e : SaveEff} {s : State} (h : SaveWf e) (x : e = .done s) : s.mem.wf := by
  subst x; exact h

theorem State.wf_foldl {α : Type} {f : State → α → State} (hf : ∀ s a, s.mem.wf → (f s a).mem.wf) (l : List α) {s : State}
    (h : s.mem.wf) : (l.foldl f s).mem.wf :=
  List.foldlRecOn (motive := fun t : State => t.mem.wf = true) l f h (fun t ht a _ => hf t a ht)

/-- As `State.wf_foldl`, where the fold carries something else along. -/
theorem State.wf_foldl_fst {α β : Type} {f : State × β → α → State × β} (hf : ∀ x a, x.1.mem.wf → (f x a).1.mem.wf) (l : List α)
    {x : State × β} (h : x.1.mem.wf) : (l.foldl f x).1.mem.wf :=
  List.foldlRecOn (motive := fun y : State × β => y.1.mem.wf = true) l f h (fun y hy a _ => hf y a hy)

theorem State.mem_foldl {α : Type} {f : State → α → State} (hf : ∀ s a, (f s a).mem = s.mem) (l : List α) (s : State) :
    (l.foldl f s).mem = s.mem :=
  List.foldlRecOn (motive := fun t : State => t.mem = s.mem) l f rfl (fun t ht a _ => (hf t a).trans ht)

theorem State.wf_getD {s : State} {o : Option State} (h : s.mem.wf) (ho : ∀ t, o = some t → t.mem.wf) : (o.getD s).mem.wf := by
  cases o with
  | none => exact h
  | some t => exact ho t rfl

/-- Events that keep memory in its canonical form. -/
def EventsWf (l : List (State → Out)) : Prop := ∀ f ∈ l, ∀ t : State, t.mem.wf → OutWf (f t)

theorem EventsWf.append {l m : List (State → Out)} (hl : EventsWf l) (hm : EventsWf m) : EventsWf (l ++ m) :=
  fun f hf => (List.mem_append.mp hf).elim (hl f) (hm f)

theorem eventsWf_map {α : Type} {l : List α} {f : α → State → Out} (hf : ∀ a t, t.mem.wf → OutWf (f a t)) :
    EventsWf (l.map f) := by
  intro g hg
  obtain ⟨a, -, rfl⟩ := List.mem_map.mp hg
  exact hf a

@[simp] theorem eventsWf_nil : EventsWf [] := by simp [EventsWf]

@[simp] theorem eventsWf_cons {f : State → Out} {l : List (State → Out)} :
    EventsWf (f :: l) ↔ (∀ t : State, t.mem.wf → OutWf (f t)) ∧ EventsWf l :=
  List.forall_mem_cons

theorem eventsWf_singleton {f : State → Out} (hf : ∀ t : State, t.mem.wf → OutWf (f t)) : EventsWf [f] :=
  eventsWf_cons.mpr ⟨hf, eventsWf_nil⟩

theorem eventsWf_flatten_map {α : Type} {l : List α} {f : α → List (State → Out)} (hf : ∀ a, EventsWf (f a)) :
    EventsWf (l.map f).flatten := by
  intro g hg
  obtain ⟨m, hm, hg⟩ := List.mem_flatten.mp hg
  obtain ⟨a, -, rfl⟩ := List.mem_map.mp hm
  exact hf a g hg

@[simp] theorem State.dropShared_mem (s : State) (line : Nat) (keep : List Nat) : (s.dropShared line keep).mem = s.mem :=
  s.mem_dropShared ..

/-! ### The functions of the model -/

/-! #### Functions of Sys2Proof/Machine/Access.lean -/

@[simp] theorem State.fresh_mem (s : State) : s.fresh.2.mem = s.mem := rfl

@[simp] theorem State.onUid_mem (s : State) (core slot uid tid : Nat) (f : Thread → Thread) :
    (s.onUid core slot uid tid f).mem = s.mem := by
  fun_cases State.onUid <;> simp

/-! #### Functions of Sys2Proof/Machine/Mem.lean -/

@[simp] theorem State.advance_mem (s : State) (core : Nat) (t : Time) : (s.advance core t).mem = s.mem := rfl

@[simp] theorem State.addFilter_mem (s : State) (cl line : Nat) : (s.addFilter cl line).mem = s.mem := rfl

@[simp] theorem State.refilter_mem (s : State) (cl set slice : Nat) : (s.refilter cl set slice).mem = s.mem := rfl

@[simp] theorem State.endRsv_mem (s : State) (line : Nat) : (s.endRsv line).mem = s.mem := rfl

@[simp] theorem State.cancelWhere_mem (s : State) (p : MemOp → Reply → Bool) : (s.cancelWhere p).mem = s.mem := rfl

@[simp] theorem State.dropPeers_mem (s : State) (line : Nat) : (s.dropPeers line).mem = s.mem := rfl

@[simp] theorem State.flushOwner_wf {s : State} (h : s.mem.wf) (line : Nat) (keep : Bool) : (s.flushOwner line keep).mem.wf := by
  rw [s.mem_flushOwner]
  cases s.ownerCopy line with
  | none => exact h
  | some p => exact Memory.wf_writeNat h ..

@[simp] theorem State.evictHome_wf {s : State} (h : s.mem.wf) (line : Nat) : (s.evictHome line).mem.wf := by
  unfold State.evictHome
  repeat' split
  all_goals simp [h]

@[simp] theorem State.makeRoom_wf {s : State} (h : s.mem.wf) (line : Nat) : (s.makeRoom line).mem.wf := by
  fun_cases State.makeRoom <;> simp [h]

@[simp] theorem State.demoteLine_wf {s : State} (h : s.mem.wf) (line : Nat) :
    (s.demoteLine line).mem.wf := by simp [State.demoteLine, h]

@[simp] theorem State.touchHome_wf {s : State} (h : s.mem.wf) (line : Nat) (m : CMode) : (s.touchHome line m).mem.wf := by
  unfold State.touchHome
  dsimp only
  repeat' split
  all_goals simp [h]

@[simp] theorem State.startRecall_mem (s : State) (line : Nat) (m : CMode) (wr : Bool) :
    (s.startRecall line m wr).mem = s.mem := rfl

theorem State.awaitFirst_mem {s t : State} {line : Nat} {m : CMode} {wr : Bool} (e : s.awaitFirst line m wr = some t) :
    t.mem = s.mem := by
  revert e
  fun_cases State.awaitFirst <;> rintro ⟨⟩ <;> rfl

theorem State.await_mem {s t : State} {line : Nat} {m : CMode} {wr : Bool} (e : s.await line m wr = some t) : t.mem = s.mem := by
  unfold State.await at e
  split at e
  · cases e; rfl
  · exact State.awaitFirst_mem e

theorem State.awaitLines_mem {s t : State} {l : List (Nat × CMode)} {wr : Bool} (e : s.awaitLines l wr = some t) :
    t.mem = s.mem := by
  obtain ⟨x, -, e⟩ := List.exists_of_findSome?_eq_some e
  exact State.await_mem e

@[simp] theorem State.mergeHome_wf {s : State} (h : s.mem.wf) (pa n v bad : Nat) : (s.mergeHome pa n v bad).mem.wf :=
  Memory.wf_writeNat h ..

@[simp] theorem State.noteAcquire_mem (s : State) (cl : Nat) : (s.noteAcquire cl).mem = s.mem := rfl

@[simp] theorem State.dropLeased_mem (s : State) (cl : Nat) : (s.dropLeased cl).mem = s.mem := rfl

@[simp] theorem State.dropStale_mem (s : State) (cl line : Nat) : (s.dropStale cl line).mem = s.mem := rfl

@[simp] theorem State.acquire_mem (s : State) (cl scope : Nat) (leased : Option Nat) :
    (s.acquire cl scope leased).mem = s.mem := by
  fun_cases State.acquire <;> simp

@[simp] theorem State.sweepCluster_mem (s : State) (cl : Nat) (n : Time) : (s.sweepCluster cl n).mem = s.mem :=
  State.mem_foldl (f := fun t k => t.advance k _) (fun _ _ => rfl) ..

@[simp] theorem State.stampWrite_mem (s : State) (core line : Nat) (n : Time) : (s.stampWrite core line n).mem = s.mem := rfl

@[simp] theorem State.stampRead_mem (s : State) (core line lease : Nat) : (s.stampRead core line lease).mem = s.mem := by
  fun_cases State.stampRead <;> simp

@[simp] theorem State.refreshCopy_mem (s : State) (cl line : Nat) : (s.refreshCopy cl line).mem = s.mem := by
  fun_cases State.refreshCopy <;> simp

@[simp] theorem State.renewCopy_mem (s : State) (cl line : Nat) : (s.renewCopy cl line).mem = s.mem := by
  fun_cases State.renewCopy <;> simp

@[simp] theorem State.renewFor_mem (s : State) (core line : Nat) (p : Time) (plain : Bool) :
    (s.renewFor core line p plain).mem = s.mem := by
  fun_cases State.renewFor <;> simp

@[simp] theorem State.writeHomeAs_wf {s : State} (h : s.mem.wf) (plain : Bool) (core : Nat) (m : CMode) (pa n v bad : Nat)
    (keep : List Nat) :
    (s.writeHomeAs plain core m pa n v bad keep).mem.wf := by
  have h1 : ((s.touchHome (lineOf pa) m).flushOwner (lineOf pa) false).mem.wf := by simp [h]
  unfold State.writeHomeAs
  dsimp only
  split
  · split
    · split <;> simp [State.mem_foldl, h1]
    · simp [h1]
  · simp [State.mem_foldl, h1]

@[simp] theorem State.writeHome_wf {s : State} (h : s.mem.wf) (core : Nat) (m : CMode) (pa n v bad : Nat) (keep : List Nat) :
    (s.writeHome core m pa n v bad keep).mem.wf := by simp [State.writeHome, h]

@[simp] theorem State.readHome_wf {s : State} (h : s.mem.wf) (core : Nat) (m : CMode) (lease pa n : Nat) :
    (s.readHome core m lease pa n).1.mem.wf := by
  unfold State.readHome
  dsimp only
  repeat' split
  all_goals simp [h]

@[simp] theorem State.writeSpad_mem (s : State) (cl off n v : Nat) : (s.writeSpad cl off n v).mem = s.mem := rfl

@[simp] theorem State.poisonSpad_mem (s : State) (cl off n : Nat) : (s.poisonSpad cl off n).mem = s.mem := rfl

@[simp] theorem State.writeAcc_mem (s : State) (core off n v : Nat) : (s.writeAcc core off n v).mem = s.mem := rfl

/-! #### Functions of Sys2Proof/Machine/Device.lean -/

theorem State.putIo_mem {s t : State} {i off : Nat} {v : DWord} (e : s.putIo i off v = some t) : t.mem = s.mem := by
  revert e
  fun_cases State.putIo <;> rintro ⟨⟩ <;> rfl

theorem State.putFw_mem {s t : State} {off : Nat} {v : DWord} (e : s.putFw off v = some t) : t.mem = s.mem := by
  revert e
  fun_cases State.putFw <;> rintro ⟨⟩ <;> simp [apply_ite State.mem]

theorem State.mem_getD {s : State} {o : Option State} (h : ∀ t, o = some t → t.mem = s.mem) : (o.getD s).mem = s.mem := by
  cases o with
  | none => rfl
  | some t => exact h t rfl

@[simp] theorem State.putWord_mem (s : State) (m : Bool) (pa : Nat) (v : DWord) : (s.putWord m pa v).mem = s.mem := by
  unfold State.putWord
  split
  · exact State.mem_getD fun _ => State.putIo_mem
  · split
    · exact State.mem_getD fun _ => State.putFw_mem
    · rfl

@[simp] theorem State.devPut_mem (s : State) (m : Bool) (pa n v : Nat) : (s.devPut m pa n v).mem = s.mem := by simp [State.devPut]

@[simp] theorem State.devWriteFrom_mem (s : State) (m : Bool) (k pa n v : Nat) : (s.devWriteFrom m k pa n v).mem = s.mem := by
  induction k generalizing s pa n v with
  | zero => rfl
  | succ k ih =>
    unfold State.devWriteFrom
    simp only [apply_ite State.mem, ih, State.devPut_mem, ite_self]

@[simp] theorem State.devWrite_mem (s : State) (m : Bool) (pa n v : Nat) :
    (s.devWrite m pa n v).mem = s.mem := by simp [State.devWrite]

@[simp] theorem State.readTarget_wf {s : State} (h : s.mem.wf) (core : Nat) (t : Tlb) (pa n : Nat) :
    (s.readTarget core t pa n).1.mem.wf := by
  fun_cases State.readTarget <;> simp [h]

@[simp] theorem State.writeTarget_wf {s : State} (h : s.mem.wf) (core : Nat) (t : Tlb) (pa n v : Nat) :
    (s.writeTarget core t pa n v).mem.wf := by
  fun_cases State.writeTarget <;> simp [h]

/-! #### Functions of Sys2Proof/Machine/Translate.lean -/

@[simp] theorem State.recallTables_mem (s : State) (i va : Nat) : (s.recallTables i va).mem = s.mem := rfl

@[simp] theorem State.walked_mem (s : State) (fetch : Bool) (core : Nat) (t : Tlb) : (s.walked fetch core t).mem = s.mem := rfl

@[simp] theorem State.noteUse_mem (s : State) (fetch : Bool) (core va : Nat) (t : Tlb) :
    (s.noteUse fetch core va t).mem = s.mem := by
  fun_cases State.noteUse <;> simp

@[simp] theorem State.noteWalk_mem (s : State) (fetch : Bool) (core va : Nat) : (s.noteWalk fetch core va).mem = s.mem := by
  fun_cases State.noteWalk <;> simp

@[simp] theorem State.trapWalk_mem (s : State) (core : Nat) (r : Raise) : (s.trapWalk core r).mem = s.mem := by
  fun_cases State.trapWalk <;> simp

@[simp] theorem State.notePages_mem (s : State) (core : Nat) (l : List Tlb) : (s.notePages core l).mem = s.mem :=
  State.mem_foldl (fun u (t : Tlb) => u.noteUse_mem false core t.vbase t) ..

@[simp] theorem State.noteFor_mem (s : State) (fetch : Bool) (v : Viewer) (hit : Hit) : (s.noteFor fetch v hit).mem = s.mem := by
  fun_cases State.noteFor <;> simp

@[simp] theorem State.noteHit_mem (s : State) (v : Viewer) (hit : Hit) : (s.noteHit v hit).mem = s.mem := by simp [State.noteHit]

/-! #### Functions of Sys2Proof/Machine/Ops.lean -/

@[simp] theorem State.gangMap_mem (s : State) (core slot : Nat) (tids : List Nat) (gsize : Nat) (i : Instr)
    (pre : Ctx → Thread → Option Raise) (f : Ctx → Thread → Thread × Eff) :
    (s.gangMap core slot tids gsize i pre f).mem = s.mem := rfl

@[simp] theorem State.trapThread_mem (s : State) (core slot tid : Nat) (r : Raise) :
    (s.trapThread core slot tid r).mem = s.mem := by
  fun_cases State.trapThread <;> simp +zetaDelta

theorem State.issueOne_wf {s : State} {core slot gsize : Nat} {i : Instr} {pre : State → Ctx → Thread → Option Raise} {body : Body}
    (h : s.mem.wf) (hb : ∀ c t, t.mem.wf → BodyWf (body c t)) (tid : Nat) :
    OutWf (s.issueOne core slot gsize i pre body tid) := by
  fun_cases State.issueOne
  case case8 e => simpa using (hb _ _ (by exact h)).of_next e
  case case10 e => simpa using (hb _ _ (by exact h)).of_next e
  all_goals simp +zetaDelta [h]

theorem State.issueAll_wf {core slot gsize : Nat} {i : Instr} {pre : State → Ctx → Thread → Option Raise} {body : Body}
    (hb : ∀ c t, t.mem.wf → BodyWf (body c t)) (tids : List Nat) {s : State} (h : s.mem.wf) :
    OutWf (State.issueAll core slot gsize i pre body tids s) := by
  induction tids generalizing s with
  | nil => exact h
  | cons t ts ih =>
    unfold State.issueAll
    split
    · next e => exact ih ((State.issueOne_wf h hb t).of_next e)
    · trivial
    · trivial

theorem State.gangFold_wf {s : State} {core slot gsize : Nat} {i : Instr} {pre : State → Ctx → Thread → Option Raise} {body : Body}
    (h : s.mem.wf) (hb : ∀ c t, t.mem.wf → BodyWf (body c t)) (tids : List Nat) :
    OutWf (s.gangFold core slot tids gsize i pre body) := by
  unfold State.gangFold
  split
  · next e => simpa using (State.issueAll_wf hb tids h).of_next e
  · trivial
  · trivial

@[simp] theorem State.beaconException_mem (s : State) (core : Nat) (r : Raise) : (s.beaconException core r).mem = s.mem := by
  fun_cases State.beaconException <;> simp +zetaDelta

@[simp] theorem State.laneSettle_mem (s : State) (core : Nat) (e : LaneEff) : (s.laneSettle core e).mem = s.mem := by
  fun_cases State.laneSettle <;> simp

@[simp] theorem State.laneWalk_mem (s : State) (core : Nat) (r : Raise) : (s.laneWalk core r).mem = s.mem := by
  fun_cases State.laneWalk <;> simp

theorem State.laneRun_wf {s : State} {core : Nat} {i : Instr} {body : Lane → State → Host.Outcome (State × LaneEff) Fault Refusal}
    (h : s.mem.wf) (hb : ∀ l, BodyWf (body l s)) : OutWf (s.laneRun core i body) := by
  fun_cases State.laneRun
  case case5 e => simpa using (hb _).of_next e
  all_goals simp [h]

theorem regOp_wf {s : State} (h : s.mem.wf) (i : Instr) (dist : Nat) (nw : Bool) (d : Opnd) (f : Reads → Res) :
    OutWf (regOp i dist nw d f s) := by
  fun_cases regOp
  case case3 => exact State.laneRun_wf h fun l => by simp [h]
  all_goals simp [h]

theorem localOp_wf {s : State} (h : s.mem.wf) (i : Instr) (f : Ctx → Thread → Thread × Eff) : OutWf (localOp i f s) := by
  fun_cases localOp <;> simp [h]

theorem sharedOp_wf {s : State} {i : Instr} {pre : State → Ctx → Thread → Option Raise} {body : Body} (h : s.mem.wf)
    (hb : ∀ c t, t.mem.wf → BodyWf (body c t)) : OutWf (sharedOp i pre body s) := by
  fun_cases sharedOp
  case case2 => exact State.gangFold_wf h hb _
  all_goals simp [h]

theorem bothOp_wf {s : State} {i : Instr} {pre : State → Ctx → Thread → Option Raise} {body : Body}
    {lane : Nat → Lane → State → Host.Outcome (State × LaneEff) Fault Refusal} (h : s.mem.wf)
    (hb : ∀ c t, t.mem.wf → BodyWf (body c t)) (hl : ∀ k l t, t.mem.wf → BodyWf (lane k l t)) :
    OutWf (bothOp i pre body lane s) := by
  fun_cases bothOp
  · exact h
  · exact State.gangFold_wf h hb _
  · exact State.laneRun_wf h fun l => hl _ l s h

theorem laneOp_wf {s : State} {i : Instr} {lane : Nat → Lane → State → Host.Outcome (State × LaneEff) Fault Refusal}
    (h : s.mem.wf)
    (hl : ∀ k l t, t.mem.wf → BodyWf (lane k l t)) : OutWf (laneOp i lane s) := by
  fun_cases laneOp
  case case3 => exact State.laneRun_wf h fun l => hl _ l s h
  all_goals simp [h]

/-! #### Functions of Sys2Proof/Machine/Coherence.lean -/

@[simp] theorem State.startDemotion_mem (s : State) (o : MemOp) : (s.startDemotion o).mem = s.mem := by
  fun_cases State.startDemotion <;> simp

@[simp] theorem State.takeValue_mem (s : State) (o : MemOp) (v : Nat) (bad : Bool) : (s.takeValue o v bad).mem = s.mem := by
  fun_cases State.takeValue <;> simp +zetaDelta

@[simp] theorem State.completeOp_mem (s : State) (o : MemOp) : (s.completeOp o).mem = s.mem := by simp [State.completeOp]

@[simp] theorem State.captureLoad_wf {s : State} (h : s.mem.wf) (o : MemOp) : (s.captureLoad o).mem.wf := by
  fun_cases State.captureLoad
  case case7 e => simp +zetaDelta [State.await_mem e, h]
  case case8 e => simp [wf_of_eq (State.readHome_wf (by simp +zetaDelta [h]) ..) e]
  case case9 s1 => simp only [State.takeValue_mem, s1]; split <;> simp [h]
  all_goals simp [h]

@[simp] theorem State.loadReturn_wf {s : State} (h : s.mem.wf) (id parts : Nat) : (s.loadReturn id parts).mem.wf := by
  unfold State.loadReturn
  dsimp only
  repeat' split
  all_goals simp [h]

@[simp] theorem State.evictCopy_wf {s : State} (h : s.mem.wf) (cl line : Nat) : (s.evictCopy cl line).mem.wf := by
  unfold State.evictCopy
  dsimp only
  repeat' split
  all_goals simp [h]

@[simp] theorem State.makeWay_wf {s : State} (h : s.mem.wf) (cl line : Nat) : (s.makeWay cl line).mem.wf := by
  fun_cases State.makeWay <;> simp [h]

@[simp] theorem State.install_wf {s : State} (h : s.mem.wf) (cl line : Nat) (x : L1Line) : (s.install cl line x).mem.wf := by
  fun_cases State.install <;> simp [h]

@[simp] theorem State.bringLine_wf {s : State} (h : s.mem.wf) (core pa : Nat) (t : Tlb) (keep : Nat) :
    (s.bringLine core pa t keep).mem.wf := by
  have h1 : ((s.touchHome (lineOf pa) t.mode).makeWay (clusterOf core) (lineOf pa)).mem.wf := by simp [h]
  fun_cases State.bringLine
  case case2 e => simp +zetaDelta [State.await_mem e, h]
  all_goals simp +zetaDelta [h, h1]

theorem State.serve_mem {s t : State} {o : MemOp} {excl b : Bool} {exempt : List Nat} (e : s.serve o excl exempt = (t, b)) :
    t.mem = s.mem := by
  revert e
  fun_cases State.serve <;> rintro ⟨⟩ <;> rfl

@[simp] theorem State.sendReply_mem (s : State) (o : MemOp) (r : Reply) : (s.sendReply o r).mem = s.mem := rfl

@[simp] theorem State.grantLine_wf {s : State} (h : s.mem.wf) (o : MemOp) (k : GrantKind) : (s.grantLine o k).mem.wf := by
  unfold State.grantLine
  split <;> simp [h]

@[simp] theorem State.readRequest_wf {s : State} (h : s.mem.wf) (id : Nat) : (s.readRequest id).mem.wf := by
  fun_cases State.readRequest
  case case3 e => simp +zetaDelta [State.serve_mem e, h]
  case case4 e _ => simp +zetaDelta [State.serve_mem e, h]
  case case5 e _ _ => exact State.grantLine_wf (by simp +zetaDelta [State.serve_mem e, h]) ..
  case case6 e _ _ => exact State.grantLine_wf (by simp +zetaDelta [State.serve_mem e, h]) ..
  all_goals exact h

@[simp] theorem State.ownershipRequest_wf {s : State} (h : s.mem.wf) (id : Nat) : (s.ownershipRequest id).mem.wf := by
  fun_cases State.ownershipRequest
  case case3 e => simp +zetaDelta [State.serve_mem e, h]
  case case4 e => exact State.grantLine_wf (by simp +zetaDelta [State.serve_mem e, h]) ..
  all_goals exact h

@[simp] theorem State.installLease_wf {s : State} (h : s.mem.wf) (cl line : Nat) (x : L1Line) (noalloc : Bool) :
    (s.installLease cl line x noalloc).mem.wf := by
  fun_cases State.installLease <;> simp [h]

@[simp] theorem State.installShared_wf {s : State} (h : s.mem.wf) (cl line : Nat) (x : L1Line) :
    (s.installShared cl line x).mem.wf := by
  fun_cases State.installShared <;> simp [h]

@[simp] theorem State.dataReply_wf {s : State} (h : s.mem.wf) (id : Nat) : (s.dataReply id).mem.wf := by
  unfold State.dataReply
  dsimp only
  repeat' split
  all_goals simp [h]

@[simp] theorem State.invalidateLine_mem (s : State) (cl line : Nat) : (s.invalidateLine cl line).mem = s.mem := by
  fun_cases State.invalidateLine <;> simp

@[simp] theorem State.answerRecall_wf {s : State} (h : s.mem.wf) (cl line : Nat) (toI : Bool) :
    (s.answerRecall cl line toI).mem.wf := by
  unfold State.answerRecall
  split <;> simp [h]

@[simp] theorem State.recallLine_wf {s : State} (h : s.mem.wf) (cl line : Nat) : (s.recallLine cl line).mem.wf := by
  fun_cases State.recallLine <;> simp [h]

@[simp] theorem State.recallExpiry_wf {s : State} (h : s.mem.wf) (cl line : Nat) : (s.recallExpiry cl line).mem.wf := by
  fun_cases State.recallExpiry <;> simp [h]

@[simp] theorem State.writebackLine_wf {s : State} (h : s.mem.wf) (cl line : Nat) : (s.writebackLine cl line).mem.wf := by
  fun_cases State.writebackLine <;> simp [h]

@[simp] theorem State.setRecall_wf {s : State} (h : s.mem.wf) (cl set slice : Nat) : (s.setRecall cl set slice).mem.wf := by
  unfold State.setRecall
  split
  · exact h
  · simpa using State.wf_foldl (fun _ _ h => State.evictCopy_wf h cl _) _ h

@[simp] theorem State.filterAck_mem (s : State) (cl set slice : Nat) : (s.filterAck cl set slice).mem = s.mem := rfl

@[simp] theorem State.peerProbe_wf {s : State} (h : s.mem.wf) (id peer : Nat) : (s.peerProbe id peer).mem.wf := by
  fun_cases State.peerProbe <;> simp +zetaDelta [h]

@[simp] theorem State.peerRegister_mem (s : State) (id : Nat) : (s.peerRegister id).mem = s.mem := by
  unfold State.peerRegister
  dsimp only
  repeat' split
  all_goals simp

@[simp] theorem State.leaseRead_wf {s : State} (h : s.mem.wf) (id : Nat) : (s.leaseRead id).mem.wf := by
  have h1 (line : Nat) : ((s.touchHome line .selfInv).flushOwner line true).mem.wf := by simp [h]
  unfold State.leaseRead
  dsimp only
  repeat' split
  all_goals simp [h, h1]

@[simp] theorem State.markStored_mem (s : State) (o : MemOp) : (s.markStored o).mem = s.mem := rfl

@[simp] theorem State.leaseMerge_wf {s : State} (h : s.mem.wf) (o : MemOp) (raised : Bool) (v : Nat) :
    (s.leaseMerge o raised v).mem.wf := by simp [State.leaseMerge, h]

@[simp] theorem State.leaseWrite_wf {s : State} (h : s.mem.wf) (id : Nat) : (s.leaseWrite id).mem.wf := by
  have h1 (line : Nat) (m : CMode) : ((s.touchHome line m).flushOwner line false).mem.wf := by simp [h]
  fun_cases State.leaseWrite <;> simp +zetaDelta [h, h1]

@[simp] theorem State.sweepFor_mem (s : State) (id cl : Nat) : (s.sweepFor id cl).mem = s.mem := by
  fun_cases State.sweepFor <;> simp

@[simp] theorem State.applyAtom_wf {s : State} (h : s.mem.wf) (o : MemOp) (f : AtomFn) (leased raised : Bool) :
    (s.applyAtom o f leased raised).mem.wf := by
  unfold State.applyAtom
  repeat' split
  all_goals simp [h]

@[simp] theorem State.atomicApply_wf {s : State} (h : s.mem.wf) (id : Nat) : (s.atomicApply id).mem.wf := by
  have h1 (line : Nat) (m : CMode) : ((s.touchHome line m).flushOwner line false).mem.wf := by simp [h]
  fun_cases State.atomicApply
  case case7 e => simp +zetaDelta [State.await_mem e, h]
  case case9 e _ => simp +zetaDelta [State.serve_mem e, h]
  case case10 e _ => exact State.applyAtom_wf (by simp +zetaDelta [State.serve_mem e, h]) ..
  all_goals simp +zetaDelta [h, h1]

@[simp] theorem State.heldRelease_wf {s : State} (h : s.mem.wf) (id : Nat) : (s.heldRelease id).mem.wf := by
  fun_cases State.heldRelease <;> simp [h]

@[simp] theorem State.floorDelivery_mem (s : State) (i : Nat) : (s.floorDelivery i).mem = s.mem := by
  unfold State.floorDelivery
  dsimp only
  split
  · rfl
  · exact State.mem_foldl (f := fun u cl => u.onCluster cl _) (fun _ _ => rfl) ..

@[simp] theorem State.ptsTick_mem (s : State) (core : Nat) : (s.ptsTick core).mem = s.mem := by
  fun_cases State.ptsTick <;> simp

@[simp] theorem State.homeWrite_wf {s : State} (h : s.mem.wf) (id : Nat) : (s.homeWrite id).mem.wf := by
  have h1 (line : Nat) (m : CMode) (k : Bool) : ((s.touchHome line m).flushOwner line k).mem.wf := by simp [h]
  have h2 (line cl : Nat) (m : CMode) (c : Nat) : (match (s.touchHome line m).lines.find line with
      | some h => if h.owner = some cl ∧ c = 2 then (s.touchHome line m).flushOwner line true else s.touchHome line m
      | none => s.touchHome line m).mem.wf := by
    repeat' split
    all_goals simp [h, h1]
  fun_cases State.homeWrite
  case case6 e => simp +zetaDelta [State.await_mem e, h]
  case case8 e => rw [State.serve_mem e]; exact h2 ..
  case case9 e => simpa using State.mergeHome_wf (by rw [State.serve_mem e]; exact h2 ..) ..
  all_goals simp +zetaDelta [h, h1]

@[simp] theorem State.storeInL1_mem (s : State) (o : MemOp) (x : L1Line) : (s.storeInL1 o x).mem = s.mem := rfl

@[simp] theorem State.finishStore_mem (s : State) (o : MemOp) (status : Nat) : (s.finishStore o status).mem = s.mem := by
  fun_cases State.finishStore <;> simp

@[simp] theorem State.storePerformed_mem (s : State) (id : Nat) : (s.storePerformed id).mem = s.mem := by
  fun_cases State.storePerformed <;> simp

/-! #### Functions of Sys2Proof/Machine/Memory.lean -/

theorem State.access_wf {s : State} {c : Ctx} {w : Want} {a : Opnd} {k : Thread → Hit → State → Act1} (h : s.mem.wf)
    (hk : ∀ th x t, t.mem.wf → BodyWf (k th x t)) : BodyWf (s.access c w a k) := by
  fun_cases State.access
  case case3 => exact hk _ _ _ (by simpa using h)
  all_goals exact h

@[simp] theorem State.startRead_wf {s : State} (h : s.mem.wf) (o : MemOp) (w : Want) (hit : Hit) (mem : Bool) (e : Eff) :
    BodyWf (s.startRead o w hit mem e) := by
  fun_cases State.startRead <;> simp [h]

@[simp] theorem State.startWrite_wf {s : State} (h : s.mem.wf) (o : MemOp) (w : Want) (hit : Hit) (ret : Bool) (e : Eff) :
    BodyWf (s.startWrite o w hit ret e) := by
  fun_cases State.startWrite <;> simp [h]

theorem State.laneWait_mem {s t : State} {core : Nat} {w : Want} {h : Hit} (e : s.laneWait core w h = some t) :
    t.mem = s.mem := by
  unfold State.laneWait at e
  repeat' split at e
  case isTrue.isTrue => cases e; rfl
  case h_1.isTrue => exact State.await_mem e
  all_goals cases e

theorem State.laneCheck_wf {s : State} {core : Nat} {w : Want} {f : Formed} {k : Hit → State → LaneAct} (h : s.mem.wf)
    (hk : ∀ x t, t.mem.wf → BodyWf (k x t)) : BodyWf (s.laneCheck core w f k) := by
  fun_cases State.laneCheck
  case case2 e => simp [State.laneWait_mem e, h]
  case case3 => exact hk _ _ (by simpa using h)
  all_goals exact h

theorem State.laneAccess_wf {s : State} {core : Nat} {w : Want} {a : Opnd} {k : Hit → State → LaneAct} (h : s.mem.wf)
    (hk : ∀ x t, t.mem.wf → BodyWf (k x t)) : BodyWf (s.laneAccess core w a k) :=
  State.laneCheck_wf h hk

theorem State.laneRead_wf {s : State} {core : Nat} {w : Want} {x : Hit} {k : Nat → State → LaneAct} (h : s.mem.wf)
    (hk : ∀ v t, t.mem.wf → BodyWf (k v t)) : BodyWf (s.laneRead core w x k) := by
  have put {t : State} (ht : t.mem.wf) (v : Nat) (bad : Bool) (r : Raise) :
      BodyWf (if bad = true then .next (t, .exc r) else k v t) := by
    cases bad
    · exact hk v t ht
    · exact ht
  fun_cases State.laneRead
  case case3 => exact hk _ _ h
  case case4 e => exact put (wf_of_eq (State.readHome_wf h ..) e) ..
  all_goals exact put h ..

@[simp] theorem State.laneWrite_wf {s : State} (h : s.mem.wf) (core : Nat) (plain : Bool) (w : Want) (x : Hit) (v : Nat) :
    (s.laneWrite core plain w x v).mem.wf := by
  fun_cases State.laneWrite <;> simp [h]

@[simp] theorem State.laneStore_wf {s : State} (h : s.mem.wf) (core : Nat) (w : Want) (hit : Hit) (x : Nat) (e : LaneEff) :
    BodyWf (s.laneStore core w hit x e) := by simp [State.laneStore, h]

@[simp] theorem State.laneAcquire_mem (s : State) (core scope : Nat) (hit : Hit) :
    (s.laneAcquire core scope hit).mem = s.mem := by simp [State.laneAcquire]

theorem execLd_wf {s : State} (h : s.mem.wf) (seg : BitVec 3) (flag : BitVec 4) (d a : Opnd) (size : LdSize) :
    OutWf (execLd seg flag d a size s) :=
  bothOp_wf h (fun _ _ ht => State.access_wf ht fun _ _ _ ht => by simp [ht])
    (fun _ _ _ ht => State.laneAccess_wf ht fun _ _ ht => State.laneRead_wf ht fun _ _ ht => by simp [ht])

theorem execSt_wf {s : State} (h : s.mem.wf) (seg : BitVec 3) (flag : BitVec 4) (d a : Opnd) (size : StSize) :
    OutWf (execSt seg flag d a size s) :=
  bothOp_wf h (fun _ _ ht => State.access_wf ht fun _ _ _ ht => by simp [ht])
    (fun _ _ _ ht => State.laneAccess_wf ht fun _ _ ht => by simp [ht])

theorem execLdx_wf {s : State} (h : s.mem.wf) (seg : BitVec 3) (flag : BitVec 4) (d a : Opnd) (size : XSize) :
    OutWf (execLdx seg flag d a size s) :=
  bothOp_wf h (fun _ _ ht => State.access_wf ht fun _ _ _ ht => by simp [ht])
    (fun _ _ _ ht => State.laneAccess_wf ht fun _ _ ht => State.laneRead_wf ht fun _ _ ht => by simp [ht])

theorem execStx_wf {s : State} (h : s.mem.wf) (seg : BitVec 3) (flag : BitVec 4) (d a : Opnd) (size : XSize) :
    OutWf (execStx seg flag d a size s) :=
  bothOp_wf h (fun _ _ ht => State.access_wf ht fun _ _ _ ht => by simp [ht])
    (fun _ _ _ ht => State.laneAccess_wf ht fun _ _ ht => by dsimp only; split <;> simp [ht])

@[simp] theorem State.prefetch_wf {s : State} (h : s.mem.wf) (v : Viewer) (w : Want) (f : Formed) (keep : Nat) :
    (s.prefetch v w f keep).mem.wf := by
  fun_cases State.prefetch <;> simp [h]

@[simp] theorem execPf_wf {s : State} (h : s.mem.wf) (seg : BitVec 3) (a : Opnd) :
    OutWf (execPf seg a s) := bothOp_wf h (fun c t ht => by split <;> simp [ht]) (fun k l t ht => by simp [ht])

@[simp] theorem execLea_wf {s : State} (h : s.mem.wf) (seg : BitVec 3) (d a : Opnd) :
    OutWf (execLea seg d a s) := bothOp_wf h (fun c t ht => by split <;> simp [ht]) (fun k l t ht => by simp [ht])

@[simp] theorem execSegq_wf {s : State} (h : s.mem.wf) (seg : BitVec 3) (d : Opnd) (w : BitVec 2) :
    OutWf (execSegq seg d w s) := bothOp_wf h (fun c t ht => by simp [ht]) (fun k l t ht => by simp [ht])

@[simp] theorem execSegld_wf {s : State} (h : s.mem.wf) (seg : BitVec 3) (d : Opnd) :
    OutWf (execSegld seg d s) := bothOp_wf h (fun c t ht => by simp [ht]) (fun k l t ht => by simp [ht])

theorem execLdAcq_wf {s : State} (h : s.mem.wf) (flag : BitVec 4) (p : Opnd) (dbl : Bool) (pair k : BitVec 5) :
    OutWf (execLdAcq flag p dbl pair k s) :=
  bothOp_wf h (fun _ _ ht => State.access_wf ht fun _ _ _ ht => by simp [ht])
    (fun _ _ _ ht => State.laneAccess_wf ht fun _ _ ht => State.laneRead_wf ht fun _ _ ht => by simp [ht])

theorem execStRel_wf {s : State} (h : s.mem.wf) (flag : BitVec 4) (p : Opnd) (dbl : Bool) (pair k : BitVec 5) :
    OutWf (execStRel flag p dbl pair k s) :=
  bothOp_wf h (fun _ _ ht => State.access_wf ht fun _ _ _ ht => by simp [ht])
    (fun _ _ _ ht => State.laneAccess_wf ht fun _ _ ht => by simp [ht])

theorem State.laneAtom_wf {s : State} {core : Nat} {w : Want} {x : Hit} {f : AtomFn} {v e : Word} {k : Word → State → LaneAct}
    (h : s.mem.wf) (hk : ∀ v t, t.mem.wf → BodyWf (k v t)) : BodyWf (s.laneAtom core w x f v e k) := by
  fun_cases State.laneAtom
  case case2 => exact hk _ _ (by simp [h])
  case case3 => exact hk _ _ h
  case case5 => exact hk _ _ (by simp [h])
  case case6 e _ _ => exact hk _ _ (wf_of_eq (State.readHome_wf h ..) e)
  all_goals exact h

@[simp] theorem State.startAtom_wf {s : State} (h : s.mem.wf) (o : MemOp) (w : Want) (x : Hit) (f : AtomFn) (mem : Bool) :
    BodyWf (s.startAtom o w x f mem) := by
  unfold State.startAtom
  dsimp only
  repeat' split
  all_goals simp [h]

theorem atomOp_wf {s : State} (h : s.mem.wf) (i : Instr) (f : AtomFn) (flag : BitVec 4) (p : Opnd) (ord : AtomOrd)
    (pair k : BitVec 5) : OutWf (atomOp i f flag p ord pair k s) :=
  bothOp_wf h (fun _ _ ht => State.access_wf ht fun _ _ _ ht => by simp [ht])
    (fun _ _ _ ht => State.laneAccess_wf ht fun _ _ ht => State.laneAtom_wf ht fun _ _ ht => by
      simp [apply_ite State.mem, ht])

@[simp] theorem State.fenceAcquires_mem (s : State) (c : Ctx) (scope : Nat) : (s.fenceAcquires c scope).mem = s.mem := rfl

@[simp] theorem execFence_wf {s : State} (h : s.mem.wf) (ord : FenceOrd) (k : BitVec 5) :
    OutWf (execFence ord k s) :=
  bothOp_wf h (fun c t ht => by dsimp only; (repeat' split) <;> simp [ht]) (fun k l t ht => by split <;> simp [ht])

/-! #### Functions of Sys2Proof/Machine/Picker.lean -/

@[simp] theorem State.noteDivide_mem (s : State) (core : Nat) (tids : List Nat) (i : Instr) :
    (s.noteDivide core tids i).mem = s.mem := by
  fun_cases State.noteDivide <;> simp

@[simp] theorem State.fetched_wf {s : State} (h : s.mem.wf) (v : Viewer) (pc : Word) : (s.fetched v pc).mem.wf := by
  fun_cases State.fetched <;> simp +zetaDelta [h]

@[simp] theorem State.noteFetch_wf {s : State} (h : s.mem.wf) (c : Ctx) (th : Thread) : (s.noteFetch c th).mem.wf := by
  fun_cases State.noteFetch <;> simp [h]

@[simp] theorem State.fetchTrap_mem (s : State) (core : Nat) (g : Gang) (r : Raise) : (s.fetchTrap core g r).mem = s.mem := rfl

/-! #### Functions of Sys2Proof/Machine/Barrier.lean -/

@[simp] theorem State.fitCrew_mem (s : State) (core slot : Nat) (spad acc : Bool) :
    (s.fitCrew core slot spad acc).mem = s.mem := by
  fun_cases State.fitCrew <;> simp

@[simp] theorem execRacq_wf {s : State} (h : s.mem.wf) (a : Opnd) : OutWf (execRacq a s) := sharedOp_wf h fun c t ht => by
  dsimp only
  repeat' split
  all_goals simp [ht]

@[simp] theorem execRacqGrant_wf {s : State} (h : s.mem.wf) (core : Nat) : OutWf (execRacqGrant core s) := by
  fun_cases execRacqGrant <;> simp +zetaDelta [h]

@[simp] theorem State.dropForwarded_mem (s : State) (gone : Forward → Permit → Bool) : (s.dropForwarded gone).mem = s.mem := rfl

@[simp] theorem execRrel_wf {s : State} (h : s.mem.wf) (a : Opnd) : OutWf (execRrel a s) := sharedOp_wf h fun c t ht => by
  dsimp only
  repeat' split
  all_goals simp [ht]

@[simp] theorem State.setBarrier_mem (s : State) (core b : Nat) (x : Barrier) : (s.setBarrier core b x).mem = s.mem := rfl

@[simp] theorem State.barComplete_mem (s : State) (core b : Nat) : (s.barComplete core b).mem = s.mem := rfl

@[simp] theorem State.barCount_mem (s : State) (core b : Nat) : (s.barCount core b).mem = s.mem := by
  fun_cases State.barCount <;> simp +zetaDelta

@[simp] theorem State.matArrive_mem (s : State) (core : Nat) : (s.matArrive core).mem = s.mem := by
  fun_cases State.matArrive <;> simp

@[simp] theorem State.barArrive_mem (s : State) (core slot tid b : Nat) :
    (s.barArrive core slot tid b).mem = s.mem := by simp [State.barArrive]

@[simp] theorem State.barWaitEff_mem (s : State) (c : Ctx) (b : Nat) : (s.barWaitEff c b).1.mem = s.mem := rfl

@[simp] theorem execBarSet_wf {s : State} (h : s.mem.wf) (a : Opnd) (b : BitVec 7) :
    OutWf (execBarSet a b s) := sharedOp_wf h fun c t ht => by
  dsimp only
  repeat' split
  all_goals simp [ht]

@[simp] theorem execBarArrive_wf {s : State} (h : s.mem.wf) (b : BitVec 7) :
    OutWf (execBarArrive b s) := sharedOp_wf h fun c t ht => by simp [ht]

@[simp] theorem execBarWait_wf {s : State} (h : s.mem.wf) (b : BitVec 7) :
    OutWf (execBarWait b s) := sharedOp_wf h fun c t ht => by simp [ht]

@[simp] theorem State.gangArrive_mem (s : State) (core slot : Nat) (i : Instr) (tids : List Nat) (b : Nat) :
    (s.gangArrive core slot i tids b).mem = s.mem := by
  refine State.mem_foldl (fun u t => ?_) ..
  split
  · split <;> simp
  · rfl

theorem execBarSync_wf {s : State} (h : s.mem.wf) (b : BitVec 7) : OutWf (execBarSync b s) :=
  sharedOp_wf (by split <;> simp [h]) fun _ _ ht => by simp [ht]

/-! #### Functions of Sys2Proof/Machine/Control.lean -/

theorem branchOp_wf {s : State} (h : s.mem.wf) (i : Instr) (f : Reads → Word → Option Word) : OutWf (branchOp i f s) := by
  unfold branchOp
  split
  · exact h
  · exact h
  · exact State.laneRun_wf h fun l => by split <;> exact h

theorem callOp_wf {s : State} (h : s.mem.wf) (i : Instr) (f : Reads → Word → Word) : OutWf (callOp i f s) := by
  refine bothOp_wf h (fun c t ht => ?_) fun _ _ _ ht => State.laneCheck_wf ht fun _ _ ht => by simp [ht]
  split
  · exact ht
  · dsimp only
    split <;> simp [ht]

theorem execRet_wf {s : State} (h : s.mem.wf) : OutWf (execRet s) := by
  refine bothOp_wf h (fun c t ht => ?_)
    fun _ _ _ ht => State.laneCheck_wf ht fun _ _ ht => State.laneRead_wf ht fun _ _ ht => by simp [ht]
  split
  · exact ht
  · split <;> simp [ht]

@[simp] theorem execBrk_wf {s : State} (h : s.mem.wf) (code : BitVec 18) :
    OutWf (execBrk code s) := sharedOp_wf h fun c t ht => by simp [ht]

@[simp] theorem execMcall_wf {s : State} (h : s.mem.wf) (p0 p1 : Opnd) (entry : BitVec 7) :
    OutWf (execMcall p0 p1 entry s) := sharedOp_wf h fun c t ht => by
  dsimp only
  repeat' split
  all_goals simp [ht]

/-! #### Functions of Sys2Proof/Machine/Converge.lean -/

@[simp] theorem execRmset_wf {s : State} (h : s.mem.wf) (d a : Opnd) (r : BitVec 3) :
    OutWf (execRmset d a r s) := sharedOp_wf h fun c t ht => by
  dsimp only
  repeat' split
  all_goals simp [ht]

@[simp] theorem rjOp_wf {s : State} (h : s.mem.wf) (i : Instr) (kind : RjKind) (r : BitVec 3) :
    OutWf (rjOp i kind r s) := sharedOp_wf h fun c t ht => by
  dsimp only
  repeat' split
  all_goals simp [ht]

@[simp] theorem execCvset_wf {s : State} (h : s.mem.wf) (d a : Opnd) (cv : BitVec 4) :
    OutWf (execCvset d a cv s) := sharedOp_wf h fun c t ht => by
  dsimp only
  repeat' split
  all_goals simp [ht]

@[simp] theorem State.sign_mem (s : State) (c : Ctx) (th : Thread) (w : Crew) (n op sub : Nat) (p q : Word) (dst flag : Nat) :
    (s.sign c th w n op sub p q dst flag).1.mem = s.mem := by
  fun_cases State.sign <;> simp +zetaDelta

@[simp] theorem collectiveOp_wf {s : State} (h : s.mem.wf) (i : Instr) (op sub : Nat) (reads : Bool) (p q : Opnd)
    (cv : BitVec 4) :
    OutWf (collectiveOp i op sub reads p q cv s) := sharedOp_wf h fun c t ht => by split <;> simp [ht]

/-! #### Functions of Sys2Proof/Machine/Matrix.lean -/

@[simp] theorem execThdl_wf {s : State} (h : s.mem.wf) (p : Opnd) (k : BitVec 5) :
    OutWf (execThdl p k s) := sharedOp_wf h fun c t ht => by
  dsimp only
  repeat' split
  all_goals simp [ht]

@[simp] theorem execThfree_wf {s : State} (h : s.mem.wf) (k : BitVec 5) :
    OutWf (execThfree k s) := sharedOp_wf h fun c t ht => by simp [ht]

theorem execMma_wf {s : State} (h : s.mem.wf) (flag : BitVec 4) (p : Opnd) (cv : BitVec 4) : OutWf (execMma flag p cv s) := by
  refine sharedOp_wf h fun c t ht => ?_
  split
  · dsimp only
    split
    · next e => simpa using wf_of_eq (by simpa using ht) e
    · simp [ht]
  · exact ht

@[simp] theorem State.closeMma_wf {s : State} (h : s.mem.wf) (core slot n : Nat) : OutWf (s.closeMma core slot n) := by
  fun_cases State.closeMma <;> simp +zetaDelta [h]

@[simp] theorem execMmaEnterQueue_wf {s : State} (h : s.mem.wf) (core : Nat) : OutWf (execMmaEnterQueue core s) := by
  fun_cases execMmaEnterQueue <;> simp [h]

theorem State.fetchPiece_wf {s t : State} {core : Nat} {u v : MmaWork} {x : Nat × Nat × Nat} (h : s.mem.wf)
    (e : s.fetchPiece core u x = .ok (t, v)) : t.mem.wf := by
  revert e
  fun_cases State.fetchPiece <;> rintro ⟨⟩
  case case8 e _ _ => simpa using wf_of_eq (State.readHome_wf (by simpa using h) ..) e
  all_goals exact h

theorem State.pieceWaits_mem {s t : State} {core : Nat} {u : MmaWork} {x : Nat × Nat × Nat}
    (e : s.pieceWaits core u x = some t) : t.mem = s.mem := by
  unfold State.pieceWaits at e
  dsimp only at e
  repeat' split at e
  case h_2 => exact State.await_mem e
  all_goals cases e

theorem State.fetchPieces_wf {core : Nat} {l : List
    (Nat × Nat × Nat)} {s : State} {u : MmaWork} {t : State} {v : MmaWork} {b : Bool}
    (h : s.mem.wf) (e : State.fetchPieces core l s u = .ok (t, v, b)) : t.mem.wf := by
  induction l generalizing s u with
  | nil => cases e; exact h
  | cons x l ih =>
    unfold State.fetchPieces at e
    split at e
    · next e1 => cases e; rw [State.pieceWaits_mem e1]; exact h
    · split at e
      · cases e
      · next e1 => exact ih (State.fetchPiece_wf h e1) e

@[simp] theorem State.unpin_mem (s : State) (got : FMap (Nat × Nat × Option Nat)) : (s.unpin got).mem = s.mem :=
  State.mem_foldl (fun t x => by split <;> simp) ..

@[simp] theorem State.setHead_mem (s : State) (core : Nat) (m : MatOp) : (s.setHead core m).mem = s.mem := rfl

@[simp] theorem State.endHead_mem (s : State) (core : Nat) (m : MatOp) : (s.endHead core m).mem = s.mem :=
  State.mem_foldl (fun _ _ => State.onUid_mem ..) ..

@[simp] theorem State.acceptMma_mem (s : State) (core : Nat) (m : MatOp) (u : MmaWork) : (s.acceptMma core m u).mem = s.mem :=
  State.mem_foldl (fun _ _ => State.onUid_mem ..) ..

theorem execMmaOperandArrival_wf {s : State} (h : s.mem.wf) (core : Nat) : OutWf (execMmaOperandArrival core s) := by
  unfold execMmaOperandArrival
  split
  · exact h
  · split
    · exact h
    · split
      · exact h
      · next e => simpa using State.fetchPieces_wf h e
      · next e => simpa [apply_ite State.mem] using State.fetchPieces_wf h e

@[simp] theorem execMmaOperandFault_wf {s : State} (h : s.mem.wf) (core : Nat) : OutWf (execMmaOperandFault core s) := by
  unfold execMmaOperandFault
  dsimp only
  repeat' split
  all_goals simp [h]

@[simp] theorem State.putRow_mem (s : State) (core off v : Nat) : (s.putRow core off v).mem = s.mem := rfl

@[simp] theorem State.kstep_mem (s : State) (core : Nat) (m : MatOp) (u : MmaWork) : (s.kstep core m u).mem = s.mem := by
  refine (State.mem_foldl (fun _ _ => State.putRow_mem ..) ..).trans ?_
  split <;> simp

@[simp] theorem State.endMma_mem (s : State) (core : Nat) (m : MatOp) (u : MmaWork) : (s.endMma core m u).mem = s.mem := by
  fun_cases State.endMma <;> simp +zetaDelta

@[simp] theorem execMmaKstep_wf {s : State} (h : s.mem.wf) (core : Nat) : OutWf (execMmaKstep core s) := by
  fun_cases execMmaKstep <;> simp +zetaDelta [h]

@[simp] theorem State.launchMat_mem (s : State) (c : Ctx) (th : Thread) (kind : MatKind) (off flag : Nat) (detail : Nat)
    (wait : Bool) :
    (s.launchMat c th kind off flag detail wait).mem = s.mem := rfl

@[simp] theorem execMmz_wf {s : State} (h : s.mem.wf) (flag : BitVec 4) (p : Opnd) :
    OutWf (execMmz flag p s) := sharedOp_wf h fun c t ht => by
  dsimp only
  repeat' split
  all_goals simp [ht]

@[simp] theorem accOp_wf {s : State} (h : s.mem.wf) (i : Instr) (wr : Bool) (flag : BitVec 4) (p q : Opnd) :
    OutWf (accOp i wr flag p q s) := sharedOp_wf h fun c t ht => by
  dsimp only
  repeat' split
  all_goals simp [ht]

@[simp] theorem execMmzExecute_wf {s : State} (h : s.mem.wf) (core : Nat) : OutWf (execMmzExecute core s) := by
  fun_cases execMmzExecute <;> simp [h]

theorem State.rowWaits_mem {s u : State} {t : Tlb} {pa : Nat} {wr : Bool} (e : s.rowWaits t pa wr = some u) : u.mem = s.mem :=
  State.awaitLines_mem e

@[simp] theorem State.readLines_wf {s : State} (h : s.mem.wf) (core : Nat) (t : Tlb) (pa n : Nat) :
    (State.readLines core t pa n s).1.mem.wf := by
  induction n generalizing s pa with
  | zero => exact h
  | succ n ih =>
    unfold State.readLines
    split
    next e1 =>
      split
      next e2 => exact wf_of_eq (ih (wf_of_eq (State.readHome_wf h ..) e1) _) e2

theorem execAccldExecute_wf {s : State} (h : s.mem.wf) (core : Nat) : OutWf (execAccldExecute core s) := by
  unfold execAccldExecute
  split
  · exact h
  · split
    · split
      · next e => simpa [State.rowWaits_mem e] using h
      · dsimp only
        split <;> simp [h]
    · exact h

theorem execAccstExecute_wf {s : State} (h : s.mem.wf) (core : Nat) : OutWf (execAccstExecute core s) := by
  unfold execAccstExecute
  split
  · exact h
  · split
    · dsimp only
      split
      · next e => simpa [State.rowWaits_mem e] using h
      · simpa using State.wf_foldl (fun _ _ ht => State.writeHome_wf ht ..) _ h
    · exact h

/-! #### Functions of Sys2Proof/Machine/Crews.lean -/

@[simp] theorem State.putLine_wf {s : State} (h : s.mem.wf) (core : Nat) (m : CMode) (pa n v : Nat) :
    (s.putLine core m pa n v).mem.wf := by
  unfold State.putLine
  split
  · next e => simpa [State.await_mem e] using h
  · simp [h]

@[simp] theorem State.putUnit_wf {s : State} (h : s.mem.wf) (pa v : Nat) : (s.putUnit pa v).mem.wf :=
  State.putLine_wf (State.putLine_wf h ..) ..

@[simp] theorem State.putOver_wf {s : State} (h : s.mem.wf) (t : Task) (l : List Nat) : (State.putOver t l s).mem.wf := by
  induction l generalizing s with
  | nil => exact h
  | cons u l ih => exact ih (State.putUnit_wf h ..)

@[simp] theorem State.mirror_wf {s : State} (h : s.mem.wf) (id : Word) : (s.mirror id).mem.wf := by
  fun_cases State.mirror <;> simp [h]

@[simp] theorem State.onTask_wf {s : State} (h : s.mem.wf) (id : Word) (f : Task → Task) :
    (s.onTask id f).mem.wf := by simp [State.onTask, h]

@[simp] theorem State.takeUnit_mem (s : State) (i u : Nat) : (s.takeUnit i u).mem = s.mem := rfl

@[simp] theorem State.giveUnit_mem (s : State) (i u : Nat) : (s.giveUnit i u).mem = s.mem := rfl

@[simp] theorem State.newTaskId_mem (s : State) (i die : Nat) : (s.newTaskId i die).2.mem = s.mem := rfl

theorem State.addRef_wf {s : State} (h : s.mem.wf) (id : Word) (hd : DWord) {t} (e : s.addRef id hd = some t) : t.mem.wf := by
  revert e
  fun_cases State.addRef
  all_goals (intro e; cases e)
  all_goals simp [*]

@[simp] theorem State.subRef_wf {s : State} (h : s.mem.wf) (id : Word) (x : DWord) : (s.subRef id x).mem.wf := by
  unfold State.subRef
  split
  · exact h
  · split
    · exact h
    · exact State.onTask_wf (State.wf_foldl (fun _ _ ht => by simpa using ht) _ h) ..

@[simp] theorem State.addCrew_mem (s : State) (p : Plan) (threads : FMap Thread) : (s.addCrew p threads).1.mem = s.mem := by
  unfold State.addCrew
  repeat' split
  all_goals simp

theorem State.placeCrew_mem {s u : State} {t : Task} {piece spad core : Nat} (e : s.placeCrew t piece spad core = some u) :
    u.mem = s.mem := by
  revert e
  fun_cases State.placeCrew <;> rintro ⟨⟩
  simp

theorem State.placeCrews_mem {t : Task} {piece spad : Nat} {l : List Nat} {s u : State}
    (e : State.placeCrews t piece spad l s = some u) : u.mem = s.mem := by
  induction l generalizing s with
  | nil => cases e; rfl
  | cons c l ih =>
    unfold State.placeCrews at e
    split at e
    · next e1 => exact (ih e).trans (State.placeCrew_mem e1)
    · cases e

theorem State.placePiece_wf {s u : State} {t : Task} {lo hi : Nat} {cores : List Nat} (h : s.mem.wf)
    (e : s.placePiece t lo hi cores = some u) : u.mem.wf := by
  revert e
  fun_cases State.placePiece <;> rintro ⟨⟩
  next e => exact State.onTask_wf (by rw [State.placeCrews_mem e]; exact h) ..

@[simp] theorem State.readCell_wf {s : State} (h : s.mem.wf) (_core : Nat) (x : Nat × Tlb) :
    (s.readCell _core x).1.mem.wf := by simp [State.readCell, h]

@[simp] theorem State.writeCell_wf {s : State} (h : s.mem.wf) (core : Nat) (x : Nat × Tlb) (v : Nat) :
    (s.writeCell core x v).mem.wf := by simp [State.writeCell, h]

@[simp] theorem State.putParks_mem (s : State) (pa : Nat) (l : List Word) : (s.putParks pa l).mem = s.mem := rfl

@[simp] theorem State.setParks_wf {s : State} (h : s.mem.wf) (core : Nat) (x : Nat × Tlb) (c : Nat) (l : List Word) :
    (s.setParks core x c l).mem.wf := by simp [State.setParks, h]

@[simp] theorem State.wakeCell_wf {s : State} (h : s.mem.wf) (core : Nat) (x : Nat × Tlb) (c : Nat) :
    (s.wakeCell core x c).mem.wf :=
  State.setParks_wf (State.wf_foldl (fun _ _ ht => by simpa using ht) _ h) ..

@[simp] theorem State.unlinkAt_wf {s : State} (h : s.mem.wf) (pa : Nat) (me : Word) : (s.unlinkAt pa me).mem.wf := by
  fun_cases State.unlinkAt <;> simp [h]

@[simp] theorem State.unlinkPark_wf {s : State} (h : s.mem.wf) (core slot tid : Nat) : (s.unlinkPark core slot tid).mem.wf := by
  fun_cases State.unlinkPark
  case case2 e => simpa [State.await_mem e] using h
  all_goals simp [h]

@[simp] theorem State.giveTcb_mem (s : State) (i : Nat) : (s.giveTcb i).2.mem = s.mem := by
  fun_cases State.giveTcb <;> simp

@[simp] theorem State.askAll_mem (s : State) (i die : Nat) : (s.askAll i die).mem = s.mem :=
  State.mem_foldl (fun u k => u.onCore_mem k _) ..

@[simp] theorem State.queueTask_wf {s : State} (h : s.mem.wf) (id : Word) : (s.queueTask id).mem.wf := by
  fun_cases State.queueTask <;> simp [h]

@[simp] theorem State.releaseHeld_wf {s : State} (h : s.mem.wf) (i die : Nat) : (s.releaseHeld i die).mem.wf :=
  State.wf_foldl (fun _ _ ht => State.queueTask_wf ht _) _ h

@[simp] theorem State.retireCrew_wf {s : State} (h : s.mem.wf) (core slot : Nat) : (s.retireCrew core slot).mem.wf := by
  unfold State.retireCrew
  split
  · exact h
  · simpa using State.wf_foldl (fun _ _ ht => by simpa using State.unlinkPark_wf ht ..) _ h

@[simp] theorem State.markStop_wf {s : State} (h : s.mem.wf) (id : Word) : (s.markStop id).mem.wf :=
  State.wf_foldl (fun _ _ ht => State.retireCrew_wf ht ..) _ (State.onTask_wf (by simpa using h) ..)

@[simp] theorem State.dropRef_wf {s : State} (h : s.mem.wf) (x : Nat × Tlb) (hd : DWord) : (s.dropRef x hd).1.mem.wf := by
  unfold State.dropRef
  dsimp only
  repeat' split
  all_goals simp [h]

@[simp] theorem State.reclaimCell_wf {s : State} (h : s.mem.wf) (x : Nat × Tlb) (task : Word) :
    (s.reclaimCell x task).mem.wf := by
  unfold State.reclaimCell
  dsimp only
  repeat' split
  all_goals simp [h]

@[simp] theorem State.perform_wf {s : State} (h : s.mem.wf) (d : Duty) : (s.perform d).1.mem.wf := by
  fun_cases State.perform <;> simp [h]

@[simp] theorem State.request_wf {s : State} (h : s.mem.wf) (d : Duty) : (s.request d).1.mem.wf := by
  unfold State.request
  split
  · next e => simpa [State.await_mem e] using h
  · simp [h]

@[simp] theorem State.dropAtCell_wf {s : State} (h : s.mem.wf) (i : Nat) (hd : DWord) : (s.dropAtCell i hd).1.mem.wf := by
  fun_cases State.dropAtCell <;> simp [h]

@[simp] theorem State.dropAll_wf {s : State} (h : s.mem.wf) (i : Nat) (l : List (DWord × Nat)) :
    (State.dropAll i l s).1.mem.wf := by
  induction l generalizing s with
  | nil => exact h
  | cons x l ih => exact ih (State.wf_foldl_fst (fun y _ ht => by exact State.dropAtCell_wf ht i x.1) _ h)

@[simp] theorem State.endTask_wf {s : State} (h : s.mem.wf) (t : Task) : (s.endTask t).1.mem.wf := by
  have h1 : ((s.onTask t.id (fun t => { t with state := .ended })).releaseHeld t.isle t.die).mem.wf := by simp [h]
  unfold State.endTask
  dsimp only
  simp only [State.onDomain_mem]
  refine State.wf_foldl (fun _ _ ht => by simpa using ht) _ (State.dropAll_wf ?_ ..)
  split
  · exact h1
  · split
    · simpa using h1
    · exact State.request_wf (by simpa using h1) _

@[simp] theorem State.runWork_wf {s : State} (h : s.mem.wf) (n : Nat) (l : List TaskWork) : (State.runWork n l s).mem.wf := by
  fun_induction State.runWork n l s
  case case4 ih => exact ih (State.markStop_wf h _)
  case case7 e ih => exact ih (wf_of_eq (State.endTask_wf h _) e)
  case case3 ih => exact ih h
  case case5 ih => exact ih h
  case case6 ih => exact ih h
  case case8 ih => exact ih h
  all_goals exact h

@[simp] theorem State.work_wf {s : State} (h : s.mem.wf) (l : List TaskWork) : (s.work l).mem.wf := by simp [State.work, h]

@[simp] theorem State.runDuties_wf {s : State} (h : s.mem.wf) (l : List Duty) (held : List Nat) :
    (State.runDuties l held s).mem.wf := by
  fun_induction State.runDuties l held s
  case case1 => exact h
  case case2 ih => exact ih h
  case case3 e ih => exact ih (by rw [State.awaitFirst_mem e]; exact h)
  case case4 e ih => exact ih (State.work_wf (wf_of_eq (State.perform_wf (by exact h) _) e) _)

@[simp] theorem State.serveDuties_wf {s : State} (h : s.mem.wf) : s.serveDuties.mem.wf := by simp [State.serveDuties, h]

@[simp] theorem State.dropPermits_mem (s : State) (core slot : Nat) : (s.dropPermits core slot).mem = s.mem := rfl

@[simp] theorem State.freeCrew_mem (s : State) (core slot : Nat) (keep : Bool) : (s.freeCrew core slot keep).mem = s.mem := by
  fun_cases State.freeCrew <;> simp +zetaDelta

@[simp] theorem State.leavePiece_wf {s : State} (h : s.mem.wf) (i die piece uid : Nat) (task : Word) :
    (s.leavePiece i die piece uid task).mem.wf := by
  fun_cases State.leavePiece <;> simp +zetaDelta [h]

@[simp] theorem State.dropJoins_wf {s : State} (h : s.mem.wf) (uid : Nat) :
    (s.dropJoins uid).mem.wf := by simp [State.dropJoins, h]

@[simp] theorem State.endCrew_wf {s : State} (h : s.mem.wf) (core slot : Nat) : (s.endCrew core slot).mem.wf := by
  unfold State.endCrew
  repeat' split
  all_goals simp [h]

@[simp] theorem State.reapCrew_wf {s : State} (h : s.mem.wf) (core slot : Nat) : (s.reapCrew core slot).mem.wf := by
  fun_cases State.reapCrew <;> simp [h]

/-! #### Functions of Sys2Proof/Machine/Records.lean -/

@[simp] theorem State.raisePend_mem (s : State) (core bitNo : Nat) : (s.raisePend core bitNo).mem = s.mem := rfl

@[simp] theorem State.putRecord_wf {s : State} (h : s.mem.wf) (core : Nat) (r : Rec) : (s.putRecord core r).mem.wf := by
  fun_cases State.putRecord <;> simp [h]

@[simp] theorem State.nextSeq_mem (s : State) (core : Nat) : (s.nextSeq core).mem = s.mem := rfl

@[simp] theorem State.makeRecord_wf {s : State} (h : s.mem.wf) (core slot tid : Nat) (held : Bool) :
    (s.makeRecord core slot tid held).mem.wf := by
  fun_cases State.makeRecord <;> simp [h]

@[simp] theorem State.makeRecords_wf {s : State} (h : s.mem.wf) (core : Nat) (l : List (Nat × Nat × Nat)) :
    (State.makeRecords core l s).mem.wf := by
  induction l generalizing s with
  | nil => exact h
  | cons x l ih =>
    unfold State.makeRecords
    split
    · exact ih (State.makeRecord_wf h ..)
    · exact h

@[simp] theorem execTrapRecordMade_wf {s : State} (h : s.mem.wf) (core slot tid : Nat) :
    OutWf (execTrapRecordMade core slot tid s) := by
  fun_cases execTrapRecordMade <;> simp [h]

theorem execSpillRecordReturn_wf {s : State} (h : s.mem.wf) (core : Nat) : OutWf (execSpillRecordReturn core s) := by
  fun_cases execSpillRecordReturn
  case case2 e => simpa [State.await_mem e] using h
  case case3 e => simpa using wf_of_eq (State.readHome_wf h ..) e
  all_goals exact h

@[simp] theorem execHeldTrapRecord_wf {s : State} (h : s.mem.wf) (core : Nat) : OutWf (execHeldTrapRecord core s) := by
  fun_cases execHeldTrapRecord <;> simp [h]

@[simp] theorem State.dropRecords_wf {s : State} (h : s.mem.wf) (core : Nat) (mine : Nat → Nat → Bool) :
    (s.dropRecords core mine).mem.wf := by
  unfold State.dropRecords
  dsimp only
  split
  · exact h
  · exact State.wf_foldl_fst (fun _ _ ht => State.putLine_wf ht ..) _ h

@[simp] theorem execDeferredMachineTrap_wf {s : State} (h : s.mem.wf) (core slot tid : Nat) :
    OutWf (execDeferredMachineTrap core slot tid s) := by
  fun_cases execDeferredMachineTrap <;> simp [h]

@[simp] theorem execWatchdogExpiry_wf {s : State} (h : s.mem.wf) (core slot tid : Nat) :
    OutWf (execWatchdogExpiry core slot tid s) := by
  fun_cases execWatchdogExpiry <;> simp [h]

@[simp] theorem State.stepThread_mem (s : State) (core slot tid : Nat) : (s.stepThread core slot tid).mem = s.mem := by
  fun_cases State.stepThread <;> simp +zetaDelta

@[simp] theorem State.preemptThread_mem (s : State) (core slot tid : Nat) : (s.preemptThread core slot tid).mem = s.mem := by
  fun_cases State.preemptThread <;> simp

@[simp] theorem execCrewReadyToSave_wf {s : State} (h : s.mem.wf) (core slot : Nat) :
    OutWf (execCrewReadyToSave core slot s) := by
  fun_cases execCrewReadyToSave <;> simp [h]

@[simp] theorem State.withdraw_mem (s : State) (core slot : Nat) : (s.withdraw core slot).mem = s.mem := rfl

@[simp] theorem State.askPreempt_mem (s : State) (core slot : Nat) : (s.askPreempt core slot).mem = s.mem := by
  fun_cases State.askPreempt <;> simp

@[simp] theorem State.unbind_mem (s : State) (core : Nat) (gone : Nat → Nat → Bool) : (s.unbind core gone).mem = s.mem := rfl

@[simp] theorem State.cancelPreempt_mem (s : State) (core slot : Nat) : (s.cancelPreempt core slot).mem = s.mem := by
  fun_cases State.cancelPreempt <;> simp +zetaDelta

@[simp] theorem State.preemptWord_mem (s : State) (core : Nat) (v : Word) : (s.preemptWord core v).mem = s.mem := by
  fun_cases State.preemptWord <;> simp

@[simp] theorem execSliceExpiry_wf {s : State} (h : s.mem.wf) (core slot : Nat) : OutWf (execSliceExpiry core slot s) := by
  unfold execSliceExpiry
  dsimp only
  repeat' split
  all_goals simp [h]

@[simp] theorem execDebugFreezeComplete_wf {s : State} (h : s.mem.wf) (core slot : Nat) :
    OutWf (execDebugFreezeComplete core slot s) := by
  fun_cases execDebugFreezeComplete <;> simp [h]

@[simp] theorem State.releaseFreeze_wf {s : State} (h : s.mem.wf) (core slot : Nat) : (s.releaseFreeze core slot).mem.wf := by
  unfold State.releaseFreeze
  split
  · exact h
  · simp only [State.onCore_mem, State.onCrew_mem, State.unbind_mem]
    split
    · exact State.wf_foldl (fun _ _ ht => State.unlinkPark_wf ht ..) _ h
    · exact h

@[simp] theorem State.writeDbg_wf {s : State} (h : s.mem.wf) (core : Nat) (v : Word) : (s.writeDbg core v).mem.wf := by
  fun_cases State.writeDbg <;> simp +zetaDelta [h]

@[simp] theorem execExitRetire_wf {s : State} (h : s.mem.wf) (core slot tid : Nat) : OutWf (execExitRetire core slot tid s) := by
  fun_cases execExitRetire <;> simp [h]

@[simp] theorem State.killCrew_wf {s : State} (h : s.mem.wf) (core slot : Nat) : (s.killCrew core slot).mem.wf := by
  unfold State.killCrew
  split
  · exact h
  · refine State.reapCrew_wf ?_ ..
    simpa using State.dropRecords_wf (State.wf_foldl (fun _ _ ht => State.unlinkPark_wf ht ..) _ h) ..

/-! #### Functions of Sys2Proof/Machine/Supervise.lean -/

@[simp] theorem State.setTimer_mem (s : State) (core : Nat) : (s.setTimer core).mem = s.mem := rfl

@[simp] theorem execInterruptEntry_wf {s : State} (h : s.mem.wf) (core : Nat) : OutWf (execInterruptEntry core s) := by
  unfold execInterruptEntry
  dsimp only
  repeat' split
  all_goals simp [h]

@[simp] theorem execWfiWake_wf {s : State} (h : s.mem.wf) (core : Nat) : OutWf (execWfiWake core s) := by
  fun_cases execWfiWake <;> simp [h]

@[simp] theorem execWfi_wf {s : State} (h : s.mem.wf) : OutWf (execWfi s) := laneOp_wf h fun k l t ht => by simp [ht]

@[simp] theorem execEret_wf {s : State} (h : s.mem.wf) : OutWf (execEret s) := laneOp_wf h fun k l t ht => by split <;> simp [ht]

@[simp] theorem execSys_wf {s : State} (h : s.mem.wf) (n : BitVec 9) :
    OutWf (execSys n s) := bothOp_wf h (fun c t ht => by simp [ht]) (fun k l t ht => by simp [ht])

@[simp] theorem State.sendIpi_mem (s : State) (target vec : Nat) : (s.sendIpi target vec).mem = s.mem := rfl

@[simp] theorem execIpi_wf {s : State} (h : s.mem.wf) (a : Opnd) (vec : BitVec 9) :
    OutWf (execIpi a vec s) := laneOp_wf h fun k l t ht => by
  dsimp only
  repeat' split
  all_goals simp [ht]

@[simp] theorem State.putBound_mem (s : State) (core : Nat) (u : Word) (n : Nat) (v : Word) :
    (s.putBound core u n v).mem = s.mem := by
  fun_cases State.putBound <;> simp +zetaDelta

@[simp] theorem State.putCore_wf {s : State} (h : s.mem.wf) (core n : Nat) (v : DWord) : (s.putCore core n v).mem.wf := by
  fun_cases State.putCore <;> simp +zetaDelta [h]

@[simp] theorem State.putLane_mem (s : State) (core n : Nat) (v : DWord) : (s.putLane core n v).mem = s.mem := by
  fun_cases State.putLane <;> simp

@[simp] theorem State.ctlwThread_wf {s : State} (h : s.mem.wf) (c : Ctx) (n : Nat) (v : Word) : (s.ctlwThread c n v).mem.wf := by
  fun_cases State.ctlwThread <;> simp +zetaDelta [h]

@[simp] theorem State.ctlwLane_wf {s : State} (h : s.mem.wf) (core : Nat) (l : Lane) (n : Nat) (v : DWord) :
    (s.ctlwLane core l n v).mem.wf := by
  fun_cases State.ctlwLane <;> simp [h]

@[simp] theorem State.deferCtl_mem (s : State) (x : CtlWrite) : (s.deferCtl x).mem = s.mem := rfl

@[simp] theorem State.applyCtl_wf {s : State} (h : s.mem.wf) (x : CtlWrite) : (s.applyCtl x).mem.wf := by
  fun_cases State.applyCtl <;> simp [h]

@[simp] theorem State.applyCtls_wf {s : State} (h : s.mem.wf) : s.applyCtls.mem.wf :=
  State.wf_foldl (fun _ _ ht => State.applyCtl_wf ht _) _ h

@[simp] theorem execCtlr_wf {s : State} (h : s.mem.wf) (d : Opnd) (n : BitVec 9) :
    OutWf (execCtlr d n s) := bothOp_wf h (fun c t ht => by split <;> simp [ht]) (fun k l t ht => by split <;> simp [ht])

@[simp] theorem execCtlw_wf {s : State} (h : s.mem.wf) (a : Opnd) (n : BitVec 9) :
    OutWf (execCtlw a n s) := bothOp_wf h (fun c t ht => by split <;> simp [ht]) (fun k l t ht => by split <;> simp [ht])

@[simp] theorem State.readHits_wf {s : State} (h : s.mem.wf) (core : Nat) (l : List (Hit × Nat)) :
    (State.readHits core l s).1.mem.wf := by
  induction l generalizing s with
  | nil => exact h
  | cons x l ih => exact ih (State.readTarget_wf h ..)

@[simp] theorem State.writeHits_wf {s : State} (h : s.mem.wf) (core : Nat) (l : List (Hit × Nat)) (v : Nat) :
    (State.writeHits core l v s).mem.wf := by
  induction l generalizing s v with
  | nil => exact h
  | cons x l ih => exact ih (State.writeTarget_wf h ..) _

@[simp] theorem State.noteHits_mem (s : State) (v : Viewer) (l : List (Hit × Nat)) : (s.noteHits v l).mem = s.mem :=
  State.mem_foldl (fun _ _ => State.noteHit_mem ..) ..

theorem State.laneBlock_wf {s : State} {core : Nat} {w : Want} {f : Formed} {n al : Nat} {k : List (Hit × Nat) → State → LaneAct}
    (h : s.mem.wf) (hk : ∀ x t, t.mem.wf → BodyWf (k x t)) : BodyWf (s.laneBlock core w f n al k) := by
  fun_cases State.laneBlock
  case case2 e => simpa [State.awaitLines_mem e] using h
  case case3 => exact hk _ _ (by simpa using h)
  all_goals exact h

theorem execQpop_wf {s : State} (h : s.mem.wf) (d a : Opnd) (cause : BitVec 8) : OutWf (execQpop d a cause s) := by
  refine laneOp_wf h fun core l t ht => ?_
  dsimp only
  split
  · exact ht
  · exact State.laneBlock_wf ht fun _ _ hu => by simp [hu]

@[simp] theorem State.launchKernel_wf {s : State} (h : s.mem.wf) (core : Nat) (l : Lane) (x bytes : Nat) :
    (s.launchKernel core l x bytes).1.mem.wf := by
  unfold State.launchKernel
  dsimp only
  repeat' split
  all_goals simp [h]

theorem execKgo_wf {s : State} (h : s.mem.wf) (d a : Opnd) : OutWf (execKgo d a s) := by
  refine laneOp_wf h fun core l t ht => State.laneBlock_wf ht fun hits t0 h0 => ?_
  have h1 := State.readHits_wf h0 core hits
  dsimp only
  split
  · exact ht
  · refine State.laneBlock_wf h1 fun hits2 t2 h2 => ?_
    have h3 := State.readHits_wf h2 core hits2
    split
    · exact ht
    · exact ht
    · split
      · next e => simpa using wf_of_eq (State.launchKernel_wf h3 ..) e
      · simpa using h3

@[simp] theorem State.resumeThread_wf {s : State} (h : s.mem.wf) (core slot tid : Nat) (pc : Trap → Word) :
    (s.resumeThread core slot tid pc).mem.wf := by
  fun_cases State.resumeThread <;> simp +zetaDelta [h]

@[simp] theorem State.qretWord_wf {s : State} (h : s.mem.wf) (core : Nat) (v : Word) : (s.qretWord core v).mem.wf := by
  fun_cases State.qretWord <;> simp [h]

@[simp] theorem execQret_wf {s : State} (h : s.mem.wf) (a : Opnd) :
    OutWf (execQret a s) := bothOp_wf h (fun c t ht => by (repeat' split) <;> simp [ht]) (fun k l t ht => by simp [ht])

@[simp] theorem execPreempt_wf {s : State} (h : s.mem.wf) (a : Opnd) :
    OutWf (execPreempt a s) := bothOp_wf h (fun c t ht => by split <;> simp [ht]) (fun k l t ht => by simp [ht])

@[simp] theorem State.storeMicro_mem (s : State) (core entry start : Nat) (words : List Word) :
    (s.storeMicro core entry start words).mem = s.mem := rfl

theorem State.mloadFor_wf {s t : State} {core : Nat} {v : Viewer} {i : Instr} {clear : Bool} {entry : Word} {a : Nat}
    (h : s.mem.wf)
    (e : s.mloadFor core v i clear entry a = .done t) : t.mem.wf := by
  revert e
  fun_cases State.mloadFor <;> rintro ⟨⟩
  next e _ _ _ _ _ => simpa using wf_of_eq (State.readHits_wf (by simpa using h) ..) e

theorem execMload_wf {s : State} (h : s.mem.wf) (d a : Opnd) : OutWf (execMload d a s) := by
  refine bothOp_wf h (fun c t ht => ?_) fun k l t ht => ?_
  · split
    · exact ht
    · split
      case h_4 e => exact State.mloadFor_wf ht e
      all_goals exact ht
  · split
    case h_4 e => exact State.mloadFor_wf ht e
    all_goals exact ht

/-! #### Functions of Sys2Proof/Machine/Save.lean -/

@[simp] theorem State.putVa_wf {s : State} (h : s.mem.wf) (core : Nat) (l : List (Hit × Nat)) (va n x : Nat) :
    (s.putVa core l va n x).mem.wf := by simp [State.putVa, h]

@[simp] theorem State.forwardPermits_mem (s : State) (core slot : Nat) (dest : Option (Nat × Nat)) (image : Option Nat) :
    (s.forwardPermits core slot dest image).mem = s.mem := rfl

@[simp] theorem State.saveCrew_wf {s : State} (h : s.mem.wf) (core slot : Nat) (w : Crew) (image : Nat) :
    (s.saveCrew core slot w image).mem.wf := by
  have h1 := State.dropRecords_wf (State.wf_foldl (fun (u : State) t ht => State.unlinkPark_wf ht core slot t)
    (FMap.keys w.threads) h)
    core (fun k _ => decide (k = slot))
  unfold State.saveCrew
  dsimp only
  split <;> simpa using h1

theorem State.onImage_wf {s : State} {clear : Bool} {hits : Except Raise (List (Hit × Nat))} {k : List (Hit × Nat) → SaveEff}
    (hk : ∀ l, SaveWf (k l)) : SaveWf (s.onImage clear hits k) := by
  unfold State.onImage
  split
  · trivial
  · split
    · trivial
    · exact hk _

theorem State.csaveFor_wf {s : State} (h : s.mem.wf) (v : Viewer) (i : Instr) (clear : Bool) (va : Nat) (id : Word) :
    SaveWf (s.csaveFor v i clear va id) := by
  unfold State.csaveFor
  refine State.onImage_wf fun l => ?_
  split
  · exact State.putVa_wf h ..
  · split
    · exact State.putVa_wf h ..
    · split
      · exact State.putVa_wf h ..
      · exact State.putVa_wf (State.saveCrew_wf (State.wf_foldl (fun _ _ ht => State.putVa_wf ht ..) _ h) ..) ..

theorem saveOp_wf {s : State} {i : Instr} {d a : Opnd} {f : State → Viewer → Bool → Nat → Word → SaveEff} (h : s.mem.wf)
    (hf : ∀ t v b n x, t.mem.wf → SaveWf (f t v b n x)) : OutWf (saveOp i d a f s) := by
  refine bothOp_wf h (fun c t ht => ?_) fun k l t ht => ?_
  · split
    · exact ht
    · split
      case h_3 e => exact (hf _ _ _ _ _ ht).of_done e
      all_goals exact ht
  · split
    case h_3 e => exact (hf _ _ _ _ _ ht).of_done e
    all_goals exact ht

theorem execCsave_wf {s : State} (h : s.mem.wf) (d a : Opnd) : OutWf (execCsave d a s) :=
  saveOp_wf h fun _ _ _ _ _ ht => State.csaveFor_wf ht ..

@[simp] theorem State.seatCrew_mem (s : State) (core slot : Nat) (w : Crew) (asks : Bool) :
    (s.seatCrew core slot w asks).mem = s.mem := rfl

@[simp] theorem State.requeue_wf {s : State} (h : s.mem.wf) (core slot tid : Nat) (r : Rec) :
    (s.requeue core slot tid r).mem.wf := by
  fun_cases State.requeue <;> simp +zetaDelta [h]

@[simp] theorem State.restoreData_mem (s : State) (core : Nat) (l : List (Hit × Nat)) (va : Nat) (w : Crew) :
    (s.restoreData core l va w).mem = s.mem := by
  refine (State.mem_foldl (fun _ _ => State.writeAcc_mem ..) ..).trans (State.mem_foldl (fun _ _ => ?_) ..)
  split <;> simp

@[simp] theorem State.parkAgain_wf {s : State} (h : s.mem.wf) (v : Viewer) (slot tid : Nat) :
    (s.parkAgain v slot tid).mem.wf := by
  unfold State.parkAgain
  dsimp only
  repeat' split
  all_goals simp [h]

@[simp] theorem State.restoreCrew_wf {s : State} (h : s.mem.wf) (v : Viewer) (l : List (Hit × Nat)) (va slot : Nat)
    (x : SavedCrew)
    (w : Crew) (spad acc : Nat) : (s.restoreCrew v l va slot x w spad acc).mem.wf := by
  refine State.wf_foldl (fun _ _ ht => State.parkAgain_wf ht ..) _ (State.wf_foldl (fun t k ht => ?_) _ (by simpa using h))
  dsimp only
  repeat' split
  all_goals simp [ht]

theorem State.crestoreFor_wf {s : State} (h : s.mem.wf) (v : Viewer) (i : Instr) (clear : Bool) (va : Nat) (id : Word) :
    SaveWf (s.crestoreFor v i clear va id) := by
  have sound (l : List (Hit × Nat)) (r : Nat → Raise) {k : SaveEff} (hk : SaveWf k) :
      SaveWf (match s.poisonIn l with
        | some a => .error (r a)
        | none => k) := by
    split
    · trivial
    · exact hk
  unfold State.crestoreFor
  refine State.onImage_wf fun l0 => sound _ _ (State.onImage_wf fun l => sound _ _ (State.onImage_wf fun _ => ?_))
  dsimp only
  repeat' split
  case h_2 => exact State.putVa_wf (State.restoreCrew_wf h ..) ..
  all_goals exact State.putVa_wf h ..

theorem execCrestore_wf {s : State} (h : s.mem.wf) (d a : Opnd) : OutWf (execCrestore d a s) :=
  saveOp_wf h fun _ _ _ _ _ ht => State.crestoreFor_wf ht ..

@[simp] theorem State.askMove_mem (s : State) (core : Nat) (d a : Word) : (s.askMove core d a).mem = s.mem := by
  fun_cases State.askMove <;> simp

@[simp] theorem execTmove_wf {s : State} (h : s.mem.wf) (d a : Opnd) :
    OutWf (execTmove d a s) := bothOp_wf h (fun c t ht => by split <;> simp [ht]) (fun k l t ht => by simp [ht])

@[simp] theorem State.putMstat_wf {s : State} (h : s.mem.wf) (task : Word) (n : Nat) :
    (s.putMstat task n).mem.wf := by simp [State.putMstat, h]

@[simp] theorem State.rewriteParks_wf {s : State} (h : s.mem.wf) (core slot dest k : Nat) :
    (s.rewriteParks core slot dest k).mem.wf :=
  State.wf_foldl (fun _ _ ht => State.setParks_wf ht ..) _ h

@[simp] theorem State.moveData_mem (s : State) (core dest : Nat) (w : Crew) (spad acc : Nat) :
    (s.moveData core dest w spad acc).mem = s.mem :=
  (State.mem_foldl (fun _ _ => State.writeAcc_mem ..) ..).trans (State.mem_foldl (fun _ _ => State.writeSpad_mem ..) ..)

@[simp] theorem State.moveCrew_wf {s : State} (h : s.mem.wf) (core slot : Nat) (w : Crew) (dest : Nat) :
    (s.moveCrew core slot w dest).mem.wf := by
  unfold State.moveCrew
  split
  · exact State.wf_foldl (fun _ _ ht => State.requeue_wf ht ..) _ (State.rewriteParks_wf (by simp [h]) ..)
  · exact h

@[simp] theorem execCrewMove_wf {s : State} (h : s.mem.wf) (core slot : Nat) : OutWf (execCrewMove core slot s) := by
  fun_cases execCrewMove <;> simp +zetaDelta [h]

/-! #### Functions of Sys2Proof/Machine/Pushes.lean -/

@[simp] theorem State.launchPush_mem (s : State) (p : Push) : (s.launchPush p).mem = s.mem := rfl

theorem pushOp_wf {s : State} (h : s.mem.wf) (i : Instr) (group : Bool) (n size : Nat) (data : Option (Thread → Ctx → Nat))
    (flag : BitVec 4) (q : Opnd) (k : Nat) : OutWf (pushOp i group n size data flag q k s) := by
  refine sharedOp_wf h fun c t ht => State.access_wf ht fun th x u hu => ?_
  split
  · exact ht
  · dsimp only
    split
    · exact ht
    · simpa using hu

@[simp] theorem State.onPush_mem (s : State) (id : Nat) (f : Push → Push) : (s.onPush id f).mem = s.mem := rfl

@[simp] theorem State.mergePush_wf {s : State} (h : s.mem.wf) (p : Push) : (s.mergePush p).mem.wf := by
  have h1 (line : Nat) (own : Bool) : ((s.touchHome line p.page.mode).flushOwner line own).mem.wf := by simp [h]
  unfold State.mergePush
  dsimp only
  simp only [State.onPush_mem, State.fresh_mem]
  repeat' split
  all_goals simp [h, h1]

@[simp] theorem execPushMergeAtHome_wf {s : State} (h : s.mem.wf) (push : Nat) : OutWf (execPushMergeAtHome push s) := by
  fun_cases execPushMergeAtHome <;> simp [h]

@[simp] theorem State.pushAnswered_mem (s : State) (p : Push) (cluster : Nat) (refused : Bool) :
    (s.pushAnswered p cluster refused).mem = s.mem := by
  fun_cases State.pushAnswered <;> simp +zetaDelta

@[simp] theorem State.installFill_wf {s : State} (h : s.mem.wf) (p : Push) (cluster : Nat) :
    (s.installFill p cluster).mem.wf := by
  unfold State.installFill
  split <;> simp [h]

@[simp] theorem execPushFill_wf {s : State} (h : s.mem.wf) (push cluster : Nat) : OutWf (execPushFill push cluster s) := by
  unfold execPushFill
  dsimp only
  repeat' split
  all_goals simp [h]

@[simp] theorem execPushComplete_wf {s : State} (h : s.mem.wf) (push : Nat) : OutWf (execPushComplete push s) := by
  fun_cases execPushComplete <;> simp +zetaDelta [h]

@[simp] theorem execQuotaWindowStart_wf {s : State} (h : s.mem.wf) (cluster : Nat) : OutWf (execQuotaWindowStart cluster s) := by
  fun_cases execQuotaWindowStart <;> simp [h]

@[simp] theorem execPermitArm_wf {s : State} (h : s.mem.wf) (p : Opnd) (k : BitVec 5) :
    OutWf (execPermitArm p k s) := sharedOp_wf h fun c t ht => by
  dsimp only
  repeat' split
  all_goals simp [ht]

@[simp] theorem execPermitDrop_wf {s : State} (h : s.mem.wf) (k : BitVec 5) :
    OutWf (execPermitDrop k s) := sharedOp_wf h fun c t ht => by simp [ht]

@[simp] theorem State.disarm_mem (s : State) (cluster k : Nat) : (s.disarm cluster k).mem = s.mem := rfl

theorem execForwardEntryExpiry_wf {s : State} (h : s.mem.wf) (fwd : Nat) : OutWf (execForwardEntryExpiry fwd s) := by
  unfold execForwardEntryExpiry
  split
  · exact h
  · split
    · exact State.wf_foldl (fun _ _ ht => by simpa using ht) _ h
    · exact h

@[simp] theorem execPermitForwardExpiry_wf {s : State} (h : s.mem.wf) (cluster permit : Nat) :
    OutWf (execPermitForwardExpiry cluster permit s) := by
  fun_cases execPermitForwardExpiry <;> simp [h]

/-! #### Functions of Sys2Proof/Machine/Copies.lean -/

theorem State.readPlan_wf {s t : State} {v : Viewer} {i : Instr} {va n : Nat} (h : s.mem.wf)
    (e : s.readPlan v i va = .ok (t, n)) : t.mem.wf := by
  revert e
  fun_cases State.readPlan <;> rintro ⟨⟩
  next e1 _ _ _ e2 => exact wf_of_eq (State.readHome_wf (wf_of_eq (State.readHome_wf (by simpa using h) ..) e1) ..) e2

@[simp] theorem State.acceptCopy_wf {s : State} (h : s.mem.wf) (x : Copy) (spill : Option (Nat × List (Hit × Nat) × Nat)) :
    (s.acceptCopy x spill).mem.wf := by
  unfold State.acceptCopy
  split <;> simp [h]

theorem execTcopy_wf {s : State} (h : s.mem.wf) (flag : BitVec 4) (p q : Opnd) : OutWf (execTcopy flag p q s) := by
  refine sharedOp_wf h fun c t ht => ?_
  split
  · exact ht
  · dsimp only
    split
    · exact ht
    · split
      · exact ht
      · split
        · split <;> exact ht
        · next e =>
          have h1 := State.readPlan_wf ht e
          split
          · exact ht
          · repeat' split
            all_goals simp [ht, h1]

@[simp] theorem State.onCopy_mem (s : State) (id : Nat) (f : Copy → Copy) : (s.onCopy id f).mem = s.mem := rfl

@[simp] theorem execCopyStart_wf {s : State} (h : s.mem.wf) (core : Nat) : OutWf (execCopyStart core s) := by
  fun_cases execCopyStart <;> simp [h]

theorem execSpillSlotReadback_wf {s : State} (h : s.mem.wf) (copy : Nat) : OutWf (execSpillSlotReadback copy s) := by
  unfold execSpillSlotReadback
  split
  · exact h
  · dsimp only
    split
    · exact h
    · split
      · next e => simpa [State.awaitLines_mem e] using h
      · simpa using State.readHits_wf h ..

@[simp] theorem State.readElement_wf {s : State} (h : s.mem.wf) (c : Copy) (n : Nat) : (s.readElement c n).1.mem.wf := by
  unfold State.readElement
  split <;> simp [h]

@[simp] theorem State.readElements_wf {s : State} (h : s.mem.wf) (c : Copy) (l : List Nat) :
    (State.readElements c l s).1.mem.wf := by
  induction l generalizing s with
  | nil => exact h
  | cons n l ih => exact ih (State.readElement_wf h ..)

theorem execCopyLineRead_wf {s : State} (h : s.mem.wf) (copy : Nat) : OutWf (execCopyLineRead copy s) := by
  unfold execCopyLineRead
  split
  · exact h
  · dsimp only
    split
    · exact h
    · split
      · next e =>
        split at e
        · cases e
        · simpa [State.await_mem e] using h
      · simpa using State.readElements_wf h ..

@[simp] theorem State.putPad_mem (s : State) (cl off n : Nat) (e : Element) : (s.putPad cl off n e).mem = s.mem := by
  fun_cases State.putPad <;> simp +zetaDelta

@[simp] theorem State.ownLine_wf {s : State} (h : s.mem.wf) (cl line : Nat) : (s.ownLine cl line).mem.wf := by
  fun_cases State.ownLine <;> simp +zetaDelta [h]

@[simp] theorem State.putMem_wf {s : State} (h : s.mem.wf) (core : Nat) (t : Tlb) (pa n : Nat) (e : Element) :
    (s.putMem core t pa n e).mem.wf := by
  have h1 : (if (decide (t.mode = .dir) && !(s.touchHome (lineOf pa) t.mode).bankPage t (lineOf pa)) = true then
      (s.touchHome (lineOf pa) t.mode).ownLine (clusterOf core) (lineOf pa) else s.touchHome (lineOf pa) t.mode).mem.wf := by
    split <;> simp [h]
  fun_cases State.putMem
  case case1 => simpa +zetaDelta using h1
  all_goals exact State.writeHome_wf h1 ..

@[simp] theorem State.deliverTo_wf {s : State} (h : s.mem.wf) (c : Copy) (e : Element) (v : Verdict) :
    (s.deliverTo c e v).mem.wf := by
  unfold State.deliverTo
  repeat' split
  all_goals simp [h]

@[simp] theorem State.writeElement_wf {s : State} (h : s.mem.wf) (c : Copy) (e : Element) : (s.writeElement c e).mem.wf := by
  unfold State.writeElement
  split
  · exact State.wf_foldl (fun _ _ ht => State.deliverTo_wf ht ..) _ h
  · split <;> simp [h]

theorem State.writeWaits_mem {s t : State} {c : Copy} {g : List Element} (e : s.writeWaits c g = some t) : t.mem = s.mem := by
  unfold State.writeWaits at e
  split at e
  · exact State.awaitLines_mem e
  · split at e
    · cases e
    · exact State.awaitLines_mem e

theorem execCopyLineWrite_wf {s : State} (h : s.mem.wf) (copy : Nat) : OutWf (execCopyLineWrite copy s) := by
  fun_cases execCopyLineWrite
  case case4 e => simpa [State.writeWaits_mem e] using h
  case case5 => simpa using State.wf_foldl (fun _ _ ht => State.writeElement_wf ht ..) _ h
  all_goals exact h

@[simp] theorem execMulticastDelivery_wf {s : State} (h : s.mem.wf) (copy cluster : Nat) :
    OutWf (execMulticastDelivery copy cluster s) := by
  fun_cases execMulticastDelivery <;> simp [h]

@[simp] theorem State.updateCounter_wf {s : State} (h : s.mem.wf) (core pa : Nat) (page : Option Tlb) (f : Nat → Nat) :
    (s.updateCounter core pa page f).mem.wf := by
  unfold State.updateCounter
  dsimp only
  repeat' split
  all_goals simp [h]

@[simp] theorem State.dropCopy_mem (s : State) (c : Copy) : (s.dropCopy c).mem = s.mem := by simp [State.dropCopy]

@[simp] theorem State.endCopy_wf {s : State} (h : s.mem.wf) (c : Copy) (f : Nat → Nat) : (s.endCopy c f).mem.wf := by
  unfold State.endCopy
  split
  · next e => simpa [State.await_mem e] using h
  · simp [h]

@[simp] theorem execCopyComplete_wf {s : State} (h : s.mem.wf) (copy : Nat) : OutWf (execCopyComplete copy s) := by
  fun_cases execCopyComplete <;> simp [h]

@[simp] theorem execTseal_wf {s : State} (h : s.mem.wf) (p : Opnd) : OutWf (execTseal p s) := sharedOp_wf h fun c t ht => by
  repeat' split
  all_goals simp [ht]

@[simp] theorem execTwait_wf {s : State} (h : s.mem.wf) (p : Opnd) :
    OutWf (execTwait p s) := sharedOp_wf h fun c t ht => by split <;> simp [ht]

theorem execCwait_wf {s : State} (h : s.mem.wf) (p q : Opnd) (k : BitVec 5) : OutWf (execCwait p q k s) := by
  refine sharedOp_wf h fun c t ht => State.access_wf ht fun th x u hu => ?_
  have h1 (m : CMode) (lease : Nat) := State.readHome_wf hu c.core m lease x.pa 8
  dsimp only
  repeat' split
  all_goals simp [ht, h1]

@[simp] theorem execCwaitWake_wf {s : State} (h : s.mem.wf) (core slot tid : Nat) : OutWf (execCwaitWake core slot tid s) := by
  fun_cases execCwaitWake <;> simp [h]

/-! #### Functions of Sys2Proof/Machine/Paging.lean -/

@[simp] theorem State.putGroup_mem (s : State) (isle n x : Nat) : (s.putGroup isle n x).mem = s.mem := rfl

theorem execScgset_wf {s : State} (h : s.mem.wf) (a : Opnd) (n : BitVec 5) : OutWf (execScgset a n s) := by
  refine bothOp_wf h (fun c t ht => State.access_wf ht fun th x u hu => ?_)
    fun k l t ht => State.laneAccess_wf ht fun x u hu => ?_
  · dsimp only
    split
    · exact ht
    · split <;> simp [ht, hu]
  · dsimp only
    split <;> simp [ht, hu]

@[simp] theorem State.dropTlb_mem (s : State) (isle : Nat) (e : InvExtent) : (s.dropTlb isle e).mem = s.mem := rfl

@[simp] theorem execTlbinv_wf {s : State} (h : s.mem.wf) (a : Opnd) (ext : BitVec 2) :
    OutWf (execTlbinv a ext s) := bothOp_wf h (fun c t ht => by (repeat' split) <;> simp [ht]) (fun k l t ht => by simp [ht])

@[simp] theorem execTlbinvComplete_wf {s : State} (h : s.mem.wf) (who : IssuerId) : OutWf (execTlbinvComplete who s) := by
  fun_cases execTlbinvComplete <;> simp [h]

@[simp] theorem State.atpWalk_mem (s : State) (core va : Nat) : (s.atpWalk core va).1.mem = s.mem := by simp [State.atpWalk]

@[simp] theorem execAtp_wf {s : State} (h : s.mem.wf) (d a : Opnd) :
    OutWf (execAtp d a s) := bothOp_wf h (fun c t ht => by split <;> simp [ht]) (fun k l t ht => by simp [ht])

/-! #### Functions of Sys2Proof/Machine/Tasks.lean -/

theorem State.readBlock_wf {s t : State} {v : Viewer} {i : Instr} {va n x : Nat} (h : s.mem.wf)
    (e : s.readBlock v i va n = .ok (t, x)) : t.mem.wf := by
  unfold State.readBlock at e
  dsimp only at e
  split at e
  · cases e
  · split at e
    · cases e
    · split at e
      · cases e
      · cases e
        exact State.readHome_wf (by simpa using h) ..

theorem State.readDecl_wf {s t : State} {v : Viewer} {i : Instr} {va x : Nat} (h : s.mem.wf)
    (e : s.readDecl v i va = .ok (t, x)) : t.mem.wf := by
  unfold State.readDecl at e
  split at e
  · cases e
  · next e1 =>
    split at e
    · cases e
    · cases e
      exact State.readBlock_wf h e1

theorem State.newTask_mem {s t : State} {c : Ctx} {isle : Nat} {e : Entry} {cell : Option Nat} {decl : Nat} {parent id : Word}
    (x : s.newTask c isle e cell decl parent = some (id, t)) : t.mem = s.mem := by
  unfold State.newTask at x
  dsimp only at x
  split at x
  · cases x
  · cases x
    simp

@[simp] theorem State.startTask_wf {s : State} (h : s.mem.wf) (isle die : Nat) (id : Word) :
    (s.startTask isle die id).mem.wf := by
  fun_cases State.startTask <;> simp [h]

theorem State.makeTask_wf {s : State} {p : State × DWord} {c : Ctx} {isle : Nat} {e : Entry} {decl : Nat} {parent : Word}
    {cell : Option (Nat × Hit)} (h : s.mem.wf) (x : s.makeTask c isle e decl parent cell = some p) : p.1.mem.wf := by
  unfold State.makeTask at x
  dsimp only at x
  split at x
  · cases x
  · next e1 =>
    have h1 := (congrArg Memory.wf (State.newTask_mem e1)).trans h
    split at x
    · cases x
      exact State.startTask_wf h1 ..
    · split at x
      · cases x
      · next e2 =>
        cases x
        exact State.startTask_wf (State.addRef_wf (State.writeCell_wf (by simpa using h1) ..) _ _ e2) ..

theorem spawnOp_wf {s : State} (h : s.mem.wf) (i : Instr) (p : Option Opnd) (q : Opnd) : OutWf (spawnOp i p q s) := by
  refine sharedOp_wf h fun c t ht => ?_
  split
  · split
    · exact ht
    · dsimp only
      split
      · exact ht
      · split
        · exact ht
        · next e1 =>
          have h1 := State.readBlock_wf ht e1
          split
          · exact ht
          · split
            · next s2 d hit e2 _ =>
              have h2 : s2.mem.wf := by
                split at e2
                · exact State.readDecl_wf h1 e2
                · cases e2; exact h1
              split
              · next e3 =>
                obtain ⟨-, e3⟩ := Option.ite_none_right_eq_some.mp e3
                have h3 := State.makeTask_wf h2 e3
                split <;> simpa using h3
              · exact bodyWf_ite (by simpa using ht) ht
            · exact ht
  · exact ht

theorem execTdecl_wf {s : State} (h : s.mem.wf) (a : Opnd) : OutWf (execTdecl a s) := by
  refine sharedOp_wf h fun c t ht => ?_
  split
  · exact ht
  · dsimp only
    split
    · exact ht
    · split
      · exact ht
      · next e => simpa using State.readDecl_wf ht e

@[simp] theorem execRnext_wf {s : State} (h : s.mem.wf) (d : Opnd) : OutWf (execRnext d s) := sharedOp_wf h fun c t ht => by
  repeat' split
  all_goals simp [ht]

@[simp] theorem execFpoint_wf {s : State} (h : s.mem.wf) :
    OutWf (execFpoint s) := sharedOp_wf h fun c t ht => by split <;> simp [ht]

@[simp] theorem execFguard_wf {s : State} (h : s.mem.wf) : OutWf (execFguard s) := sharedOp_wf h fun c t ht => by
  repeat' split
  all_goals simp [ht]

@[simp] theorem execFend_wf {s : State} (h : s.mem.wf) : OutWf (execFend s) := sharedOp_wf h fun c t ht => by split <;> simp [ht]

@[simp] theorem execTend_wf {s : State} (h : s.mem.wf) : OutWf (execTend s) := sharedOp_wf h fun c t ht => by split <;> simp [ht]

theorem futureOp_wf {s : State} {i : Instr} {q : Opnd} {wr : Bool} {ready : State → Ctx → Bool}
    {f : Ctx → Thread → AtCell → Except Nat (State × Eff)} (h : s.mem.wf)
    (hf : ∀ c th a r, a.s.mem.wf → f c th a = .ok r → r.1.mem.wf) : OutWf (futureOp i q wr ready f s) := by
  refine sharedOp_wf h fun c t ht => State.access_wf ht fun th x u hu => ?_
  dsimp only
  split
  · exact ht
  · split
    · exact ht
    · split
      · next e => exact hf _ _ _ _ (State.readCell_wf hu c.core _) e
      · exact ht

theorem execFref_wf {s : State} (h : s.mem.wf) (flag : BitVec 4) (q : Opnd) : OutWf (execFref flag q s) := by
  refine futureOp_wf h fun c th a r ha e => ?_
  repeat' split at e
  case h_2 e1 => cases e; exact State.writeCell_wf (State.addRef_wf ha _ _ e1) ..
  all_goals cases e

theorem execFdrop_wf {s : State} (h : s.mem.wf) (flag : BitVec 4) (q : Opnd) : OutWf (execFdrop flag q s) := by
  refine futureOp_wf h fun c th a r ha e => ?_
  dsimp only at e
  repeat' split at e
  all_goals cases e
  · exact State.work_wf (State.writeCell_wf (State.subRef_wf ha ..) ..) _
  · exact State.writeCell_wf (State.subRef_wf ha ..) ..

theorem execFget_wf {s : State} (h : s.mem.wf) (p q : Opnd) (k : BitVec 5) : OutWf (execFget p q k s) := by
  refine futureOp_wf h fun c th a r ha e => ?_
  dsimp only at e
  repeat' split at e
  all_goals cases e
  all_goals simp [ha]

theorem execFput_wf {s : State} (h : s.mem.wf) (flag : BitVec 4) (p q : Opnd) (k : BitVec 5) : OutWf (execFput flag p q k s) := by
  refine futureOp_wf h fun c th a r ha e => ?_
  dsimp only at e
  repeat' split at e
  all_goals cases e
  all_goals simp [ha]

theorem execFstate_wf {s : State} (h : s.mem.wf) (p q : Opnd) : OutWf (execFstate p q s) :=
  futureOp_wf h fun c th a r ha e => by cases e; exact ha

@[simp] theorem State.unqueue_mem (s : State) (cluster : Nat) (q : Queued) : (s.unqueue cluster q).mem = s.mem := rfl

theorem State.placeFirst_wf {s t : State} {cluster : Nat} {cores : List Nat} {l : List Queued} (h : s.mem.wf)
    (e : s.placeFirst cluster cores l = some t) : t.mem.wf := by
  induction l with
  | nil => cases e
  | cons q l ih =>
    unfold State.placeFirst at e
    split at e
    · next e1 =>
      obtain ⟨k, -, e1⟩ := Option.bind_eq_some_iff.mp e1
      cases e
      simpa using State.placePiece_wf h e1
    · split at e
      · cases e
      · exact ih e

theorem execPiecePlacement_wf {s : State} (h : s.mem.wf) (cluster : Nat) : OutWf (execPiecePlacement cluster s) :=
  State.wf_getD h fun _ => State.placeFirst_wf h

theorem State.takeFirst_wf {s t : State} {core cluster : Nat} {l : List Queued} (h : s.mem.wf)
    (e : s.takeFirst core cluster l = some t) : t.mem.wf := by
  induction l with
  | nil => cases e
  | cons q l ih =>
    unfold State.takeFirst at e
    split at e
    · next e1 =>
      obtain ⟨k, -, e1⟩ := Option.bind_eq_some_iff.mp e1
      cases e
      simpa using State.placePiece_wf h e1
    · split at e
      · cases e
      · exact ih e

@[simp] theorem State.split_wf {s : State} (h : s.mem.wf) (core i die : Nat) : (s.split core i die).mem.wf := by
  unfold State.split
  split
  · exact h
  · exact State.wf_getD h fun _ => State.placePiece_wf h

theorem execAskForWork_wf {s : State} (h : s.mem.wf) (core : Nat) : OutWf (execAskForWork core s) := by
  have h1 : (s.onCore core fun c => { c with asks := false }).mem.wf := by simpa using h
  fun_cases execAskForWork
  case case4 e =>
    obtain ⟨n, -, e⟩ := List.exists_of_findSome?_eq_some e
    exact State.takeFirst_wf h1 e
  case case5 => exact State.split_wf h1 ..
  all_goals exact h

/-! #### Functions of Sys2Proof/Machine/Fabric.lean -/

@[simp] theorem State.acceptFab_mem (s : State) (f : FabOp) : (s.acceptFab f).mem = s.mem := by
  fun_cases State.acceptFab <;> simp +zetaDelta

@[simp] theorem State.fabChecked_wf {s : State} (h : s.mem.wf) (c : Ctx) (v : Viewer) (i : Instr) (k : FabKind)
    (flag : BitVec 4) (d : FabDesc) (counter : Except Raise Hit) :
    BodyWf (s.fabChecked c v i k flag d counter) := by
  fun_cases State.fabChecked <;> simp [h]

theorem fabOp_wf {s : State} (h : s.mem.wf) (i : Instr) (k : FabKind) (flag : BitVec 4) (p q : Opnd) :
    OutWf (fabOp i k flag p q s) := by
  refine sharedOp_wf h fun c t ht => ?_
  split
  · exact ht
  · dsimp only
    split
    · exact ht
    · split
      · split <;> exact ht
      · next e =>
        split
        · exact ht
        · exact State.fabChecked_wf (State.readBlock_wf ht e) ..

@[simp] theorem State.readParts_wf {s : State} (h : s.mem.wf) (core : Nat) (pages : List Tlb) (l : List (Nat × Nat)) :
    (State.readParts core pages l s).1.mem.wf := by
  induction l generalizing s with
  | nil => exact h
  | cons x l ih => exact ih (State.readHome_wf h _ _ _ _ x.2)

@[simp] theorem State.writeParts_wf {s : State} (h : s.mem.wf) (core : Nat) (pages : List Tlb) (l : List (Nat × Nat))
    (bs : List PByte) :
    (State.writeParts core pages l bs s).mem.wf := by
  induction l generalizing s bs with
  | nil => exact h
  | cons x l ih => exact ih (State.writeHome_wf h ..) _

theorem State.partsWait_mem {s t : State} {pages : List Tlb} {l : List (Nat × Nat)} {wr : Bool}
    (e : s.partsWait pages l wr = some t) :
    t.mem = s.mem :=
  State.awaitLines_mem e

@[simp] theorem State.countRemote_wf {s : State} (h : s.mem.wf) (core isle rcnt : Nat) :
    (s.countRemote core isle rcnt).mem.wf := by
  fun_cases State.countRemote <;> simp [h]

@[simp] theorem State.servePut_wf {s : State} (h : s.mem.wf) (core isle : Nat) (wins : FMap DWord) (raddr : Nat)
    (data : List PByte)
    (rcnt : Nat) : (s.servePut core isle wins raddr data rcnt).1.mem.wf := by
  fun_cases State.servePut
  case case3 e => simpa [State.partsWait_mem e] using h
  all_goals simp [h]

@[simp] theorem State.serveGet_wf {s : State} (h : s.mem.wf) (core isle : Nat) (wins : FMap DWord) (raddr len : Nat) :
    (s.serveGet core isle wins raddr len).1.mem.wf := by
  unfold State.serveGet
  split
  · exact h
  · split
    · exact h
    · split
      · exact h
      · split
        · next e => simpa [State.partsWait_mem e] using h
        · next e => split <;> exact wf_of_eq (State.readParts_wf h ..) e

@[simp] theorem State.serveAtom_wf {s : State} (h : s.mem.wf) (core isle : Nat) (wins : FMap DWord) (raddr sub : Nat)
    (wide : Bool)
    (op1 op2 : DWord) : (s.serveAtom core isle wins raddr sub wide op1 op2).1.mem.wf := by
  fun_cases State.serveAtom
  case case4 e => simpa [State.partsWait_mem e] using h
  case case5 e => exact wf_of_eq (State.readHome_wf h ..) e
  case case6 e _ _ _ => exact State.wf_ite (wf_of_eq (State.readHome_wf h ..) e) (by simp [h])
  all_goals exact h

@[simp] theorem State.onFab_mem (s : State) (id : Nat) (f : FabOp → FabOp) : (s.onFab id f).mem = s.mem := rfl

theorem execFabricSourceRead_wf {s : State} (h : s.mem.wf) (op : Nat) : OutWf (execFabricSourceRead op s) := by
  fun_cases execFabricSourceRead
  case case3 e => simpa [State.partsWait_mem e] using h
  case case4 e => simpa using wf_of_eq (State.readParts_wf h ..) e
  all_goals exact h

theorem State.serveOwn_wf {s : State} {f : FabOp} {isle : Nat} {x : Served} (h : s.mem.wf) (e : s.serveOwn f isle = some x) :
    x.1.mem.wf := by
  revert e
  fun_cases State.serveOwn <;> rintro ⟨⟩ <;> simp [h]

theorem execFabricRemoteRequest_wf {s : State} (h : s.mem.wf) (req : FabRequest) : OutWf (execFabricRemoteRequest req s) := by
  fun_cases execFabricRemoteRequest
  case case5 e => exact State.serveOwn_wf h e
  case case6 e => exact State.serveOwn_wf h e
  case case9 => exact State.wf_ite (by simp [h]) h
  all_goals simp [h]

@[simp] theorem State.failCounter_wf {s : State} (h : s.mem.wf) (f : FabOp) (outcome : Nat) (gen : Word) (contrib : Nat) :
    (s.failCounter f outcome gen contrib).mem.wf := by
  unfold State.failCounter
  dsimp only
  repeat' split
  all_goals simp [h]

@[simp] theorem State.dropFab_mem (s : State) (id : Nat) : (s.dropFab id).mem = s.mem := rfl

@[simp] theorem State.failFab_wf {s : State} (h : s.mem.wf) (f : FabOp) (outcome : Nat) (gen : Word) (contrib : Nat) :
    (s.failFab f outcome gen contrib).mem.wf := by simp [State.failFab, h]

@[simp] theorem State.succeedFab_wf {s : State} (h : s.mem.wf) (f : FabOp) (n refused : Nat) :
    (s.succeedFab f n refused).mem.wf := by simp [State.succeedFab, h]

theorem State.endWaits_mem {s t : State} {l : List FabOp} {r : Option Nat} (e : s.endWaits l r = some t) : t.mem = s.mem := by
  revert e
  fun_cases State.endWaits
  · next e => rintro ⟨⟩; exact State.awaitLines_mem e
  · intro e
    obtain ⟨f, -, e⟩ := List.exists_of_findSome?_eq_some e
    exact State.partsWait_mem e
  · rintro ⟨⟩

theorem State.endFab_wf {s k : State} (h : s.mem.wf) (hk : k.mem.wf) (f : FabOp) : OutWf (s.endFab f k) := by
  unfold State.endFab
  split
  · next e => simpa [State.endWaits_mem e] using h
  · exact hk

theorem execFabricComplete_wf {s : State} (h : s.mem.wf) (op : Nat) (reply : FabReply) :
    OutWf (execFabricComplete op reply s) := by
  unfold execFabricComplete
  split
  · exact h
  · next f _ =>
    split
    · exact h
    · dsimp only
      split
      · exact h
      · split
        · exact State.endFab_wf h (State.failFab_wf h ..) _
        · exact State.endFab_wf h (State.succeedFab_wf h ..) _
    · split
      · exact h
      · dsimp only
        split
        · exact State.endFab_wf h (State.succeedFab_wf h ..) _
        · split
          · exact h
          · split
            · next e => simpa [State.partsWait_mem e] using h
            · exact State.endFab_wf h (State.succeedFab_wf (State.writeParts_wf h ..) ..) _
      · exact State.endFab_wf h (State.failFab_wf h ..) _

theorem execFabricUnreachable_wf {s : State} (h : s.mem.wf) (op : Nat) : OutWf (execFabricUnreachable op s) := by
  unfold execFabricUnreachable
  split
  · exact h
  · split
    · exact State.endFab_wf h (State.failFab_wf h ..) _
    · exact h

@[simp] theorem State.closeGen_mem (s : State) (g : Nat) (gen : Word) : (s.closeGen g gen).mem = s.mem := rfl

@[simp] theorem State.abandonGen_wf {s : State} (h : s.mem.wf) (g : Nat) (gen : Word) (x : Gather) (outcome : Nat) :
    (s.abandonGen g gen x outcome).mem.wf :=
  State.wf_foldl (fun _ _ ht => State.failFab_wf ht ..) _ h

@[simp] theorem State.finishGen_wf {s : State} (h : s.mem.wf) (g : Nat) (gen : Word) (x : Gather) (sub len : Nat) :
    (s.finishGen g gen x sub len).mem.wf :=
  State.wf_foldl (fun _ _ ht => State.succeedFab_wf (State.writeParts_wf ht ..) ..) _ h

@[simp] theorem State.contribute_wf {s : State} (h : s.mem.wf) (g : Nat) (gen : Word) (limit : Nat) (c : Contrib) :
    (s.contribute g gen limit c).mem.wf := by
  have h2 (u : State) (hu : u.mem.wf) (o : Option Nat) : (match o with
      | some id => u.onFab id (fun f => { f with contributed := true })
      | none => u).mem.wf := by
    cases o with
    | none => exact hu
    | some id => exact hu
  fun_cases State.contribute
  case case1 => exact h
  case case2 e =>
    split at e
    · simpa [State.endWaits_mem e] using h
    · split at e
      · simpa [State.endWaits_mem e] using h
      · cases e
  case case3 => exact State.abandonGen_wf (h2 _ (by exact h) _) ..
  case case4 => exact State.finishGen_wf (h2 _ (by exact h) _) ..
  case case5 => exact h2 _ (by exact h) _

theorem execReductionContribution_wf {s : State} (h : s.mem.wf) (c : Contribution) : OutWf (execReductionContribution c s) := by
  fun_cases execReductionContribution
  case case2 => exact State.endFab_wf h (State.failFab_wf h ..) _
  case case5 => exact State.endFab_wf h (State.failFab_wf h ..) _
  all_goals simp [h]

@[simp] theorem State.abandonLater_mem (s : State) (g : Nat) (gen : Word) (x : Gather) (outcome : Nat) :
    (s.abandonLater g gen x outcome).mem = s.mem :=
  State.mem_foldl (fun u (f : FabOp) => u.onFab_mem f.id _) ..

theorem execReductionTimeout_wf {s : State} (h : s.mem.wf) (group : Nat) : OutWf (execReductionTimeout group s) := by
  refine State.wf_foldl (fun u x hu => ?_) _ h
  split
  · next e => simpa [State.endWaits_mem e] using hu
  · simp [hu]

@[simp] theorem State.peerAtom_wf {s : State} (h : s.mem.wf) (r : PeerAccess) : (s.peerAtom r).mem.wf := by
  unfold State.peerAtom
  split
  · exact h
  · split
    · exact h
    · dsimp only
      split
      · next e => simpa [State.partsWait_mem e] using h
      · next e =>
        have h1 := wf_of_eq (State.readHome_wf h ..) e
        split <;> simp [h, h1]

@[simp] theorem State.peerWrite_wf {s : State} (h : s.mem.wf) (r : PeerAccess) (data : List Byte) :
    (s.peerWrite r data).mem.wf := by
  unfold State.peerWrite
  split
  · exact h
  · exact State.wf_getD (State.writeParts_wf h ..) fun _ e => by simpa [State.partsWait_mem e] using h

theorem execRdmaPeerAccess_wf {s : State} (h : s.mem.wf) (req : PeerAccess) : OutWf (execRdmaPeerAccess req s) := by
  fun_cases execRdmaPeerAccess
  case case3 => exact State.wf_getD (State.readParts_wf h ..) fun _ e => by simpa [State.partsWait_mem e] using h
  all_goals simp [h]

@[simp] theorem State.raiseDevice_mem (s : State) (isle : Nat) (cores : List Nat) : (s.raiseDevice isle cores).mem = s.mem :=
  State.mem_foldl (fun u k => u.onLane_mem k _) ..

@[simp] theorem execRdmaWorkCompletion_wf {s : State} (h : s.mem.wf) (port qp : Nat) :
    OutWf (execRdmaWorkCompletion port qp s) := by
  fun_cases execRdmaWorkCompletion <;> simp [h]

theorem State.dmaWaits_mem {s t : State} {req : DmaAccess} (e : s.dmaWaits req = some t) : t.mem = s.mem := by
  unfold State.dmaWaits at e
  split at e
  · exact State.partsWait_mem e
  · cases e

@[simp] theorem State.doDma_wf {s : State} (h : s.mem.wf) (req : DmaAccess) : (s.doDma req).mem.wf := by
  fun_cases State.doDma <;> simp [h]

theorem execNvmeDma_wf {s : State} (h : s.mem.wf) (req : DmaAccess) : OutWf (execNvmeDma req s) :=
  State.wf_getD (State.doDma_wf h req) fun _ e => by simpa [State.dmaWaits_mem e] using h

theorem execNvmeCompletion_wf {s : State} (h : s.mem.wf) (port : Nat) (entry : NvmeEntry) :
    OutWf (execNvmeCompletion port entry s) := by
  unfold execNvmeCompletion
  split
  · next e =>
    obtain ⟨r, -, e⟩ := List.exists_of_findSome?_eq_some e
    simpa [State.dmaWaits_mem e] using h
  · simpa using State.wf_foldl (fun _ _ ht => State.doDma_wf ht _) _ h
  · exact h

/-! #### Functions of Sys2Proof/Machine/Hints.lean -/

@[simp] theorem State.laneHint_mem (s : State) (core : Nat) (i : Instr) (f : Lane → Option Lane) :
    (s.laneHint core i f).mem = s.mem := by
  fun_cases State.laneHint <;> simp

@[simp] theorem hintOp_wf {s : State} (h : s.mem.wf) (i : Instr) (f : Thread → HintEff) (g : Lane → Option Lane) :
    OutWf (hintOp i f g s) := by
  fun_cases hintOp <;> simp [h]

@[simp] theorem badModHint_wf {s : State} (h : s.mem.wf) (w : Word) : OutWf (badModHint w s) := by simp [badModHint, h]

@[simp] theorem execIllegalWord_wf {s : State} (h : s.mem.wf) (w : Word) : OutWf (execIllegalWord w s) := by
  fun_cases execIllegalWord <;> simp [h]

/-! #### Functions of Sys2Proof/Machine/Messages.lean -/

@[simp] theorem State.pageWalk_mem (s : State) (core va : Nat) : (s.pageWalk core va).mem = s.mem := by
  fun_cases State.pageWalk <;> simp

/-! #### Functions of Sys2Proof/Machine/Package.lean -/

@[simp] theorem State.bootSlot_wf {s : State} (h : s.mem.wf) (slot : Nat) : (s.bootSlot slot).mem.wf :=
  Memory.wf_writeBytes h ..

@[simp] theorem State.bootPrimary_wf {s : State} (h : s.mem.wf) : s.bootPrimary.mem.wf := by
  fun_cases State.bootPrimary <;> simp [h]

@[simp] theorem State.bootRom_wf {s : State} (h : s.mem.wf) (core : Nat) : (s.bootRom core).mem.wf := by
  fun_cases State.bootRom <;> simp [h]

@[simp] theorem State.endIsle_mem (s : State) (i : Nat) : (s.endIsle i).mem = s.mem := by
  unfold State.endIsle
  simp only [State.onIsle_mem, State.onDomain_mem]
  exact (State.mem_foldl (fun u n => u.onCluster_mem n _) ..).trans (State.mem_foldl (fun u k => u.onCore_mem k _) ..)

@[simp] theorem State.emptyL1_wf {s : State} (h : s.mem.wf) (n : Nat) : (s.emptyL1 n).mem.wf :=
  State.wf_foldl (fun _ _ ht => State.evictCopy_wf ht ..) _ h

@[simp] theorem State.restartIsle_wf {s : State} (h : s.mem.wf) (i : Nat) (floor : Time) (auto : Bool) :
    (s.restartIsle i floor auto).mem.wf :=
  State.wf_foldl (fun _ _ ht => by simpa using ht) _ (State.wf_foldl (fun _ _ ht => by simpa using State.emptyL1_wf ht _) _ h)

@[simp] theorem execIsleReset_wf {s : State} (h : s.mem.wf) (isle : Nat) : OutWf (execIsleReset isle s) := by
  fun_cases execIsleReset <;> simp [h]

@[simp] theorem execAttestationReportReady_wf {s : State} (h : s.mem.wf) : OutWf (execAttestationReportReady s) := by
  fun_cases execAttestationReportReady <;> simp [h]

theorem execEccCorrected_wf {s : State} (h : s.mem.wf) (site : EccSite) : OutWf (execEccCorrected site s) := by
  unfold execEccCorrected
  split
  · exact State.wf_foldl (fun _ _ ht => by simpa using ht) _ h
  · exact h

@[simp] theorem State.poisonSite_mem (s : State) (site : EccSite) : (s.poisonSite site).mem = s.mem := by
  fun_cases State.poisonSite <;> simp

@[simp] theorem execEccUncorrectable_wf {s : State} (h : s.mem.wf) (site : EccSite) : OutWf (execEccUncorrectable site s) := by
  fun_cases execEccUncorrectable <;> simp +zetaDelta [h]

@[simp] theorem execClusterPowerDown_wf {s : State} (h : s.mem.wf) (cluster : Nat) : OutWf (execClusterPowerDown cluster s) := by
  fun_cases execClusterPowerDown <;> simp [h]

theorem execClusterPowerUp_wf {s : State} (h : s.mem.wf) (cluster : Nat) : OutWf (execClusterPowerUp cluster s) := by
  unfold execClusterPowerUp
  split
  · exact h
  · dsimp only
    split
    · exact State.wf_foldl (fun _ _ ht => by simpa using ht) _ h
    · exact h

/-! ### The step -/

/-- Every instruction, hint and event keeps memory in its canonical form (R4, log 1). -/
theorem exec_wf {s : State} (h : s.mem.wf) (i : Instr) : OutWf (exec i s) := by
  cases i <;> dsimp only [exec]
  case add | sub | add64 | sub64 | mul | mulhiS | mulhiU | mad | mad64 | divu | divs | remu | rems | shl | shr | sra | rotl |
      shl64 | shr64 | sra64 | and | or | xor | andn | orn | minS | minU | maxS | maxU | abs | clz | ctz | popc | brev | bfx |
      bfi | bmix | sel | cmpEqS | cmpNeS | cmpLtS | cmpLeS | cmpGtS | cmpGeS | cmpEqU | cmpNeU | cmpLtU | cmpLeU | cmpGtU |
      cmpGeU | fadd | fsub | fmul | ffma | fmin | fmax | fneg | fclass | fcmpEq | fcmpNe | fcmpLt | fcmpLe | fcmpUnord | frcp |
      frsq | fsqrt | fexp2 | flog2 | fsin | fcos | fintFloor | fintCeil | fintTrunc | fintRound | paddBf | pmulBf | pfmaBf |
      paddH | pmulH | pfmaH | dp4 | f8dot4E4 | f8dot4E5 | qpack | qunpack | cvt | movi | addi | muli | andi | ori | xori | shli
      | shri | srai | cmpeqi | cmpnei | cmplti | cmpltui | cmpgei | cmpgeui => exact regOp_wf h ..
  case ld => exact execLd_wf h ..
  case st => exact execSt_wf h ..
  case ldx => exact execLdx_wf h ..
  case stx => exact execStx_wf h ..
  case pf => exact execPf_wf h ..
  case lea => exact execLea_wf h ..
  case segq => exact execSegq_wf h ..
  case segld => exact execSegld_wf h ..
  case br | bz | bnz | jmp => exact branchOp_wf h ..
  case call | callr => exact callOp_wf h ..
  case ret => exact execRet_wf h
  case exit | yield | waitf => exact localOp_wf h ..
  case brk => exact execBrk_wf h ..
  case mcall => exact execMcall_wf h ..
  case mma => exact execMma_wf h ..
  case mmz => exact execMmz_wf h ..
  case accld | accst => exact accOp_wf h ..
  case thdl => exact execThdl_wf h ..
  case thfree => exact execThfree_wf h ..
  case pstWGroup | pstDGroup | pstQGroup | ppushGroup | pstWCore | pstDCore | pstQCore | ppushCore => exact pushOp_wf h ..
  case tcopy => exact execTcopy_wf h ..
  case tseal => exact execTseal_wf h ..
  case twait => exact execTwait_wf h ..
  case cwait => exact execCwait_wf h ..
  case permitArm => exact execPermitArm_wf h ..
  case permitDrop => exact execPermitDrop_wf h ..
  case fabPut | fabGet | fabAtom | fabRed | fabMcast => exact fabOp_wf h ..
  case ldAcq => exact execLdAcq_wf h ..
  case stRel => exact execStRel_wf h ..
  case atomAdd | atomSub | atomMin | atomMax | atomAnd | atomOr | atomXor | atomExch | atomCas | atomFadd | atomFmin | atomFmax
      | atomBfadd2 => exact atomOp_wf h ..
  case fence => exact execFence_wf h ..
  case shfl | vote | scan | red => exact collectiveOp_wf h ..
  case fspawn | tspawn => exact spawnOp_wf h ..
  case fget => exact execFget_wf h ..
  case fput => exact execFput_wf h ..
  case fref => exact execFref_wf h ..
  case fdrop => exact execFdrop_wf h ..
  case fstate => exact execFstate_wf h ..
  case sys => exact execSys_wf h ..
  case eret => exact execEret_wf h
  case ctlr => exact execCtlr_wf h ..
  case ctlw => exact execCtlw_wf h ..
  case qpop => exact execQpop_wf h ..
  case qret => exact execQret_wf h ..
  case kgo => exact execKgo_wf h ..
  case mload => exact execMload_wf h ..
  case ipi => exact execIpi_wf h ..
  case wfi => exact execWfi_wf h
  case preempt => exact execPreempt_wf h ..
  case csave => exact execCsave_wf h ..
  case crestore => exact execCrestore_wf h ..
  case racq => exact execRacq_wf h ..
  case rrel => exact execRrel_wf h ..
  case barSet => exact execBarSet_wf h ..
  case barArrive => exact execBarArrive_wf h ..
  case barWait => exact execBarWait_wf h ..
  case barSync => exact execBarSync_wf h ..
  case rmset => exact execRmset_wf h ..
  case rjarrive | rjwait | rjdrop => exact rjOp_wf h ..
  case cvset => exact execCvset_wf h ..
  case scgset => exact execScgset_wf h ..
  case tlbinv => exact execTlbinv_wf h ..
  case atp => exact execAtp_wf h ..
  case tdecl => exact execTdecl_wf h ..
  case rnext => exact execRnext_wf h ..
  case tend => exact execTend_wf h
  case tmove => exact execTmove_wf h ..
  case fpoint => exact execFpoint_wf h
  case fguard => exact execFguard_wf h
  case fend => exact execFend_wf h
  case sched | imm | live | livescratch | mod | fmt => exact hintOp_wf h ..
  case illegalWord => exact execIllegalWord_wf h ..
  case loadDataReturn | storePerformed | pageWalk | preemptGraceExpiry | joinPatienceExpiry | peerProbe |
      peerForwardRegistration | readRequest | ownershipRequest | homeWrite | writeback | dataReply | invalidate | recallLine |
      setRecall | filterAck | atomicApply | leaseRead | leaseWrite | heldWriteRelease | sweep | ptsTick | floorDelivery |
      timerCompare | pieceAging | packageReset | thermalThrottle | recallDeferralExpiry | fabricPortDown =>
        simp [execLoadDataReturn, execStorePerformed, execPageWalk, execPreemptGraceExpiry, execJoinPatienceExpiry,
      execPeerProbe, execPeerForwardRegistration, execReadRequest, execOwnershipRequest, execHomeWrite, execWriteback,
      execDataReply, execInvalidate, execRecall, execSetRecall, execFilterAck, execAtomicApply, execLeaseRead, execLeaseWrite,
      execHeldWriteRelease, execSweep, execPtsTick, execFloorDelivery, execTimerCompare, execPieceAging, execPackageReset,
      execThermalThrottle, execRecallDeferralExpiry, execFabricPortDown, h]
  case deferredMachineTrap => exact execDeferredMachineTrap_wf h ..
  case trapRecordMade => exact execTrapRecordMade_wf h ..
  case spillRecordReturn => exact execSpillRecordReturn_wf h ..
  case heldTrapRecord => exact execHeldTrapRecord_wf h ..
  case watchdogExpiry => exact execWatchdogExpiry_wf h ..
  case crewReadyToSave => exact execCrewReadyToSave_wf h ..
  case racqGrant => exact execRacqGrant_wf h ..
  case mmaEnterQueue => exact execMmaEnterQueue_wf h ..
  case mmaOperandArrival => exact execMmaOperandArrival_wf h ..
  case mmaKstep => exact execMmaKstep_wf h ..
  case mmaOperandFault => exact execMmaOperandFault_wf h ..
  case mmzExecute => exact execMmzExecute_wf h ..
  case accldExecute => exact execAccldExecute_wf h ..
  case accstExecute => exact execAccstExecute_wf h ..
  case copyStart => exact execCopyStart_wf h ..
  case copyLineRead => exact execCopyLineRead_wf h ..
  case copyLineWrite => exact execCopyLineWrite_wf h ..
  case spillSlotReadback => exact execSpillSlotReadback_wf h ..
  case copyComplete => exact execCopyComplete_wf h ..
  case multicastDelivery => exact execMulticastDelivery_wf h ..
  case cwaitWake => exact execCwaitWake_wf h ..
  case pushMergeAtHome => exact execPushMergeAtHome_wf h ..
  case pushFill => exact execPushFill_wf h ..
  case pushComplete => exact execPushComplete_wf h ..
  case quotaWindowStart => exact execQuotaWindowStart_wf h ..
  case forwardEntryExpiry => exact execForwardEntryExpiry_wf h ..
  case permitForwardExpiry => exact execPermitForwardExpiry_wf h ..
  case tlbinvComplete => exact execTlbinvComplete_wf h ..
  case interruptEntry => exact execInterruptEntry_wf h ..
  case wfiWake => exact execWfiWake_wf h ..
  case sliceExpiry => exact execSliceExpiry_wf h ..
  case debugFreezeComplete => exact execDebugFreezeComplete_wf h ..
  case exitRetire => exact execExitRetire_wf h ..
  case piecePlacement => exact execPiecePlacement_wf h ..
  case askForWork => exact execAskForWork_wf h ..
  case crewMove => exact execCrewMove_wf h ..
  case isleReset => exact execIsleReset_wf h ..
  case attestationReportReady => exact execAttestationReportReady_wf h
  case fabricSourceRead => exact execFabricSourceRead_wf h ..
  case fabricRemoteRequest => exact execFabricRemoteRequest_wf h ..
  case fabricComplete => exact execFabricComplete_wf h ..
  case reductionContribution => exact execReductionContribution_wf h ..
  case reductionTimeout => exact execReductionTimeout_wf h ..
  case fabricUnreachable => exact execFabricUnreachable_wf h ..
  case rdmaPeerAccess => exact execRdmaPeerAccess_wf h ..
  case rdmaWorkCompletion => exact execRdmaWorkCompletion_wf h ..
  case nvmeDma => exact execNvmeDma_wf h ..
  case nvmeCompletion => exact execNvmeCompletion_wf h ..
  case eccCorrected => exact execEccCorrected_wf h ..
  case eccUncorrectable => exact execEccUncorrectable_wf h ..
  case clusterPowerDown => exact execClusterPowerDown_wf h ..
  case clusterPowerUp => exact execClusterPowerUp_wf h ..

/-! #### The events of a cycle -/

theorem runAll_wf {l : List (State → Out)} (hl : EventsWf l) {s : State} (h : s.mem.wf) : OutWf (runAll l s) := by
  induction l generalizing s with
  | nil => exact h
  | cons f l ih =>
    have hf : OutWf (f s) := hl f (List.mem_cons_self ..) s h
    unfold runAll
    split
    · next e => exact ih (fun g hg => hl g (List.mem_cons_of_mem _ hg)) (hf.of_next e)
    · trivial
    · trivial

@[simp] theorem State.noteDecision_mem (s : State) (core : Nat) (g : Option Gang) : (s.noteDecision core g).mem = s.mem := rfl

theorem State.clockEvents_wf (s : State) : EventsWf s.clockEvents :=
  ((eventsWf_map fun k _ ht => exec_wf ht (.ptsTick k)).append
    (eventsWf_map fun k _ ht => exec_wf ht (.quotaWindowStart k))).append
    (eventsWf_map fun k _ ht => exec_wf ht (.timerCompare k))

theorem State.limitEvents_wf (s : State) : EventsWf s.limitEvents := by
  have permits (c : Nat × Cluster) (l : List (Nat × Permit)) : EventsWf (l.map fun p => execPermitForwardExpiry c.1 p.1) :=
    eventsWf_map fun p _ ht => exec_wf ht (.permitForwardExpiry c.1 p.1)
  have deferred : EventsWf (s.lines.filterMap fun h =>
      match h.2.recalling, h.2.owner with
      | some (_, some d), some cl => if d ≤ s.cycle then some (execRecallDeferralExpiry cl h.1) else none
      | _, _ => none) := by
    intro f hf t ht
    obtain ⟨x, -, e⟩ := List.mem_filterMap.mp hf
    split at e
    · split at e
      · cases e
        exact exec_wf ht (.recallDeferralExpiry ..)
      · cases e
    · cases e
  unfold State.limitEvents
  refine EventsWf.append (EventsWf.append (EventsWf.append (EventsWf.append (EventsWf.append
    (EventsWf.append ?_ ?_) ?_) ?_) deferred) ?_) ?_
  · exact eventsWf_map fun x _ ht => exec_wf ht (.preemptGraceExpiry x.1 x.2.1)
  · exact eventsWf_map fun c _ ht => exec_wf ht (.pieceAging c.1)
  · exact eventsWf_map fun f _ ht => exec_wf ht (.forwardEntryExpiry f.1)
  · exact eventsWf_flatten_map fun c => permits c _
  · exact eventsWf_map fun c _ ht => exec_wf ht (.racqGrant c.1)
  · exact eventsWf_map fun r _ ht => exec_wf ht (.reductionTimeout r.1)

/-- The sweeps of a held write and its release (R320). -/
theorem eventsWf_sweeps (id : Nat) :
    EventsWf ((List.range Config.clusters).map (fun cl => execSweep id cl) ++ [execHeldWriteRelease id]) :=
  (eventsWf_map fun cl _ ht => exec_wf ht (.sweep id cl)).append (eventsWf_singleton fun _ ht => exec_wf ht
    (.heldWriteRelease id))

theorem State.floorEvents_wf (s : State) : EventsWf s.floorEvents := by
  refine EventsWf.append ?_ ?_
  · exact eventsWf_flatten_map fun o => eventsWf_sweeps o.id
  · exact eventsWf_map fun x _ ht => exec_wf ht (.floorDelivery x.1)

theorem State.startCycle_wf {s : State} (h : s.mem.wf) : OutWf s.startCycle :=
  runAll_wf ((s.clockEvents_wf.append s.limitEvents_wf).append s.floorEvents_wf) (State.serveDuties_wf h)

theorem State.lineEvents_wf (s : State) (line : Nat) : EventsWf (s.lineEvents line) :=
  (eventsWf_map fun cl _ ht => exec_wf ht (.recallLine cl line)).append (eventsWf_map fun cl _ ht => exec_wf ht
    (.invalidate cl line))

theorem requestEvents_wf (id : Nat) : EventsWf (requestEvents id) := by
  simp only [requestEvents, eventsWf_cons, eventsWf_nil, and_true]
  exact ⟨fun _ ht => exec_wf ht (.readRequest id), fun _ ht => exec_wf ht (.ownershipRequest id),
    fun _ ht => exec_wf ht (.leaseRead id), fun _ ht => exec_wf ht (.leaseWrite id), fun _ ht => exec_wf ht (.homeWrite id),
    fun _ ht => exec_wf ht (.atomicApply id)⟩

theorem State.filterEvents_wf (s : State) : EventsWf s.filterEvents :=
  eventsWf_map fun f _ ht => exec_wf ht (.setRecall (f.1 / 96 / 256) (f.1 / 96 % 256) (f.1 % 96))

theorem replyEvents_wf (id : Nat) : EventsWf (replyEvents id) := by
  simp only [replyEvents, eventsWf_cons, eventsWf_nil, and_true]
  exact ⟨fun _ ht => exec_wf ht (.dataReply id), fun _ ht => exec_wf ht (.peerForwardRegistration id),
    fun _ ht => exec_wf ht (.loadDataReturn id 15), fun _ ht => exec_wf ht (.storePerformed id)⟩

theorem State.moveOp_wf {s : State} (h : s.mem.wf) (id : Nat) : OutWf (s.moveOp id) := by
  have first := runAll_wf (requestEvents_wf id) h
  unfold State.moveOp
  split
  · exact h
  · split
    · next e =>
      refine runAll_wf (EventsWf.append (EventsWf.append (EventsWf.append (EventsWf.append ?_ ?_) (requestEvents_wf id))
        (replyEvents_wf id)) (State.filterEvents_wf _)) (first.of_next e)
      · split
        · exact eventsWf_sweeps id
        · exact eventsWf_nil
      · split
        · exact State.lineEvents_wf _ _
        · exact eventsWf_nil
    · exact first

theorem State.movePush_wf {s : State} (h : s.mem.wf) (id : Nat) : OutWf (s.movePush id) := by
  have merge {t : State} (ht : t.mem.wf) : OutWf (execPushMergeAtHome id t) := exec_wf ht (.pushMergeAtHome id)
  unfold State.movePush
  split
  · exact h
  · split
    · next e =>
      exact runAll_wf (EventsWf.append (EventsWf.append (EventsWf.append (State.lineEvents_wf _ _)
        (eventsWf_singleton fun _ => merge)) (eventsWf_map fun cl _ ht => exec_wf ht (.pushFill id cl)))
        (eventsWf_singleton fun _ ht => exec_wf ht (.pushComplete id))) ((merge h).of_next e)
    · exact merge h

theorem State.moveMatrix_wf {s : State} (h : s.mem.wf) (k : Nat) : OutWf (s.moveMatrix k) := by
  have enter (l : List MatOp) : EventsWf (l.map fun _ => execMmaEnterQueue k) :=
    eventsWf_map fun _ _ ht => exec_wf ht (.mmaEnterQueue k)
  refine runAll_wf (((enter _).append ?_).append (enter _)) h
  simp only [eventsWf_cons, eventsWf_nil, and_true]
  exact ⟨fun _ ht => exec_wf ht (.mmaOperandArrival k), fun _ ht => exec_wf ht (.mmaOperandFault k),
    fun _ ht => exec_wf ht (.mmaKstep k), fun _ ht => exec_wf ht (.mmzExecute k), fun _ ht => exec_wf ht (.accldExecute k),
    fun _ ht => exec_wf ht (.accstExecute k)⟩

/-! #### The end of a cycle -/

@[simp] theorem State.endFreeze_wf {s : State} (h : s.mem.wf) : s.endFreeze.mem.wf := by
  refine State.wf_foldl (fun u x hu => State.wf_ite (by simpa using hu) hu) _ (State.wf_foldl (fun u c hu => ?_) _
    (State.wf_foldl (fun u x hu => ?_) _ h))
  · simp [hu]
  · exact State.wf_ite (by simp [hu]) hu

@[simp] theorem State.endBoundary_mem (s : State) : s.endBoundary.mem = s.mem :=
  (State.mem_foldl (fun u _ => u.preemptThread_mem ..) ..).trans (State.mem_foldl (fun u _ => u.stepThread_mem ..) ..)

theorem State.closeRound_wf {s : State} (h : s.mem.wf) (core slot n : Nat) : OutWf (s.closeRound core slot n) := by
  unfold State.closeRound
  split
  · exact h
  · split <;> simp [h]

theorem State.closeRounds_wf {s : State} (h : s.mem.wf) (l : List (Nat × Nat × Nat)) : OutWf (State.closeRounds l s) := by
  induction l generalizing s with
  | nil => exact h
  | cons x l ih =>
    unfold State.closeRounds
    split
    · next e => exact ih ((State.closeRound_wf h ..).of_next e)
    · trivial
    · trivial

theorem State.endRounds_wf {s : State} (h : s.mem.wf) : OutWf s.endRounds := by
  unfold State.endRounds
  split
  · next e =>
    have h1 := (State.closeRounds_wf h _).of_next e
    exact runAll_wf (eventsWf_flatten_map fun c => eventsWf_map fun _ _ ht => exec_wf ht (.mmaEnterQueue c.1)) h1
  · trivial
  · trivial

@[simp] theorem State.endCycle_wf {s : State} (h : s.mem.wf) : s.endCycle.mem.wf := by
  simp [State.endCycle, h]

theorem State.tickStage_wf {s : State} (h : s.mem.wf) (n : Nat) : OutWf (s.tickStage n) := by
  unfold State.tickStage
  split
  · exact State.endFreeze_wf h
  · simpa using h
  · exact h
  · exact State.endRounds_wf h
  · exact State.endCycle_wf h

/-! #### The next act of a cycle, and the step -/

/-- What a step comes to keeps memory in its canonical form, as far as it has got. -/
def TodoWf (x : Todo) : Prop :=
  match x with
  | .done o => OutWf o
  | .run _ s => s.mem.wf

@[simp] theorem todoWf_done (o : Out) : TodoWf (.done o) ↔ OutWf o := Iff.rfl
@[simp] theorem todoWf_run (i : Instr) (s : State) : TodoWf (.run i s) ↔ s.mem.wf := Iff.rfl

theorem State.gangTodo_wf {s : State} (h : s.mem.wf) (core : Nat) : TodoWf (s.gangTodo core) := by
  fun_cases State.gangTodo <;> simp +zetaDelta [h]

theorem State.hintTodo_wf {s : State} (h : s.mem.wf) (core slot tid : Nat) : TodoWf (s.hintTodo core slot tid) := by
  fun_cases State.hintTodo <;> simp [h]

theorem State.laneTodo_wf {s : State} (h : s.mem.wf) (core : Nat) : TodoWf (s.laneTodo core) := by
  fun_cases State.laneTodo
  case case2 => exact exec_wf h (.interruptEntry core)
  all_goals simp +zetaDelta [h]

theorem State.actTodo_wf {s : State} (h : s.mem.wf) (a : Act) : TodoWf (s.actTodo a) := by
  cases a with
  | gang core => exact State.gangTodo_wf h core
  | hint core slot tid => exact State.hintTodo_wf h core slot tid
  | lane core => exact State.laneTodo_wf h core
  | event i => exact h
  | clock => exact State.startCycle_wf h
  | memory id => exact State.moveOp_wf h id
  | push id => exact State.movePush_wf h id
  | matrix core => exact State.moveMatrix_wf h core
  | line n => exact runAll_wf (s.lineEvents_wf n) h
  | tick n => exact State.tickStage_wf h n

theorem State.todo_wf {s : State} (h : s.mem.wf) : TodoWf s.todo := by
  unfold State.todo
  split
  · exact h
  · next rest _ => exact State.actTodo_wf (s := { s with agenda := rest }) h _

/-- The canonical form of memory is kept by whatever the next act of the cycle is. -/
theorem step_wf {s : State} (h : s.mem.wf) : OutWf (step s) := by
  have next := State.todo_wf h
  unfold step
  split
  · next e => exact (congrArg TodoWf e).mp next
  · next i t e => exact exec_wf ((congrArg TodoWf e).mp next) i

/-- Settles O6: from any state, by `exec_wf` for the instructions and events and `State.todo_wf` for the acts around them. -/
theorem memoryStaysCanonical : Obligations.MemoryStaysCanonical := by
  intro s t h e
  exact (step_wf h).of_next e

end Sys2Proof.Machine
end

section

/-! SUPPORT. Bytes and register pairs (R4, R6). -/

namespace Sys2Proof.Machine

/-! ### Little-endian memory -/

/-- Byte `k` of a number, as bits and as a quotient (R4). -/
theorem bits_byte (x k : Nat) : BitVec.ofNat 8 (bits x (8 * k + 7) (8 * k)) = BitVec.ofNat 8 (x / 256 ^ k) := by
  have width : 8 * k + 7 + 1 - 8 * k = 8 := by omega
  have base : 256 ^ k = 2 ^ (8 * k) := by rw [Nat.pow_mul]
  apply BitVec.eq_of_toNat_eq
  rw [bits, width, Nat.shiftRight_eq_div_pow, base, BitVec.toNat_ofNat, BitVec.toNat_ofNat, Nat.mod_mod]

/-- Settles O8: a number is written as its digits to base 256, the lowest first, and read back from them. -/
theorem littleEndian : Obligations.LittleEndian := by
  intro m a n x
  refine ⟨fun k hk => ?_, fun c hc => m.read_writeNat_out n x hc, ?_, fun h => Memory.wf_writeNat h ..⟩
  · rw [m.read_writeNat_in n x hk, bits_byte]
  · rw [Memory.readNat_writeNat, Nat.pow_mul]

/-! ### Register pairs -/

theorem lo32_pair64 (hi lo : Word) : lo32 (pair64 hi lo) = lo := by
  rw [lo32, pair64, BitVec.extractLsb'_append_eq_right]

theorem hi32_pair64 (hi lo : Word) : hi32 (pair64 hi lo) = hi := by
  rw [hi32, pair64, BitVec.extractLsb'_append_eq_left]

/-- With no result distance open a register reads as it stands (R46). -/
theorem Thread.seen_of_no_shadows {th : Thread} (h : th.shadows = []) (c : Ctx) (r : Nat) : th.seen c r = th.reg r := by
  simp [Thread.seen, h]

theorem Thread.readP_of_no_shadows {th : Thread} (h : th.shadows = []) (c : Ctx) {o : Opnd} (ho : o.toNat < 96) :
    th.readP c o = pair64 (th.reg (o.toNat + 1)) (th.reg o.toNat) := by
  rw [Thread.readP, if_neg (by omega), if_pos ho, Thread.seen_of_no_shadows h, Thread.seen_of_no_shadows h]

theorem Thread.reg_writeResult_even (th : Thread) (c : Ctx) (k : Nat) (d : Opnd) (v : DWord) :
    (th.writeResult c k false d (.p v)).reg d.toNat = lo32 v := by
  simp [Thread.writeResult, Thread.reg_result_ne]

theorem Thread.reg_writeResult_odd (th : Thread) (c : Ctx) (k : Nat) (d : Opnd) (v : DWord) :
    (th.writeResult c k false d (.p v)).reg (d.toNat + 1) = hi32 v := by
  simp [Thread.writeResult]

theorem wfThread_of_decodeThread {w : Word} {i : Instr} (h : decodeThread w = some i) : i.wfThread = true := by
  unfold decodeThread at h
  split at h
  · obtain ⟨hi, e⟩ := Option.ite_none_right_eq_some.mp h
    cases e
    exact hi
  · cases h

theorem threadOk_of_decodeThread {w : Word} {i : Instr} {u : OpndUse} (h : decodeThread w = some i) (hu : u ∈ i.opnds) :
    u.kind.threadOk u.code = true :=
  List.all_eq_true.mp (Bool.and_eq_true_iff.mp (wfThread_of_decodeThread h)).2 u hu

/-- A thread's operand field of a pair accepts even codes only (R40). -/
theorem Kind.even_of_threadOk {k : Kind} {c : Opnd} (hk : k = .ps ∨ k = .pd) (h : k.threadOk c = true) : c.toNat % 2 = 0 := by
  rcases hk with rfl | rfl <;> exact of_decide_eq_true (Bool.and_eq_true_iff.mp h).2

/-- Settles O9: the pair that is read is the two registers side by side, the result that is written its two halves, and the decoder
accepts even codes only. -/
theorem registerPairs : Obligations.RegisterPairs := by
  refine ⟨fun th c o ho _ hs => ?_, fun th c k d v => ?_, fun w i u hd hu _ hk => ?_⟩
  · rw [Thread.readP_of_no_shadows hs c ho]
    exact ⟨lo32_pair64 .., hi32_pair64 ..⟩
  · exact ⟨th.reg_writeResult_even c k d v, th.reg_writeResult_odd c k d v⟩
  · exact Kind.even_of_threadOk hk (threadOk_of_decodeThread hd hu)

/-! ### A step runs the decoded instruction -/

theorem wordInstr_of_decode {w : Word} {i : Instr} (h : decodeThread w = some i) : wordInstr w = i := by
  simp [wordInstr, h]

theorem laneInstr_of_decode {w : Word} {i : Instr} (h : decodeLane w = some i) : laneInstr w = i := by
  simp [laneInstr, h]

/-- Outside a microprogram the word at hand is the one fetched at the PC (R11). -/
theorem State.peekWord_of_fetchHit {s : State} {c : Ctx} {th : Thread} {h : Hit} (hm : th.mac = none)
    (hf : s.fetchHit (s.viewer c th) th.pc = .ok h) :
    s.peekWord c th = .ok (BitVec.ofNat 32 (s.fetchData c.core h).1) := by
  simp only [State.peekWord, hm, State.fetchWord, hf]
  rfl

theorem State.core_of_gangHead {s : State} {core : Nat} {g : Gang} {c : Ctx} {th : Thread} (h : s.gangHead core g = some (c, th)) :
    c.core = core := by
  unfold State.gangHead at h
  split at h
  · obtain ⟨_, -, e⟩ := Option.map_eq_some_iff.mp h
    cases e
    rfl
  · cases h

/-- A hint that is due stands outside a microprogram (R42, R58). -/
theorem State.mac_of_hintDue {s : State} {core slot tid : Nat} {w : Crew} {th : Thread} (h : s.hintDue core slot tid = true)
    (hw : s.crew core slot = some w) (ht : w.threads.find tid = some th) : th.mac = none := by
  simp only [State.hintDue, hw, ht, Bool.and_eq_true] at h
  obtain ⟨⟨⟨-, mac⟩, -⟩, -⟩ := h
  exact Option.isNone_iff_eq_none.mp mac

theorem State.gangTodo_of_decode {s : State} {core : Nat} {g : Gang} {c : Ctx} {th : Thread} {h : Hit} {i : Instr}
    (hp : s.pick core = some g) (hg : s.gangHead core g = some (c, th)) (hm : th.mac = none)
    (hf : s.fetchHit (s.viewer c th) th.pc = .ok h) (hd : decodeThread (BitVec.ofNat 32 (s.fetchData core h).1) = some i) :
    s.gangTodo core = .run i { (((s.noteDecision core (some g)).noteFetch c th).noteDivide core g.tids i) with
      acting := .gang core g.slot g.tids g.gsize } := by
  have word := State.peekWord_of_fetchHit hm hf
  rw [State.core_of_gangHead hg] at word
  simp only [State.gangTodo, hp, hg, word, wordInstr_of_decode hd]

theorem State.hintTodo_of_decode {s : State} {core slot tid : Nat} {w : Crew} {th : Thread} {h : Hit} {i : Instr}
    (hh : s.hintDue core slot tid = true) (hw : s.crew core slot = some w) (ht : w.threads.find tid = some th)
    (hf : s.fetchHit (s.viewer (s.ctx core slot w 1 tid) th) th.pc = .ok h)
    (hd : decodeThread (BitVec.ofNat 32 (s.fetchData core h).1) = some i) :
    s.hintTodo core slot tid = .run i { s.noteFetch (s.ctx core slot w 1 tid) th with acting := .gang core slot [tid] 1 } := by
  have word : s.peekWord (s.ctx core slot w 1 tid) th = .ok (BitVec.ofNat 32 (s.fetchData core h).1) :=
    State.peekWord_of_fetchHit (State.mac_of_hintDue hh hw ht) hf
  have thread : s.thread core slot tid = some th := (State.thread_of_crew hw).trans ht
  simp [State.hintTodo, State.peekInstr, hh, hw, thread, word, wordInstr_of_decode hd]

theorem State.laneTodo_of_decode {s : State} {core : Nat} {w : Word} {i : Instr} (hr : s.laneRuns core = true)
    (hi : s.interruptDue core = false) (hrom : s.inRom core = false) (hw : s.laneWord core = .ok w)
    (hd : decodeLane w = some i) :
    s.laneTodo core = .run i { s.fetched (s.laneViewer core) (s.core core).lane.pc with acting := .lane core } := by
  simp [State.laneTodo, hr, hi, hrom, hw, laneInstr_of_decode hd]

theorem State.laneTodo_of_interrupt {s : State} {core : Nat} (hr : s.laneRuns core = true) (hi : s.interruptDue core = true) :
    s.laneTodo core = .done (execInterruptEntry core s) := by
  simp [State.laneTodo, hr, hi]

/-- The act at the head of the agenda is the next step. -/
theorem State.todo_of_agenda {s : State} {a : Act} {rest : List Act} (h : s.agenda = a :: rest) :
    s.todo = { s with agenda := rest }.actTodo a := by
  simp only [State.todo, h]

theorem step_of_run {s t : State} {i : Instr} (h : s.todo = .run i t) : step s = exec i t := by
  simp only [step, h]

theorem step_of_done {s : State} {o : Out} (h : s.todo = .done o) : step s = o := by
  simp only [step, h]

/-- Settles O4: each act's part of the step, by what it fetches. -/
theorem stepRunsDecoded : Obligations.StepRunsDecoded := by
  intro s rest i s0
  refine ⟨fun core g c th h ha hp hg hm hf hd => ?_, fun core slot tid w th h ha hh hw ht hf hd => ?_,
    fun core w ha hr hi hrom hw hd => ?_, fun core ha hr hi => ?_, fun ha => ?_⟩
  · exact step_of_run ((State.todo_of_agenda ha).trans (State.gangTodo_of_decode hp hg hm hf hd))
  · exact step_of_run ((State.todo_of_agenda ha).trans (State.hintTodo_of_decode hh hw ht hf hd))
  · exact step_of_run ((State.todo_of_agenda ha).trans (State.laneTodo_of_decode hr hi hrom hw hd))
  · exact step_of_done ((State.todo_of_agenda ha).trans (State.laneTodo_of_interrupt hr hi))
  · exact step_of_run (State.todo_of_agenda ha)

end Sys2Proof.Machine
end

section

/-! SUPPORT. The instruction word (R38 to R69, R235): decoding and encoding agree, and what a decoder answers. -/

namespace Sys2Proof.Laws.RoundTrip

/-- Every instruction with a word is what its word decodes to, before the operand checks. -/
theorem statement (i : Instr) : Statement i := by
  cases i with
  | add => apply add | sub => apply sub | add64 => apply add64 | sub64 => apply sub64 | mul => apply mul
  | mulhiS => apply mulhiS | mulhiU => apply mulhiU | mad => apply mad | mad64 => apply mad64 | divu => apply divu
  | divs => apply divs | remu => apply remu | rems => apply rems | shl => apply shl | shr => apply shr | sra => apply sra
  | rotl => apply rotl | shl64 => apply shl64 | shr64 => apply shr64 | sra64 => apply sra64 | and => apply and
  | or => apply or | xor => apply xor | andn => apply andn | orn => apply orn | minS => apply minS | minU => apply minU
  | maxS => apply maxS | maxU => apply maxU | abs => apply abs | clz => apply clz | ctz => apply ctz | popc => apply popc
  | brev => apply brev | bfx => apply bfx | bfi => apply bfi | bmix => apply bmix | sel => apply sel | cmpEqS => apply cmpEqS
  | cmpNeS => apply cmpNeS | cmpLtS => apply cmpLtS | cmpLeS => apply cmpLeS | cmpGtS => apply cmpGtS
  | cmpGeS => apply cmpGeS | cmpEqU => apply cmpEqU | cmpNeU => apply cmpNeU | cmpLtU => apply cmpLtU
  | cmpLeU => apply cmpLeU | cmpGtU => apply cmpGtU | cmpGeU => apply cmpGeU | fadd => apply fadd | fsub => apply fsub
  | fmul => apply fmul | ffma => apply ffma | fmin => apply fmin | fmax => apply fmax | fneg => apply fneg
  | fclass => apply fclass | fcmpEq => apply fcmpEq | fcmpNe => apply fcmpNe | fcmpLt => apply fcmpLt
  | fcmpLe => apply fcmpLe | fcmpUnord => apply fcmpUnord | frcp => apply frcp | frsq => apply frsq | fsqrt => apply fsqrt
  | fexp2 => apply fexp2 | flog2 => apply flog2 | fsin => apply fsin | fcos => apply fcos | fintFloor => apply fintFloor
  | fintCeil => apply fintCeil | fintTrunc => apply fintTrunc | fintRound => apply fintRound | paddBf => apply paddBf
  | pmulBf => apply pmulBf | pfmaBf => apply pfmaBf | paddH => apply paddH | pmulH => apply pmulH | pfmaH => apply pfmaH
  | dp4 => apply dp4 | f8dot4E4 => apply f8dot4E4 | f8dot4E5 => apply f8dot4E5 | qpack => apply qpack
  | qunpack => apply qunpack | cvt => apply cvt | movi => apply movi | addi => apply addi | muli => apply muli
  | andi => apply andi | ori => apply ori | xori => apply xori | shli => apply shli | shri => apply shri | srai => apply srai
  | cmpeqi => apply cmpeqi | cmpnei => apply cmpnei | cmplti => apply cmplti | cmpltui => apply cmpltui
  | cmpgei => apply cmpgei | cmpgeui => apply cmpgeui | ld => apply ld | st => apply st | ldx => apply ldx | stx => apply stx
  | pf => apply pf | lea => apply lea | segq => apply segq | segld => apply segld | br => apply br | bz => apply bz
  | bnz => apply bnz | jmp => apply jmp | call => apply call | callr => apply callr | ret => apply ret | exit => apply exit
  | yield => apply yield | brk => apply brk | mcall => apply mcall | mma => apply mma | mmz => apply mmz
  | accld => apply accld | accst => apply accst | thdl => apply thdl | thfree => apply thfree | waitf => apply waitf
  | pstWGroup => apply pstWGroup | pstDGroup => apply pstDGroup | pstQGroup => apply pstQGroup
  | ppushGroup => apply ppushGroup | pstWCore => apply pstWCore | pstDCore => apply pstDCore | pstQCore => apply pstQCore
  | ppushCore => apply ppushCore | tcopy => apply tcopy | tseal => apply tseal | twait => apply twait | cwait => apply cwait
  | permitArm => apply permitArm | permitDrop => apply permitDrop | fabPut => apply fabPut | fabGet => apply fabGet
  | fabAtom => apply fabAtom | fabRed => apply fabRed | fabMcast => apply fabMcast | ldAcq => apply ldAcq
  | stRel => apply stRel | atomAdd => apply atomAdd | atomSub => apply atomSub | atomMin => apply atomMin
  | atomMax => apply atomMax | atomAnd => apply atomAnd | atomOr => apply atomOr | atomXor => apply atomXor
  | atomExch => apply atomExch | atomCas => apply atomCas | atomFadd => apply atomFadd | atomFmin => apply atomFmin
  | atomFmax => apply atomFmax | atomBfadd2 => apply atomBfadd2 | fence => apply fence | shfl => apply shfl
  | vote => apply vote | scan => apply scan | red => apply red | fspawn => apply fspawn | fget => apply fget
  | fput => apply fput | fref => apply fref | fdrop => apply fdrop | fstate => apply fstate | tspawn => apply tspawn
  | sys => apply sys | eret => apply eret | ctlr => apply ctlr | ctlw => apply ctlw | qpop => apply qpop | qret => apply qret
  | kgo => apply kgo | mload => apply mload | ipi => apply ipi | wfi => apply wfi | preempt => apply preempt
  | csave => apply csave | crestore => apply crestore | racq => apply racq | rrel => apply rrel | barSet => apply barSet
  | barArrive => apply barArrive | barWait => apply barWait | barSync => apply barSync | rmset => apply rmset
  | rjarrive => apply rjarrive | rjwait => apply rjwait | rjdrop => apply rjdrop | cvset => apply cvset
  | scgset => apply scgset | tlbinv => apply tlbinv | atp => apply atp | tdecl => apply tdecl | rnext => apply rnext
  | tend => apply tend | tmove => apply tmove | fpoint => apply fpoint | fguard => apply fguard | fend => apply fend
  | sched => apply sched | imm => apply imm | live => apply live | livescratch => apply livescratch | mod => apply mod
  | fmt => apply fmt
  | _ => exact nofun

end Sys2Proof.Laws.RoundTrip

namespace Sys2Proof.Machine

/-! ### Decoding an encoded instruction -/

theorem rawDecode_encode {i : Instr} (h : i.hasWord = true) : rawDecode (encode i) = some i := Laws.RoundTrip.statement i h

/-- Settles O2: the fields of the word give the instruction back, and its operands pass the decoder's checks. -/
theorem decodeEncode : Obligations.DecodeEncode := by
  intro i hw
  refine ⟨fun hi => ?_, fun hi => ?_⟩
  · simp only [decodeThread, rawDecode_encode hw, hi, if_true]
  · simp only [decodeLane, rawDecode_encode hw, hi, if_true]

/-- Settles O1: the decoder run on each word. -/
theorem wordsDecode : Obligations.WordsDecode := by
  unfold Obligations.WordsDecode
  decide +kernel

/-! ### What a decoder answers -/

theorem wfLane_of_decodeLane {w : Word} {i : Instr} (h : decodeLane w = some i) : i.wfLane = true := by
  unfold decodeLane at h
  split at h
  · obtain ⟨hi, e⟩ := Option.ite_none_right_eq_some.mp h
    cases e
    exact hi
  · cases h

/-- A thread's operand field of a quad accepts multiples of four only (R40). -/
theorem Kind.four_dvd_of_threadOk {k : Kind} {c : Opnd} (hk : k = .q) (h : k.threadOk c = true) : c.toNat % 4 = 0 := by
  subst hk
  exact of_decide_eq_true (Bool.and_eq_true_iff.mp h).2

/-- Settles O3: a decoder answers only what its checks have passed. -/
theorem decodedWellFormed : Obligations.DecodedWellFormed := by
  intro w i
  refine ⟨fun h => ?_, fun h => ?_⟩
  · obtain ⟨selectors, -⟩ := Bool.and_eq_true_iff.mp (wfThread_of_decodeThread h)
    refine ⟨selectors, fun u hu => ?_⟩
    have ok := threadOk_of_decodeThread h hu
    exact ⟨ok, fun hk => Kind.even_of_threadOk hk.symm ok, fun hk => Kind.four_dvd_of_threadOk hk ok⟩
  · obtain ⟨listed, opnds⟩ := Bool.and_eq_true_iff.mp (wfLane_of_decodeLane h)
    obtain ⟨onLane, selectors⟩ := Bool.and_eq_true_iff.mp listed
    exact ⟨onLane, selectors, List.all_eq_true.mp opnds⟩

end Sys2Proof.Machine
end

section

/-! SUPPORT. Package reset (R407, R411). -/

namespace Sys2Proof.Machine

/-- A lane's code segment after package reset is the boot ROM (R411). -/
theorem Lane.resetSegs_code : segBase (Lane.reset.segs.getD 5 0#128) = 0x007000000000 ∧
    segLimit (Lane.reset.segs.getD 5 0#128) = 0x10000 := by decide +kernel

/-- A lane's other segments after package reset begin at 0 (R411). -/
theorem Lane.resetSegs_data : ∀ n, n < 8 → n ≠ 5 → segBase (Lane.reset.segs.getD n 0#128) = 0 ∧
    segLimit (Lane.reset.segs.getD n 0#128) = 0xFFFFFFFFFFFF := by decide +kernel

/-- An isle owns no memory after package reset (R407). -/
theorem Isle.mems_reset : ∀ m ∈ Isle.reset.mems, m = 0#64 := fun _ h => List.eq_of_mem_replicate h

/-- Settles O7: each part of the reset state is the reset value of its kind, which is read off. -/
theorem reset : Obligations.Reset := by
  have lane (k : Nat) : (State.reset.core k).lane = Lane.reset := rfl
  have isle (n : Nat) : State.reset.isle n = Isle.reset := rfl
  refine ⟨⟨rfl, fun k => ?_, fun k => ?_, fun n => ⟨rfl, fun p => rfl⟩, fun n => ?_, rfl, rfl, rfl⟩, rfl, fun a => rfl,
    fun n => ⟨rfl, fun a => rfl⟩, fun k => rfl⟩
  · rw [lane]
    exact ⟨rfl, rfl, Lane.resetSegs_code.1, Lane.resetSegs_code.2, Lane.resetSegs_data, rfl, rfl, rfl, rfl, rfl, rfl, rfl, rfl, rfl,
      fun _ => rfl, rfl, rfl, rfl, rfl, rfl, rfl, fun _ => rfl, rfl, fun _ => rfl, fun _ => ⟨rfl, rfl, rfl, rfl⟩⟩
  · exact ⟨rfl, rfl, rfl, rfl, rfl, rfl, rfl, rfl, rfl, rfl, rfl, rfl, rfl, rfl, rfl, rfl, rfl, rfl, rfl⟩
  · rw [isle]
    exact ⟨rfl, Isle.mems_reset, rfl, rfl⟩

end Sys2Proof.Machine
end

section

/-! SUPPORT. What an instruction of some threads leaves alone, and what a trap makes of a thread (R32, R167, R171). -/

namespace Sys2Proof.Machine

/-! ### Frames -/

theorem State.OnlyThreads.trans {s t u : State} {core slot : Nat} (h1 : s.OnlyThreads t core slot) (h2 : t.OnlyThreads u core slot) :
    s.OnlyThreads u core slot where
  rest := by rw [h2.rest, h1.rest]
  cores k h := (h2.cores k h).trans (h1.cores k h)
  here := by rw [h2.here, h1.here]
  slots j h := (h2.slots j h).trans (h1.slots j h)
  crew w h := by
    obtain ⟨_, e⟩ := h1.crew w h
    obtain ⟨ts, e'⟩ := h2.crew _ e
    exact ⟨ts, e'⟩

theorem State.OnlyGang.trans {s t u : State} {core slot : Nat} {tids : List Nat} (h1 : s.OnlyGang t core slot tids)
    (h2 : t.OnlyGang u core slot tids) : s.OnlyGang u core slot tids :=
  ⟨h1.threads.trans h2.threads, fun j h => (h2.others j h).trans (h1.others j h)⟩

/-- A gang of one thread changes only that thread. -/
theorem State.OnlyGang.oneThread {s u : State} {core slot tid : Nat} {w : Crew} (h : s.OnlyGang u core slot [tid])
    (hw : s.crew core slot = some w) : s.OneThread u core slot tid w where
  rest := h.threads.rest
  cores := h.threads.cores
  here := h.threads.here
  slots := h.threads.slots
  crew := h.threads.crew w hw
  others t ht := h.others t (by simpa using ht)

/-- The threads of a crew replaced, but for those outside a gang. -/
theorem State.onlyGang_onCrew (s : State) (core slot : Nat) {tids : List Nat} {ts : Crew → FMap Thread}
    (h : ∀ w j, j ∉ tids → (ts w).find j = w.threads.find j) :
    s.OnlyGang (s.onCrew core slot (fun w => { w with threads := ts w })) core slot tids where
  threads := State.onlyThreads_onCrew core slot _ (fun w => ⟨ts w, rfl⟩)
  others j hj := by
    simp only [State.thread, State.crew_onCrew]
    cases s.crew core slot with
    | none => rfl
    | some w => exact h w j hj

theorem State.onlyGang_onThread (s : State) (core slot tid : Nat) (f : Thread → Thread) :
    s.OnlyGang (s.onThread core slot tid f) core slot [tid] :=
  s.onlyGang_onCrew core slot (fun w _ hj => FMap.find_modify_ne w.threads f (by simpa using hj))

/-- The members of a gang replaced. -/
theorem FMap.find_mapVal_gang (m : FMap Thread) {tids : List Nat} {p : Thread → Bool} {f : Nat → Thread → Thread} {j : Nat}
    (h : j ∉ tids) : (m.mapVal (fun t th => if tids.contains t && p th then f t th else th)).find j = m.find j := by
  rw [FMap.find_mapVal]
  simp [h]

/-- The closing of a gang leaves other threads as they are (R185). -/
theorem find_closeGang_other (n : Nat) {tids : List Nat} (last : Bool) (old ts : FMap Thread) {j : Nat} (h : j ∉ tids) :
    (closeGang n tids last old ts).find j = ts.find j := by
  simp [closeGang, h]

theorem State.onlyGang_closed (s : State) (n : Nat) (old : FMap Thread) (core slot : Nat) (tids : List Nat) (i : Instr) :
    s.OnlyGang (s.closed n old core slot tids i) core slot tids :=
  s.onlyGang_onCrew core slot (fun w _ hj => find_closeGang_other n (lastOnly i) old w.threads hj)

theorem State.onlyGang_gangMap (s : State) (core slot : Nat) (tids : List Nat) (gsize : Nat) (i : Instr)
    (pre : Ctx → Thread → Option Raise) (f : Ctx → Thread → Thread × Eff) :
    s.OnlyGang (s.gangMap core slot tids gsize i pre f) core slot tids :=
  s.onlyGang_onCrew core slot (fun w _ hj =>
    (find_closeGang_other s.cycle (lastOnly i) w.threads _ hj).trans (FMap.find_mapVal_gang w.threads hj))

theorem State.Solo.find {s : State} {core slot tid gsize : Nat} {w : Crew} {th : Thread} (h : s.Solo core slot tid gsize w th) :
    s.thread core slot tid = some th := by
  rw [State.thread_of_crew h.crew, h.thread]

/-! ### A thread after a trap -/

/-- An instruction of a thread alone in its gang comes to a trap of the thread at that instruction, and to nothing else. -/
def State.TrapsAlone (s : State) (o : Out) (core slot tid : Nat) (w : Crew) (th : Thread) (i : Instr) (r : Raise) : Prop :=
  ∃ u, o = .next u ∧ s.OneThread u core slot tid w ∧
    u.thread core slot tid = some (((th.openWin s.cycle).trapSite i).takeTrap r)

/-- The thread at its trap is as `Traps` says (R32, R171). -/
theorem Thread.traps_takeTrap (th : Thread) (i : Instr) (n : Nat) {cause detail : Nat} (hp : cause ≠ causePreempt)
    (hw : cause ≠ causeWatchdog) :
    th.Traps (((th.openWin n).trapSite i).takeTrap ⟨cause, detail, 0⟩) i n cause (th.macDetail ⟨cause, detail, 0⟩) := by
  have win : ((th.openWin n).trapSite i).win = th.winAt i n := by
    unfold Thread.trapSite Thread.winAt
    split <;> rfl
  have site : (th.openWin n).trapSite i = { th with win := th.winAt i n, lvalid := (th.openWin n).lvalid } := by
    rw [← win]
    unfold Thread.trapSite
    split <;> rw [th.openWin_eq n]
  rw [site]
  refine ⟨rfl, ?_, ?_⟩
  · simp only [Thread.takeTrap, Thread.trapWith, hp, if_false]
    rfl
  · simp [Thread.takeTrap, Thread.trapWith, Thread.cleared, hw]

theorem Thread.wdcount_takeTrap (th : Thread) (i : Instr) (n : Nat) {r : Raise} (h : r.cause ≠ causeSys) :
    (((th.openWin n).trapSite i).takeTrap r).wdcount = th.wdcount := by
  have site : ((th.openWin n).trapSite i).wdcount = th.wdcount := by
    unfold Thread.trapSite
    split <;> rw [th.openWin_eq n]
  simp [Thread.takeTrap, Thread.trapWith, Thread.cleared, h, site]

/-! ### A gang of one thread that traps -/

/-- Unless a STEP or BRK may freeze the crew (R262), a trap is the thread's own. -/
theorem State.trapThread_eq (s : State) (core slot tid : Nat) {r : Raise} (hs : r.cause ≠ causeStep) (hb : r.cause ≠ causeBrk) :
    s.trapThread core slot tid r = s.onThread core slot tid (fun th => th.takeTrap r) := by
  simp [State.trapThread, hs, hb]

/-- What the gang's two forms make of a trap, from any state that the thread alone has changed. -/
theorem State.trapsAlone_of_closed {s t : State} {core slot tid gsize : Nat} {w : Crew} {th : Thread} {i : Instr} {r : Raise}
    {old : FMap Thread} (solo : s.Solo core slot tid gsize w th) (hs : r.cause ≠ causeStep) (hb : r.cause ≠ causeBrk)
    (ht : t = (s.onThread core slot tid (fun t => t.openWin s.cycle)).onThread core slot tid (fun t => t.trapSite i)) :
    s.TrapsAlone (.next ((t.trapThread core slot tid r).closed s.cycle old core slot [tid] i)) core slot tid w th i r := by
  subst ht
  rw [State.trapThread_eq _ core slot tid hs hb]
  generalize hu : State.onThread _ core slot tid (fun th => th.takeTrap r) = u
  have frame : s.OnlyGang u core slot [tid] := by
    rw [← hu]
    exact ((s.onlyGang_onThread core slot tid _).trans (State.onlyGang_onThread _ core slot tid _)).trans
      (State.onlyGang_onThread _ core slot tid _)
  have thread : u.thread core slot tid = some (((th.openWin s.cycle).trapSite i).takeTrap r) := by
    rw [← hu]
    simp [solo.find]
  refine ⟨_, rfl, (frame.trans (u.onlyGang_closed s.cycle old core slot [tid] i)).oneThread solo.crew, ?_⟩
  rw [State.thread_closed_one s.cycle old i thread]
  exact thread

section

variable {s : State} {core slot tid gsize : Nat} {w : Crew} {th : Thread} {i : Instr} {r : Raise}

/-- An instruction over shared state that traps before its effect. -/
theorem trapsAlone_gangFold_first (solo : s.Solo core slot tid gsize w th) (pre : State → Ctx → Thread → Option Raise) (body : Body)
    (hf : firstTrap (s.ctx core slot w gsize tid) i (pre s (s.ctx core slot w gsize tid)) (th.openWin s.cycle) = some r)
    (hs : r.cause ≠ causeStep) (hb : r.cause ≠ causeBrk) :
    s.TrapsAlone (s.gangFold core slot [tid] gsize i pre body) core slot tid w th i r := by
  rw [gangFold_trap solo.crew solo.thread solo.ready hf]
  exact State.trapsAlone_of_closed solo hs hb rfl

/-- An instruction over shared state whose effect traps, with nothing translated. -/
theorem trapsAlone_gangFold_effect {s2 : State} (solo : s.Solo core slot tid gsize w th)
    {pre : State → Ctx → Thread → Option Raise} {body : Body}
    (hf : firstTrap (s.ctx core slot w gsize tid) i (pre s (s.ctx core slot w gsize tid)) (th.openWin s.cycle) = none)
    (he : body (s.ctx core slot w gsize tid) (s.onThread core slot tid (fun t => t.openWin s.cycle)) = .next (s2, .trap r))
    (hr : r.translated = none) (hs : r.cause ≠ causeStep) (hb : r.cause ≠ causeBrk) :
    s.TrapsAlone (s.gangFold core slot [tid] gsize i pre body) core slot tid w th i r := by
  rw [gangFold_raises solo.crew solo.thread solo.ready hf he]
  exact State.trapsAlone_of_closed solo hs hb (by simp only [State.trapWalk, hr])

/-- An instruction of its thread alone that traps before its effect. -/
theorem trapsAlone_gangMap_first (solo : s.Solo core slot tid gsize w th) (pre : Ctx → Thread → Option Raise)
    (f : Ctx → Thread → Thread × Eff)
    (hf : firstTrap (s.ctx core slot w gsize tid) i (pre (s.ctx core slot w gsize tid)) (th.openWin s.cycle) = some r) :
    s.TrapsAlone (.next (s.gangMap core slot [tid] gsize i pre f)) core slot tid w th i r := by
  refine ⟨_, rfl, (s.onlyGang_gangMap core slot [tid] gsize i pre f).oneThread solo.crew, ?_⟩
  rw [State.thread_gangMap solo.crew]
  have member : (w.threads.mapVal (fun t x =>
      if [tid].contains t && decide (x.life = .ready) then
        x.issue (s.ctx core slot w gsize t) i (s.schedFor (s.ctx core slot w gsize t)) (pre (s.ctx core slot w gsize t))
          (f (s.ctx core slot w gsize t))
      else x)).find tid = some (((th.openWin s.cycle).trapSite i).takeTrap r) := by
    rw [FMap.find_mapVal, solo.thread]
    simp [solo.ready, Thread.issue_trap hf]
  rw [find_closeGang_trapped s.cycle tid (lastOnly i) w.threads _ _ member rfl, member]

/-! ### Privileged instructions (R68) -/

/-- Neither an instruction for threads and lanes nor one of the lanes alone comes to its effect without its privilege. -/
theorem trapsAlone_bothOp_priv (solo : s.Solo core slot tid gsize w th) (hints : badBind i th.bind = false)
    (priv : privOf i = .b ∨ (privOf i = .s ∧ w.super = false)) (pre : State → Ctx → Thread → Option Raise) (body : Body)
    (lane : Nat → Lane → State → Host.Outcome (State × LaneEff) Fault Refusal) :
    s.TrapsAlone (bothOp i pre body lane s) core slot tid w th i ⟨causePriv, wordOf i, 0⟩ := by
  simp only [bothOp, solo.acting]
  refine trapsAlone_gangFold_first solo pre body (firstTrap_priv ?_ priv) (by simp [causePriv, causeStep]) (by simp [causePriv, causeBrk])
  rw [th.openWin_eq]
  exact hints

theorem trapsAlone_laneOp_priv (solo : s.Solo core slot tid gsize w th) (hints : badBind i th.bind = false)
    (priv : privOf i = .b ∨ (privOf i = .s ∧ w.super = false))
    (lane : Nat → Lane → State → Host.Outcome (State × LaneEff) Fault Refusal) :
    s.TrapsAlone (laneOp i lane s) core slot tid w th i ⟨causePriv, wordOf i, 0⟩ := by
  simp only [laneOp, solo.acting]
  refine trapsAlone_gangMap_first solo noTrap _ (firstTrap_priv ?_ priv)
  rw [th.openWin_eq]
  exact hints

/-- Every instruction with a privilege is of one of the two forms (R65, R68). -/
theorem trapsAlone_exec_priv (solo : s.Solo core slot tid gsize w th) (hints : badBind i th.bind = false)
    (priv : privOf i = .b ∨ (privOf i = .s ∧ w.super = false)) :
    s.TrapsAlone (exec i s) core slot tid w th i ⟨causePriv, wordOf i, 0⟩ := by
  have free (h : privOf i = .u) : False := by simp [h] at priv
  cases i with
  | eret | qpop | kgo | ipi | wfi => exact trapsAlone_laneOp_priv solo hints priv _
  | segld | qret | mload | preempt | csave | crestore | scgset | tlbinv | atp | tmove =>
    exact trapsAlone_bothOp_priv solo hints priv _ _ _
  | _ => exact (free rfl).elim

end

/-- Settles O27: the trap before the effect, with the word as the detail inside a microprogram too. -/
theorem privilegeTraps : Obligations.PrivilegeTraps := by
  intro s i core slot tid gsize w th solo hints priv
  obtain ⟨u, run, frame, thread⟩ := trapsAlone_exec_priv solo hints priv
  have detail : th.macDetail ⟨causePriv, wordOf i, 0⟩ = wordOf i := by
    unfold Thread.macDetail
    split
    · exact if_neg (show ¬ (causePriv = causeReg ∨ causePriv = causeLatch ∨ causePriv = causeIllegal) by decide)
    · rfl
  have traps := th.traps_takeTrap i s.cycle (detail := wordOf i) (show causePriv ≠ causePreempt by decide)
    (show causePriv ≠ causeWatchdog by decide)
  rw [detail] at traps
  exact ⟨u, _, run, frame, thread, traps, th.wdcount_takeTrap i s.cycle (show causePriv ≠ causeSys by decide)⟩

end Sys2Proof.Machine
end

section

/-! SUPPORT. `mcall` (R59). -/

namespace Sys2Proof.Machine

/-- A window that is not open when an instruction has opened its own was not opened by it (R47). -/
theorem Thread.openWin_of_none {th : Thread} {n : Nat} (h : (th.openWin n).win = none) : th.openWin n = th := by
  unfold Thread.openWin at h ⊢
  split
  · split
    · simp_all
    · rfl
  · rfl

@[simp] theorem State.entries_onThread (s : State) (core slot tid : Nat) (f : Thread → Thread) :
    ((s.onThread core slot tid f).core core).entries = (s.core core).entries := by simp [State.onThread]

/-- A thread at the first operation of a microprogram that starts and is as long as `e` tells (R59). -/
def Thread.enterMac (th : Thread) (cycle : Nat) (e : Nat × Nat) (p0 p1 : Opnd) : Thread :=
  { th with
    mac := some { start := e.1, len := e.2, idx := 0, p0 := p0, p1 := p1, pc := th.pc, opened := cycle }
    lvalid := 0#8, age := 0, lastIssue := some cycle }

section

variable {s : State} {core slot tid gsize : Nat} {w : Crew} {th : Thread}

/-- WHAT A SHARED INSTRUCTION OF A THREAD ALONE IN ITS GANG COMES TO whose effect changes the thread and no more. -/
theorem gangFold_thread {i : Instr} {pre : State → Ctx → Thread → Option Raise} {body : Body} {f : Thread → Thread} {e : Eff}
    (solo : s.Solo core slot tid gsize w th)
    (hf : firstTrap (s.ctx core slot w gsize tid) i (pre s (s.ctx core slot w gsize tid)) (th.openWin s.cycle) = none)
    (hb : body (s.ctx core slot w gsize tid) (s.onThread core slot tid (fun t => t.openWin s.cycle)) =
      .next ((s.onThread core slot tid (fun t => t.openWin s.cycle)).onThread core slot tid f, e)) (he : e.goes = true) :
    ∃ u, s.gangFold core slot [tid] gsize i pre body = .next u ∧ s.OneThread u core slot tid w ∧
      u.thread core slot tid = some ((f (th.openWin s.cycle)).settle s.cycle i
        (s.schedFor (s.ctx core slot w gsize tid) (f (th.openWin s.cycle))) e) := by
  rw [gangFold_one solo.crew solo.thread solo.ready hf hb he]
  generalize hu : State.onThread _ core slot tid (fun t => t.settle s.cycle i (s.schedFor (s.ctx core slot w gsize tid) t) e) = u
  have frame : s.OnlyGang u core slot [tid] := by
    rw [← hu]
    exact ((s.onlyGang_onThread core slot tid _).trans (State.onlyGang_onThread _ core slot tid _)).trans
      (State.onlyGang_onThread _ core slot tid _)
  have thread : u.thread core slot tid = some ((f (th.openWin s.cycle)).settle s.cycle i
      (s.schedFor (s.ctx core slot w gsize tid) (f (th.openWin s.cycle))) e) := by
    rw [← hu]
    simp [solo.find]
  refine ⟨_, rfl, (frame.trans (u.onlyGang_closed s.cycle w.threads core slot [tid] i)).oneThread solo.crew, ?_⟩
  rw [State.thread_closed_one s.cycle w.threads i thread]
  exact thread

theorem sharedOp_gang {tids : List Nat} (i : Instr) (pre : State → Ctx → Thread → Option Raise) (body : Body)
    (h : s.acting = .gang core slot tids gsize) : sharedOp i pre body s = s.gangFold core slot tids gsize i pre body := by
  simp only [sharedOp, h]

variable {p0 p1 : Opnd} {entry : BitVec 7}

/-- WHAT `mcall` COMES TO (R59): ILLEGAL in a window or for an entry of length 0, else the microprogram is entered. -/
theorem exec_mcall (solo : s.Solo core slot tid gsize w th) :
    ∃ body : Body, exec (.mcall p0 p1 entry) s = s.gangFold core slot [tid] gsize (.mcall p0 p1 entry) noTrapS body ∧
      body (s.ctx core slot w gsize tid) (s.onThread core slot tid (fun t => t.openWin s.cycle)) =
        if (th.openWin s.cycle).win ≠ none ∨ (FMap.get (0, 0) (s.core core).entries entry.toNat).2 = 0 then
          .next (s.onThread core slot tid (fun t => t.openWin s.cycle),
            .trap ⟨causeIllegal, wordOf (.mcall p0 p1 entry), 0⟩)
        else
          .next ((s.onThread core slot tid (fun t => t.openWin s.cycle)).onThread core slot tid
            (fun t => t.enterMac s.cycle (FMap.get (0, 0) (s.core core).entries entry.toNat) p0 p1), .keep) := by
  refine ⟨_, sharedOp_gang _ _ _ solo.acting, ?_⟩
  have thread : (s.onThread core slot tid (fun t => t.openWin s.cycle)).thread core slot tid = some (th.openWin s.cycle) := by
    simp [solo.find]
  simp only [State.ctx, thread, State.entries_onThread, Bool.or_eq_true, Option.isSome_iff_ne_none, decide_eq_true_eq]
  rfl

/-- `mcall` outside any window, with its microprogram loaded. -/
theorem exec_mcall_enters (solo : s.Solo core slot tid gsize w th)
    (fits : Fits (s.ctx core slot w gsize tid) (.mcall p0 p1 entry) th) (closed : (th.openWin s.cycle).win = none)
    (loaded : (FMap.get (0, 0) (s.core core).entries entry.toNat).2 ≠ 0) :
    ∃ u, exec (.mcall p0 p1 entry) s = .next u ∧ s.OneThread u core slot tid w ∧ u.thread core slot tid =
      some (th.enterMac s.cycle (FMap.get (0, 0) (s.core core).entries entry.toNat) p0 p1) := by
  obtain ⟨body, run, effect⟩ := exec_mcall (p0 := p0) (p1 := p1) (entry := entry) solo
  rw [if_neg (by simp [closed, loaded])] at effect
  obtain ⟨u, next, frame, thread⟩ := gangFold_thread (pre := noTrapS) solo (fits.firstTrap rfl) effect rfl
  rw [Thread.openWin_of_none closed] at thread
  exact ⟨u, run.trans next, frame, thread⟩

/-- `mcall` in a window, or of an entry that is not loaded. -/
theorem trapsAlone_mcall (solo : s.Solo core slot tid gsize w th)
    (fits : Fits (s.ctx core slot w gsize tid) (.mcall p0 p1 entry) th)
    (bad : (th.openWin s.cycle).win ≠ none ∨ (FMap.get (0, 0) (s.core core).entries entry.toNat).2 = 0) :
    s.TrapsAlone (exec (.mcall p0 p1 entry) s) core slot tid w th (.mcall p0 p1 entry)
      ⟨causeIllegal, wordOf (.mcall p0 p1 entry), 0⟩ := by
  obtain ⟨body, run, effect⟩ := exec_mcall (p0 := p0) (p1 := p1) (entry := entry) solo
  rw [if_pos bad] at effect
  rw [run]
  exact trapsAlone_gangFold_effect solo (fits.firstTrap rfl) effect rfl (show causeIllegal ≠ causeStep by decide)
    (show causeIllegal ≠ causeBrk by decide)

end

/-- Settles O28: the microprogram entered, or the trap at the `mcall` with its window closed. -/
theorem macroCalls : Obligations.MacroCalls := by
  intro s core slot tid gsize w th p0 p1 entry c i e solo fits outside
  refine ⟨fun closed loaded => exec_mcall_enters solo fits closed loaded, fun bad => ?_⟩
  obtain ⟨u, run, frame, thread⟩ := trapsAlone_mcall solo fits bad
  obtain ⟨life, trap, rest⟩ := th.traps_takeTrap i s.cycle (detail := wordOf i) (show causeIllegal ≠ causePreempt by decide)
    (show causeIllegal ≠ causeWatchdog by decide)
  refine ⟨u, _, _, run, frame, thread, life, trap, rfl, ?_, rfl, rfl, fun n => ?_⟩
  · simp [Thread.macDetail, outside]
  · rw [rest]
    rfl

end Sys2Proof.Machine
end

section

/-! SUPPORT. A step that fetches no instruction, and one whose fetch traps (R11, R69, R149, R169). -/

namespace Sys2Proof.Machine

/-! ### A fetch does not look at crews -/

/-- The crews of a core replaced. -/
def State.onCrews (s : State) (k : Nat) (g : FMap Crew → FMap Crew) : State := s.onCore k (fun c => { c with crews := g c.crews })

section

variable (s : State) (k : Nat) (g : FMap Crew → FMap Crew)

theorem State.core_onCrews (j : Nat) :
    (s.onCrews k g).core j = { s.core j with crews := if j = k then g (s.core j).crews else (s.core j).crews } := by
  by_cases h : j = k
  · subst h
    simp [State.onCrews]
  · rw [State.onCrews, s.core_onCore_ne _ h, if_neg h]

theorem State.walkFrom_onCrews (i va fuel : Nat) :
    ∀ level table, (s.onCrews k g).walkFrom i va fuel level table = s.walkFrom i va fuel level table := by
  induction fuel with
  | zero => intro level table; rfl
  | succ n ih =>
    intro level table
    unfold State.walkFrom
    simp only [ih]
    rfl

@[simp] theorem State.walk_onCrews (i va : Nat) : (s.onCrews k g).walk i va = s.walk i va := s.walkFrom_onCrews ..

@[simp] theorem State.tlbFind_onCrews (fetch : Bool) (core va : Nat) :
    (s.onCrews k g).tlbFind fetch core va = s.tlbFind fetch core va := by
  simp [State.tlbFind, State.core_onCrews, Core.tlbFor]

@[simp] theorem State.translateFor_onCrews (fetch : Bool) (core i va : Nat) :
    (s.onCrews k g).translateFor fetch core i va = s.translateFor fetch core i va := by
  simp only [State.translateFor, State.tlbFind_onCrews, State.walk_onCrews]
  rfl

@[simp] theorem State.checkPage_onCrews (v : Viewer) (w : Want) (addr : Nat) :
    (s.onCrews k g).checkPage v w addr = s.checkPage v w addr := by
  simp only [State.checkPage, State.translateFor_onCrews]
  rfl

@[simp] theorem State.fetchData_onCrews (core : Nat) (h : Hit) : (s.onCrews k g).fetchData core h = s.fetchData core h := by
  have serves (m : CMode) (x : L1Line) : (s.onCrews k g).serves core m x = s.serves core m x := by
    simp only [State.serves, State.core_onCrews]
  simp only [State.fetchData, State.fetchCopy, serves]
  rfl

@[simp] theorem State.fetchHit_onCrews (v : Viewer) (pc : Word) : (s.onCrews k g).fetchHit v pc = s.fetchHit v pc := by
  simp only [State.fetchHit, State.checkPage_onCrews, State.fetchData_onCrews]

end

/-! ### A walk leaves the crews and the operations in flight -/

theorem State.crew_walked (s : State) (fetch : Bool) (core : Nat) (t : Tlb) (k slot : Nat) :
    (s.walked fetch core t).crew k slot = s.crew k slot := by
  show (s.onCore core (fun c => if fetch then { c with itlb := putTlb t c.itlb } else { c with tlb := putTlb t c.tlb })).crew k slot =
    s.crew k slot
  by_cases h : k = core
  · subst h
    cases fetch <;> simp [State.crew]
  · simp only [State.crew, s.core_onCore_ne _ h]

theorem State.crew_noteWalk (s : State) (fetch : Bool) (core va k slot : Nat) :
    (s.noteWalk fetch core va).crew k slot = s.crew k slot := by
  unfold State.noteWalk State.noteUse
  split
  · split
    · rfl
    · rw [State.crew_walked]
      rfl
  · rfl

/-- Answers on their way that are cancelled leave their operations in flight. -/
theorem State.ops_cancelWhere (s : State) (p : MemOp → Reply → Bool) :
    (s.cancelWhere p).ops.map (fun o => { o with reply := none }) = s.ops.map (fun o => { o with reply := none }) := by
  simp only [State.cancelWhere, List.map_map]
  apply List.map_congr_left
  intro o _
  simp only [Function.comp]
  split
  · split <;> rfl
  · rfl

theorem State.ops_dropLeased (s : State) (cl : Nat) :
    (s.dropLeased cl).ops.map (fun o => { o with reply := none }) = s.ops.map (fun o => { o with reply := none }) :=
  State.ops_cancelWhere ..

theorem State.ops_noteWalk (s : State) (fetch : Bool) (core va : Nat) :
    (s.noteWalk fetch core va).ops.map (fun o => { o with reply := none }) = s.ops.map (fun o => { o with reply := none }) := by
  unfold State.noteWalk State.noteUse
  split
  · split
    · rfl
    · exact State.ops_dropLeased ..
  · exact State.ops_dropLeased ..

/-- A fetch that traps has walked at most (R325). -/
theorem State.fetched_of_error {s : State} {v : Viewer} {pc : Word} {r : Raise} (h : s.fetchHit v pc = .error r) :
    s.fetched v pc = s ∨ ∃ va, s.fetched v pc = s.noteWalk true v.core va := by
  unfold State.fetched
  rw [h]
  dsimp only
  split
  · exact .inl rfl
  · split
    · exact .inr ⟨_, rfl⟩
    · exact .inl rfl

/-! ### The acts of a gang -/

theorem State.gangTodo_of_no_instr {s : State} {core : Nat} {g : Gang} {c : Ctx} {th : Thread} {h : Hit}
    (hp : s.pick core = some g) (hg : s.gangHead core g = some (c, th)) (hm : th.mac = none)
    (hf : s.fetchHit (s.viewer c th) th.pc = .ok h) (hd : decodeThread (BitVec.ofNat 32 (s.fetchData core h).1) = none) :
    s.gangTodo core = .run (.illegalWord (BitVec.ofNat 32 (s.fetchData core h).1))
      { ((s.noteDecision core (some g)).noteFetch c th) with acting := .gang core g.slot g.tids g.gsize } := by
  have word := State.peekWord_of_fetchHit hm hf
  rw [State.core_of_gangHead hg] at word
  simp only [State.gangTodo, hp, hg, word, wordInstr, hd]
  rfl

theorem State.gangTodo_of_fetch_trap {s : State} {core : Nat} {g : Gang} {c : Ctx} {th : Thread} {r : Raise}
    (hp : s.pick core = some g) (hg : s.gangHead core g = some (c, th)) (hm : th.mac = none)
    (hf : s.fetchHit (s.viewer c th) th.pc = .error r) :
    s.gangTodo core = .done (.next (((s.noteDecision core (some g)).noteFetch c th).fetchTrap core g r)) := by
  simp only [State.gangTodo, hp, hg, State.peekWord, hm, State.fetchWord, hf]

/-- The crews of a core after an issue decision: a thread that `p` names ages, another may be picked again (R146, R181). -/
def decided (p : Nat → Nat → Bool) (m : FMap Crew) : FMap Crew :=
  m.mapVal (fun slot w => { w with threads := w.threads.mapVal (fun tid th =>
    if p slot tid then { th with age := th.age + 1 } else { th with skip := false }) })

theorem State.noteDecision_eq (s : State) (core : Nat) (g : Option Gang) :
    ∃ p, s.noteDecision core g = s.onCrews core (decided p) := ⟨_, rfl⟩

theorem State.fetchHit_noteDecision (s : State) (core : Nat) (g : Option Gang) (v : Viewer) (pc : Word) :
    (s.noteDecision core g).fetchHit v pc = s.fetchHit v pc := by
  obtain ⟨p, e⟩ := s.noteDecision_eq core g
  rw [e, State.fetchHit_onCrews]

theorem State.crew_noteDecision {s : State} {core slot : Nat} {w : Crew} (g : Option Gang) (hw : s.crew core slot = some w) :
    ∃ ts, (s.noteDecision core g).crew core slot = some { w with threads := ts } ∧
      ∀ t x, w.threads.find t = some x → ∃ age skip, ts.find t = some { x with age := age, skip := skip } := by
  obtain ⟨p, e⟩ := s.noteDecision_eq core g
  have crew : (s.core core).crews.find slot = some w := hw
  refine ⟨w.threads.mapVal (fun tid th => if p slot tid then { th with age := th.age + 1 } else { th with skip := false }), ?_,
    fun t x hx => ?_⟩
  · simp [e, State.crew, State.core_onCrews, decided, crew]
  · rw [FMap.find_mapVal, hx]
    by_cases hp : p slot t = true
    · exact ⟨x.age + 1, x.skip, by simp [hp]⟩
    · exact ⟨x.age, false, by simp [hp]⟩

/-- A member of a gang whose fetch traps, whatever its age and whether or not it has yielded (R149, R169). -/
theorem Thread.fetchTrap_fields (x : Thread) (n age : Nat) (skip : Bool) (r : Raise) :
    let y := (({ x with age := age, skip := skip } : Thread).openWin n).takeTrap r
    y.life = .trapped ∧ (∀ k, y.reg k = x.reg k) ∧ ∃ z, y.trap = some z ∧ z.cause = r.cause ∧ z.tpc = x.pcOf := by
  dsimp only
  rw [Thread.openWin_eq]
  exact ⟨rfl, fun _ => rfl, _, rfl, rfl, rfl⟩

/-- What the trap of a gang's fetch makes of a member. -/
theorem State.thread_fetchTrap {s : State} {core t : Nat} {g : Gang} {w : Crew} {x : Thread} (r : Raise)
    (hw : s.crew core g.slot = some w) (hx : w.threads.find t = some x) (ht : t ∈ g.tids) (hl : x.life = .ready) :
    (s.fetchTrap core g r).thread core g.slot t = some ((x.openWin s.cycle).takeTrap r) := by
  simp [State.thread, State.fetchTrap, hw, hx, ht, hl]

/-- The machine after the fetch of a gang outside any microprogram that trapped: its crews, memory and operations in flight. -/
theorem State.noteFetch_of_error {s : State} {c : Ctx} {th : Thread} {r : Raise} (hm : th.mac = none)
    (hf : s.fetchHit (s.viewer c th) th.pc = .error r) :
    (∀ k slot, (s.noteFetch c th).crew k slot = s.crew k slot) ∧ (s.noteFetch c th).mem = s.mem ∧
      (s.noteFetch c th).ops.map (fun o => { o with reply := none }) = s.ops.map (fun o => { o with reply := none }) := by
  have fetch : s.noteFetch c th = s.fetched (s.viewer c th) th.pc := by simp [State.noteFetch, hm]
  rw [fetch]
  rcases State.fetched_of_error hf with e | ⟨va, e⟩
  · rw [e]
    exact ⟨fun _ _ => rfl, rfl, rfl⟩
  · rw [e]
    exact ⟨s.crew_noteWalk true c.core va, s.noteWalk_mem true c.core va, s.ops_noteWalk true c.core va⟩

/-- Settles O5: the gang's act when the fetched word decodes to nothing, and when nothing is fetched. -/
theorem stepTraps : Obligations.StepTraps := by
  constructor
  · intro s rest core g c th h s0 ha hp hg hm hf hd
    exact step_of_run ((State.todo_of_agenda ha).trans (State.gangTodo_of_no_instr hp hg hm hf hd))
  · intro s rest core g c th r w s0 ha hp hg hm hf hw
    have run := step_of_done ((State.todo_of_agenda ha).trans (State.gangTodo_of_fetch_trap hp hg hm hf))
    have fault : (s0.noteDecision core (some g)).fetchHit ((s0.noteDecision core (some g)).viewer c th) th.pc = .error r :=
      (s0.fetchHit_noteDecision core (some g) _ _).trans hf
    obtain ⟨crews, mem, ops⟩ := State.noteFetch_of_error hm fault
    obtain ⟨ts, crew, find⟩ := State.crew_noteDecision (some g) hw
    refine ⟨_, run, mem, ops, fun t ht x hx hl => ?_⟩
    obtain ⟨age, skip, hy⟩ := find t x hx
    exact ⟨_, State.thread_fetchTrap r ((crews core g.slot).trans crew) hy ht hl, x.fetchTrap_fields _ age skip r⟩

end Sys2Proof.Machine
end

section

/-! SUPPORT. Hints that the opcode map does not list (R52, R69). -/

namespace Sys2Proof.Machine

/-- A `mod` hint with the reserved rounding mode 7: a word that is no instruction and binds (R52, log 76). -/
def reservedMod : Instr := .illegalWord 0xF3800000#32

/-- A thread of core 0 about to decode the reserved `mod` hint, no hint bound, far from the end of its code segment. -/
def reservedModProbe : State := { State.reset.probeThread reservedMod 0 with acting := .gang 0 0 [0] 1 }

/-- The thread binds the hint and stays Ready. -/
theorem exec_reservedMod : ∃ u y, exec reservedMod reservedModProbe = .next u ∧ u.thread 0 0 0 = some y ∧ y.life = .ready := by
  have run : (match exec reservedMod reservedModProbe with
      | .next u => (u.thread 0 0 0).map (fun y => y.life)
      | _ => none) = some .ready := by decide +kernel
  split at run
  · next u e =>
    obtain ⟨y, thread, life⟩ := Option.map_eq_some_iff.mp run
    exact ⟨u, y, e, thread, life⟩
  · cases run

theorem reservedModProbe_solo : ∃ w th, reservedModProbe.Solo 0 0 0 1 w th ∧ th.mac = none := by
  have found : ((reservedModProbe.crew 0 0).bind (fun w => w.threads.find 0)).map (fun th => (th.life, th.mac)) =
    some (.ready, none) := by decide +kernel
  obtain ⟨th, ht, e⟩ := Option.map_eq_some_iff.mp found
  obtain ⟨w, crew, thread⟩ := Option.bind_eq_some_iff.mp ht
  obtain ⟨ready, outside⟩ := Prod.mk.inj e
  exact ⟨w, th, ⟨rfl, crew, thread, ready⟩, outside⟩

/-- Refutes O29: `isHint` counts a `mod` hint with a reserved payload among the hints, and `hintForm` gives it no form wherever it
stands; but where a hint may stand it binds, and its thread does not trap there (R52, log 76). -/
theorem not_hintInstructions : ¬ Obligations.HintInstructions := by
  intro ⟨_, misplaced⟩
  obtain ⟨w, th, solo, outside⟩ := reservedModProbe_solo
  obtain ⟨u, y, _, run, -, thread, trapped, -⟩ :=
    misplaced reservedModProbe reservedMod 0 0 0 1 w th solo (by decide) outside (.inl rfl)
  obtain ⟨u', y', run', thread', ready⟩ := exec_reservedMod
  obtain rfl : u = u' := by simpa [run] using run'
  obtain rfl : y = y' := by simpa [thread] using thread'
  simp [trapped] at ready

end Sys2Proof.Machine
end

section

/-! SUPPORT. Results of the R, F and I classes (R114, R118 to R141): what the model's arithmetic comes to as operations on words,
and what a gang delivers. -/

namespace Sys2Proof.Machine

/-! ### Fields of numbers (R9) -/

theorem wordOfInt_eq_ofInt (x : Int) : wordOfInt x = BitVec.ofInt 32 x := by
  apply BitVec.eq_of_toNat_eq
  simp only [wordOfInt, wrap, BitVec.toNat_ofNat, BitVec.toNat_ofInt]
  omega

/-- A pattern read in two's complement is its signed value. -/
theorem signed_toNat {n : Nat} (x : BitVec (n + 1)) : signed (n + 1) x.toNat = x.toInt := by
  have width : x.toNat % 2 ^ (n + 1) = x.toNat := Nat.mod_eq_of_lt x.isLt
  rw [signed, width, BitVec.toInt_eq_toNat_cond, Nat.add_sub_cancel, Nat.pow_succ]
  split <;> split <;> omega

/-- A number with a field replaced: what lies above the field, the new field, what lies below. -/
theorem putBits_eq (x p v : Nat) {n : Nat} (h : n ≠ 0) :
    putBits x p n v = 2 ^ p * (2 ^ n * (x / 2 ^ p / 2 ^ n) + v % 2 ^ n) + x % 2 ^ p := by
  have field : bits x (p + n - 1) p = x / 2 ^ p % 2 ^ n := by
    rw [bits, Nat.shiftRight_eq_div_pow, show p + n - 1 + 1 - p = n by omega]
  have parts : x = 2 ^ p * (2 ^ n * (x / 2 ^ p / 2 ^ n) + x / 2 ^ p % 2 ^ n) + x % 2 ^ p := by
    rw [Nat.div_add_mod, Nat.div_add_mod]
  rw [Nat.mul_add] at parts ⊢
  rw [putBits, field, Nat.mul_comm _ (2 ^ p), Nat.mul_comm _ (2 ^ p)]
  omega

theorem testBit_putBits (x p v k : Nat) {n : Nat} (h : n ≠ 0) :
    (putBits x p n v).testBit k = if p ≤ k ∧ k < p + n then v.testBit (k - p) else x.testBit k := by
  rw [putBits_eq x p v h, Nat.testBit_two_pow_mul_add _ (Nat.mod_lt _ (Nat.two_pow_pos p)),
    Nat.testBit_two_pow_mul_add _ (Nat.mod_lt _ (Nat.two_pow_pos n))]
  by_cases below : k < p
  · rw [if_pos below, if_neg (by omega), Nat.testBit_mod_two_pow, decide_eq_true below, Bool.true_and]
  · rw [if_neg below]
    by_cases inside : k - p < n
    · rw [if_pos inside, if_pos (by omega), Nat.testBit_mod_two_pow, decide_eq_true inside, Bool.true_and]
    · rw [if_neg inside, if_neg (by omega), Nat.testBit_div_two_pow, Nat.testBit_div_two_pow]
      congr 1
      omega

/-! ### Masks and bytes of words -/

theorem toNat_ones {n : Nat} (h : n ≤ 32) : ((1#32 <<< n) - 1#32).toNat = 2 ^ n - 1 := by
  obtain rfl | h := Nat.eq_or_lt_of_le h
  · rfl
  · have bound : 2 ^ n < 2 ^ 32 := Nat.pow_lt_pow_right (by omega) h
    have pos : 0 < 2 ^ n := Nat.two_pow_pos n
    simp only [BitVec.toNat_sub, BitVec.toNat_shiftLeft, BitVec.toNat_ofNat, Nat.shiftLeft_eq]
    omega

/-- The bits of a mask of `n` ones from bit `p` up. -/
theorem getLsbD_ones {n k : Nat} (p : Nat) (h : n ≤ 32) (hk : k < 32) :
    (((1#32 <<< n) - 1#32) <<< p).getLsbD k = decide (p ≤ k ∧ k < p + n) := by
  rw [BitVec.getLsbD_shiftLeft, ← BitVec.testBit_toNat, toNat_ones h, Nat.testBit_two_pow_sub_one]
  simp only [hk, decide_true, Bool.true_and, ← decide_not, ← Bool.decide_and, decide_eq_decide]
  omega

theorem toNat_append_byte {m : Nat} (x : BitVec m) (y : BitVec 8) : (x ++ y).toNat = x.toNat * 2 ^ 8 + y.toNat := by
  rw [BitVec.toNat_append, ← Nat.shiftLeft_add_eq_or_of_lt y.isLt, Nat.shiftLeft_eq]

/-! ### Shifts by a word: the whole amount counts (R120) -/

theorem shiftLeft_word {w : Nat} (x : BitVec w) (b : Word) : (if w ≤ b.toNat then 0#w else x <<< b.toNat) = x <<< b := by
  rw [BitVec.shiftLeft_eq']
  split
  · next h => exact (BitVec.shiftLeft_eq_zero h).symm
  · rfl

theorem ushiftRight_word {w : Nat} (x : BitVec w) (b : Word) : (if w ≤ b.toNat then 0#w else x >>> b.toNat) = x >>> b := by
  rw [BitVec.ushiftRight_eq']
  split
  · next h => exact (BitVec.ushiftRight_eq_zero h).symm
  · rfl

/-- An arithmetic shift by the width or more leaves the sign alone. -/
theorem sshiftRight_of_le {w n : Nat} (x : BitVec (w + 1)) (h : w + 1 ≤ n) : x.sshiftRight n = x.sshiftRight w := by
  ext k hk
  rw [BitVec.getElem_sshiftRight, BitVec.getElem_sshiftRight, dif_neg (by omega)]
  split
  · obtain rfl : k = 0 := by omega
    simp [BitVec.msb_eq_getLsbD_last]
  · rfl

theorem sshiftRight_word {w : Nat} (x : BitVec (w + 1)) (b : Word) :
    (if w + 1 ≤ b.toNat then x.sshiftRight w else x.sshiftRight b.toNat) = x.sshiftRight' b := by
  rw [BitVec.sshiftRight_eq']
  split
  · next h => exact (sshiftRight_of_le x h).symm
  · rfl

/-! ### Minimum, maximum and unsigned comparisons (R122, R127) -/

theorem minSigned_eq (a b : Word) : minSigned a b = if a.sle b then a else b := by
  simp only [minSigned, BitVec.sle_eq_decide, decide_eq_true_eq, ← Int.not_lt, ite_not]

theorem minUnsigned_eq (a b : Word) : minUnsigned a b = if a.ule b then a else b := by
  simp only [minUnsigned, BitVec.ule_eq_decide, decide_eq_true_eq, ← Nat.not_lt, ite_not]

theorem maxSigned_eq (a b : Word) : maxSigned a b = if a.sle b then b else a := by
  simp only [maxSigned, BitVec.sle_eq_decide, decide_eq_true_eq, Int.le_iff_lt_or_eq]
  by_cases h : a.toInt = b.toInt
  · simp [BitVec.eq_of_toInt_eq h]
  · simp [h]

theorem maxUnsigned_eq (a b : Word) : maxUnsigned a b = if a.ule b then b else a := by
  simp only [maxUnsigned, BitVec.ule_eq_decide, decide_eq_true_eq, Nat.le_iff_lt_or_eq]
  by_cases h : a.toNat = b.toNat
  · simp [BitVec.eq_of_toNat_eq h]
  · simp [h]

/-- A relation between two words as unsigned integers. -/
def Rel.unsigned (r : Rel) (a b : Word) : Bool :=
  match r with
  | .eq => decide (a.toNat = b.toNat)
  | .ne => decide (a.toNat ≠ b.toNat)
  | .lt => a.ult b
  | .le => a.ule b
  | .gt => b.ult a
  | .ge => b.ule a

theorem cmpU_eq (r : Rel) (a b : Word) : cmpU r a b = truth (r.unsigned a b) := by
  refine congrArg truth ?_
  cases r with
  | eq => exact decide_eq_decide.mpr Int.ofNat_inj
  | ne => exact decide_eq_decide.mpr (not_congr Int.ofNat_inj)
  | lt | gt => exact decide_eq_decide.mpr Int.ofNat_lt
  | le | ge => exact decide_eq_decide.mpr Int.ofNat_le

namespace Alu

/-! ### Multiplication and division (R118, R119) -/

theorem mulhiS_eq (a b : Word) :
    mulhiS a b = BitVec.extractLsb' 32 32 (BitVec.signExtend 64 a * BitVec.signExtend 64 b) := by
  rw [BitVec.signExtend, BitVec.signExtend, ← BitVec.ofInt_mul]
  apply BitVec.eq_of_toNat_eq
  simp only [mulhiS, BitVec.extractLsb'_toNat, BitVec.toNat_ofInt, Nat.shiftRight_eq_div_pow]
  omega

theorem mulhiU_eq (a b : Word) :
    mulhiU a b = BitVec.extractLsb' 32 32 (BitVec.setWidth 64 a * BitVec.setWidth 64 b) := by
  apply BitVec.eq_of_toNat_eq
  simp only [mulhiU, BitVec.extractLsb'_toNat, BitVec.toNat_mul, BitVec.toNat_setWidth, BitVec.toNat_ofNat,
    Nat.shiftRight_eq_div_pow]
  rw [Nat.mod_eq_of_lt (show a.toNat < 2 ^ 64 by omega), Nat.mod_eq_of_lt (show b.toNat < 2 ^ 64 by omega)]
  omega

theorem divu_eq (a b : Word) : divu a b = if b = 0#32 then 0xFFFFFFFF#32 else a / b := by
  rw [divu, BitVec.udiv_def]

theorem remu_eq (a b : Word) : remu a b = if b = 0#32 then a else a % b := by
  rw [remu, BitVec.umod_def]

theorem ofInt_tdiv (a b : Word) : BitVec.ofInt 32 (a.toInt.tdiv b.toInt) = a.sdiv b := by
  apply BitVec.eq_of_toInt_eq
  rw [BitVec.toInt_ofInt, BitVec.toInt_sdiv]

theorem ofInt_tmod (a b : Word) : BitVec.ofInt 32 (a.toInt - b.toInt * a.toInt.tdiv b.toInt) = a.srem b := by
  rw [← Int.tmod_def, ← BitVec.toInt_srem, BitVec.ofInt_toInt]

/-- The quotient of the least integer and -1 wraps to the rule's value. -/
theorem divs_eq (a b : Word) : divs a b = if b = 0#32 then 0xFFFFFFFF#32 else a.sdiv b := by
  rw [divs, ofInt_tdiv]
  split
  · rfl
  · split
    · next h => rw [h.1, h.2]; rfl
    · rfl

theorem rems_eq (a b : Word) : rems a b = if b = 0#32 then a else a.srem b := by
  rw [rems, ofInt_tmod]
  split
  · rfl
  · split
    · next h => rw [h.1, h.2]; rfl
    · rfl

/-! ### Rotation, absolute value, selection (R120, R123, R126) -/

theorem rotl_eq (a b : Word) : rotl a b = a.rotateLeft (b.toNat % 32) := by
  rw [rotl, BitVec.rotateLeft_def, Nat.mod_mod]

theorem abs_eq (a : Word) : abs a = if a.msb then -a else a := by
  simp only [abs, BitVec.msb_eq_toInt, decide_eq_true_eq, ← Int.not_lt, ite_not]

theorem sel_eq (d a b : Word) : sel d a b = if d ≠ 0#32 then a else b := by
  rw [sel, ite_not]

/-! ### Counts of bits (R123) -/

theorem clzAux_eq {x n : Nat} {p : Nat → Bool} (h : ∀ k < n, p k = x.testBit (n - 1 - k)) :
    clzAux x n = ((List.range n).takeWhile (fun k => !p k)).length := by
  induction n generalizing p with
  | zero => rfl
  | succ n ih =>
    have tail := ih (p := fun k => p (k + 1)) fun k hk => by rw [h (k + 1) (by omega)]; congr 1; omega
    rw [clzAux, List.range_succ_eq_map, List.takeWhile_cons, h 0 (by omega), List.takeWhile_map]
    cases e : x.testBit n <;> simp [e, tail, Nat.add_comm, Function.comp_def]

theorem ctzAux_eq (x i n : Nat) : ctzAux x i n = ((List.range' i n).takeWhile (fun k => !x.testBit k)).length := by
  induction n generalizing i with
  | zero => rfl
  | succ n ih =>
    rw [ctzAux, ih, List.range'_succ, List.takeWhile_cons]
    cases x.testBit i <;> simp [Nat.add_comm]

theorem popAux_eq (x n : Nat) : popAux x n = ((List.range n).filter (fun k => x.testBit k)).length := by
  induction n with
  | zero => rfl
  | succ n ih =>
    rw [popAux, ih, List.range_succ, List.filter_append, List.length_append]
    cases e : x.testBit n <;> simp [e, b2n, Nat.add_comm]

theorem clz_eq (a : Word) : clz a = BitVec.ofNat 32 ((List.range 32).takeWhile (fun n => !a.getMsbD n)).length := by
  refine congrArg (BitVec.ofNat 32) (clzAux_eq fun k hk => ?_)
  rw [BitVec.getMsbD_eq_getLsbD, decide_eq_true hk, Bool.true_and, BitVec.testBit_toNat]

theorem ctz_eq (a : Word) : ctz a = BitVec.ofNat 32 ((List.range 32).takeWhile (fun n => !a.getLsbD n)).length :=
  congrArg (BitVec.ofNat 32) (ctzAux_eq a.toNat 0 32)

theorem popc_eq (a : Word) : popc a = BitVec.ofNat 32 ((List.range 32).filter (fun n => a.getLsbD n)).length :=
  congrArg (BitVec.ofNat 32) (popAux_eq a.toNat 32)

/-! ### Bit fields and bytes (R124, R125) -/

theorem fieldPos_eq (b : Word) : fieldPos b = bfPos b := by
  simp [fieldPos, bfPos, bits, BitVec.extractLsb'_toNat]

theorem fieldLen_eq (b : Word) : fieldLen b = bfLen b := by
  simp [fieldLen, bfLen, fieldPos_eq, bits, BitVec.extractLsb'_toNat]

theorem bfx_eq (a b : Word) : bfx a b =
    if b.getLsbD 16 then BitVec.signExtend 32 (BitVec.extractLsb' (bfPos b) (bfLen b) a)
    else BitVec.setWidth 32 (BitVec.extractLsb' (bfPos b) (bfLen b) a) := by
  simp only [bfx, fieldPos_eq, fieldLen_eq, ← BitVec.extractLsb'_toNat]
  generalize BitVec.extractLsb' (bfPos b) (bfLen b) a = f
  generalize bfLen b = n at f
  cases n with
  | zero => rw [BitVec.of_length_zero (x := f)]; simp
  | succ n => simp [signed_toNat, wordOfInt_eq_ofInt, BitVec.signExtend, bit, BitVec.getLsbD]

/-- Bit by bit: those of the field come from `a`, the others are the old ones. -/
theorem bfi_eq (d a b : Word) : bfi d a b =
    (d &&& ~~~(((1#32 <<< bfLen b) - 1#32) <<< bfPos b)) |||
      ((a <<< bfPos b) &&& (((1#32 <<< bfLen b) - 1#32) <<< bfPos b)) := by
  have short : bfLen b ≤ 32 := Nat.le_trans (Nat.min_le_right ..) (Nat.sub_le ..)
  rw [bfi, fieldPos_eq, fieldLen_eq]
  generalize bfLen b = n at *
  generalize bfPos b = p
  apply BitVec.eq_of_getLsbD_eq
  intro k hk
  have new : ((d &&& ~~~(((1#32 <<< n) - 1#32) <<< p)) ||| ((a <<< p) &&& (((1#32 <<< n) - 1#32) <<< p))).getLsbD k =
      if p ≤ k ∧ k < p + n then a.getLsbD (k - p) else d.getLsbD k := by
    rw [BitVec.getLsbD_or, BitVec.getLsbD_and, BitVec.getLsbD_and, BitVec.getLsbD_not, getLsbD_ones p short hk,
      BitVec.getLsbD_shiftLeft]
    by_cases field : p ≤ k ∧ k < p + n
    · simp [field, hk, Nat.not_lt.mpr field.1, -BitVec.getLsbD_eq_getElem]
    · simp [field, hk]
  rw [new]
  by_cases empty : n = 0
  · rw [if_pos empty, if_neg (by omega)]
  · rw [if_neg empty, BitVec.getLsbD_ofNat, testBit_putBits _ _ _ _ empty, decide_eq_true hk, Bool.true_and]
    rfl

theorem bmixField_toNat (d a b : Word) (i : Nat) :
    (bmixField d a b i).toNat = bmixByte (pair64 b a).toNat (bits d.toNat (5 * i + 4) (5 * i)) := by
  have field : bits d.toNat (5 * i + 4) (5 * i) = (BitVec.extractLsb' (5 * i) 5 d).toNat := by
    rw [bits, BitVec.extractLsb'_toNat, show 5 * i + 4 + 1 - 5 * i = 5 by omega]
  unfold bmixField bmixByte
  rw [field]
  generalize BitVec.extractLsb' (5 * i) 5 d = f
  have mode : f.toNat / 8 % 4 = (BitVec.extractLsb' 3 2 f).toNat := by
    rw [BitVec.extractLsb'_toNat, Nat.shiftRight_eq_div_pow]
  have byte : (pair64 b a).toNat >>> (8 * (f.toNat % 8)) % 256 =
      (BitVec.extractLsb' (8 * (BitVec.extractLsb' 0 3 f).toNat) 8 (b ++ a)).toNat := by
    rw [BitVec.extractLsb'_toNat, BitVec.extractLsb'_toNat]
    rfl
  have sign (x : BitVec 8) : bit x.toNat 7 = x.msb := (BitVec.msb_eq_getLsbD_last x).symm
  simp only [mode, byte, sign]
  generalize (BitVec.extractLsb' 3 2 f).toNat = m
  match m with
  | 0 => rfl
  | 1 => exact apply_ite BitVec.toNat ..
  | 2 => rfl
  | _ + 3 => rfl

theorem bmix_eq (d a b : Word) :
    bmix d a b = bmixField d a b 3 ++ bmixField d a b 2 ++ bmixField d a b 1 ++ bmixField d a b 0 := by
  apply BitVec.eq_of_toNat_eq
  simp only [bmix, ← bmixField_toNat, toNat_append_byte, BitVec.toNat_ofNat]
  omega

end Alu

/-! ### What an instruction delivers (R114) -/

/-- An instruction of the R, F and I classes whose destination and result are those of a form. -/
def Delivers (i : Instr) (form : Reads → Option (Bool × Opnd × Res)) : Prop :=
  ∃ dist nw d f, exec i = regOp i dist nw d f ∧ ∀ r, form r = some (nw, d, f r)

section
variable {i : Instr} {form : Reads → Option (Bool × Opnd × Res)} {dist : Nat} {nw : Bool} {d : Opnd}

theorem Delivers.of_eq {f : Reads → Res} (run : exec i = regOp i dist nw d f) (value : ∀ r, form r = some (nw, d, f r)) :
    Delivers i form := ⟨dist, nw, d, f, run, value⟩

/-- An instruction whose 32-bit result the form writes in another way. -/
theorem Delivers.of_word {f g : Reads → Word} (run : exec i = regOp i dist nw d (fun r => .w (f r)))
    (shape : form = fun r => some (nw, d, .w (g r))) (value : ∀ r, f r = g r) : Delivers i form :=
  .of_eq run fun r => by rw [shape, value]

/-- As `Delivers.of_word`, for a 64-bit result. -/
theorem Delivers.of_pair {f g : Reads → DWord} (run : exec i = regOp i dist nw d (fun r => .p (f r)))
    (shape : form = fun r => some (nw, d, .p (g r))) (value : ∀ r, f r = g r) : Delivers i form :=
  .of_eq run fun r => by rw [shape, value]

/-- What such an instruction comes to for a gang of any size. -/
theorem Delivers.gang {s : State} {core slot gsize : Nat} {tids : List Nat} {w : Crew} (h : Delivers i form)
    (fits : s.GangFits i core slot tids gsize w) :
    ∃ u, exec i s = .next u ∧ s.Computes u core slot tids gsize w (fun c th => form (th.reads c)) := by
  obtain ⟨dist, nw, d, f, run, value⟩ := h
  simp only [run, value]
  exact regOp_gang dist nw d f fits

end

theorem nonempty_reads : Nonempty Reads := ⟨⟨fun _ => 0#32, fun _ => 0#64, fun _ _ => 0#32, .rne, false, false⟩⟩

/-! ### Integer instructions -/

/-- Instruction by instruction: the model's operation is the rule's, or is shown equal to it. -/
theorem delivers_intForm {i : Instr} {r : Reads} (h : intForm i r ≠ none) : Delivers i (intForm i) := by
  cases i
  case add | sub | add64 | sub64 | mul | mad | mad64 | and | or | xor | andn | orn | brev | cmpEqS | cmpNeS | cmpLtS | cmpLeS |
      cmpGtS | cmpGeS => exact .of_eq rfl fun _ => rfl
  case mulhiS => exact .of_word rfl rfl fun _ => Alu.mulhiS_eq ..
  case mulhiU => exact .of_word rfl rfl fun _ => Alu.mulhiU_eq ..
  case divu => exact .of_word rfl rfl fun _ => Alu.divu_eq ..
  case divs => exact .of_word rfl rfl fun _ => Alu.divs_eq ..
  case remu => exact .of_word rfl rfl fun _ => Alu.remu_eq ..
  case rems => exact .of_word rfl rfl fun _ => Alu.rems_eq ..
  case shl => exact .of_word rfl rfl fun _ => shiftLeft_word ..
  case shr => exact .of_word rfl rfl fun _ => ushiftRight_word ..
  case sra => exact .of_word rfl rfl fun _ => sshiftRight_word ..
  case rotl => exact .of_word rfl rfl fun _ => Alu.rotl_eq ..
  case shl64 => exact .of_pair rfl rfl fun _ => shiftLeft_word ..
  case shr64 => exact .of_pair rfl rfl fun _ => ushiftRight_word ..
  case sra64 => exact .of_pair rfl rfl fun _ => sshiftRight_word ..
  case minS => exact .of_word rfl rfl fun _ => minSigned_eq ..
  case minU => exact .of_word rfl rfl fun _ => minUnsigned_eq ..
  case maxS => exact .of_word rfl rfl fun _ => maxSigned_eq ..
  case maxU => exact .of_word rfl rfl fun _ => maxUnsigned_eq ..
  case abs => exact .of_word rfl rfl fun _ => Alu.abs_eq _
  case clz => exact .of_word rfl rfl fun _ => Alu.clz_eq _
  case ctz => exact .of_word rfl rfl fun _ => Alu.ctz_eq _
  case popc => exact .of_word rfl rfl fun _ => Alu.popc_eq _
  case bfx => exact .of_word rfl rfl fun _ => Alu.bfx_eq ..
  case bfi => exact .of_word rfl rfl fun _ => Alu.bfi_eq ..
  case bmix => exact .of_word rfl rfl fun _ => Alu.bmix_eq ..
  case sel => exact .of_word rfl rfl fun _ => Alu.sel_eq ..
  case cmpEqU | cmpNeU | cmpLtU | cmpLeU | cmpGtU | cmpGeU => exact .of_word rfl rfl fun _ => cmpU_eq ..
  -- the form gives every other instruction nothing
  all_goals exact absurd rfl h

/-- Settles O11: each instruction delivers the rule's result, and what delivers a result does so for a gang of any size. -/
theorem integerResults : Obligations.IntegerResults := by
  intro s i core slot gsize tids w fits form
  obtain ⟨r⟩ := nonempty_reads
  exact (delivers_intForm (form r)).gang fits

/-! ### Immediate instructions -/

theorem Thread.imm_reads (th : Thread) (c : Ctx) : (th.reads c).imm = immValue th.bind := rfl

/-- Instruction by instruction, with the immediate as the operands give it. -/
theorem delivers_immForm {i : Instr} {r : Reads} {v : Bool → BitVec 10 → Word} (h : immForm i r v ≠ none) :
    Delivers i (fun r => immForm i r r.imm) := by
  cases i
  case movi | addi | muli | andi | ori | xori | cmpeqi | cmpnei | cmplti | cmpgei => exact .of_eq rfl fun _ => rfl
  case shli => exact .of_word rfl rfl fun _ => shiftLeft_word ..
  case shri => exact .of_word rfl rfl fun _ => ushiftRight_word ..
  case srai => exact .of_word rfl rfl fun _ => sshiftRight_word ..
  case cmpltui | cmpgeui => exact .of_word rfl rfl fun _ => cmpU_eq ..
  -- the form gives every other instruction nothing
  all_goals exact absurd rfl h

/-- Settles O12: as O11, the immediate of a thread's operands being that of R128. -/
theorem immediateResults : Obligations.ImmediateResults := by
  intro s i core slot gsize tids w fits form
  obtain ⟨r⟩ := nonempty_reads
  simpa only [Thread.imm_reads] using (delivers_immForm (form r r.imm)).gang fits

/-! ### Float instructions -/

theorem delivers_floatForm {i : Instr} {r : Reads} (h : floatForm i r ≠ none) : Delivers i (floatForm i) := by
  cases i
  case fadd | fsub | fmul | ffma | fmin | fmax | fneg | fclass | fcmpEq | fcmpNe | fcmpLt | fcmpLe | fcmpUnord | frcp | frsq |
      fsqrt | fexp2 | flog2 | fsin | fcos | fintFloor | fintCeil | fintTrunc | fintRound | paddBf | pmulBf | pfmaBf | paddH |
      pmulH | pfmaH | dp4 | f8dot4E4 | f8dot4E5 | qpack | qunpack | cvt => exact .of_eq rfl fun _ => rfl
  -- the form gives every other instruction nothing
  all_goals exact absurd rfl h

/-- Settles O13: each instruction delivers its form's value, under the fields of its mod hint. -/
theorem floatResults : Obligations.FloatResults := by
  intro s i core slot gsize tids w fits form
  obtain ⟨r⟩ := nonempty_reads
  exact (delivers_floatForm (form r)).gang fits

end Sys2Proof.Machine
end
